-- ==== Sys2Proof/Word.lean ====
section
/-! DEFINITION. The word types of the machine and fixed-size tables of plain data.
Rules: spec/00_scope.md R2, spec/01_sequential_machine.md R7. -/

namespace Sys2Proof

/-- A general register value, 64 bits (R7). -/
abbrev Word := BitVec 64

/-- The smallest addressable unit (R2). -/
abbrev Byte := BitVec 8

/-- A vector register value, 512 bits (R7). -/
abbrev VWord := BitVec 512

/-- A store address, 17 bits (R7). -/
abbrev Pc := BitVec 17

/-- A lane number of a flight; WIDTH is 32 on the Ralod 5 (R126). -/
abbrev LaneId := Fin 32

/-- A set of lanes, bit l for lane l (R323, R139). -/
abbrev LaneSet := BitVec 32

/-- Membership of a lane in a set of lanes. -/
def LaneSet.has (m : LaneSet) (l : LaneId) : Bool := m.getLsbD l.val

/-- The table whose entry at `i` is `f i`; it unfolds by structural recursion. -/
def tab {α : Type} {n : Nat} (f : Fin n → α) : Vector α n :=
  ⟨⟨List.ofFn f⟩, by simp⟩

/-- The set of the lanes at which `f` holds. -/
def laneSetOf (f : LaneId → Bool) : LaneSet :=
  (List.finRange 32).foldl (fun m l => if f l then m ||| (1#32 <<< l.val) else m) 0#32

/-- All lanes, in ascending order. -/
def allLanes : List LaneId := List.finRange 32

end Sys2Proof
end

