-- ==== Sys2Proof/Config.lean ====
section
/-! DEFINITION. What the Ralod 5 fixes, and the free values: constants without a body, of which nothing can be proved. -/

namespace Sys2Proof.Config

/-- Free choice of the old or the new copy of a cached entry that software changed before its
invalidation completed (R203); log entry 4. -/
opaque cachedOld : Nat → Nat → Bool

/-- Free value: the bytes of an SPDM answer that the device's keys, certificates and the protocol determine (R393), by
request, the request's data and place; log entry 9. -/
opaque spdmByte : Nat → List (BitVec 8) → Nat → BitVec 8

/-- Free choice of the interleave, 4 KiB rather than 256 bytes, by which a page between HBM4E and the cellar moves when the
context's buffers do not settle it (R206, R268); log entry 14. -/
opaque rowsOf4K : Nat → Bool

/-- The signature of an image's digest verifies against the public key of the given digest (R392); log entry 15. -/
opaque signatureValid : List (BitVec 8) → List (BitVec 8) → List (BitVec 8) → Bool

/-- The digest of the public key that is fused into the hub (R392); log entry 15. -/
opaque fusedKeyDigest : List (BitVec 8)

/-- The fused anti-rollback counter (R392); log entry 15. -/
opaque antiRollback : Nat

/-- The measurements of the boot ROM and of a die map with its standby choice (R393); log entry 15. -/
opaque romMeasurement : List (BitVec 8)
opaque dieMapMeasurement : List Nat → List (BitVec 8)

/-- Free value: what a lane of a cross-lane instruction takes from a lane of Active whose own source is stale or faulty
(R158, R23, R335), by the counter and that lane; log entry 11. -/
opaque lostSource : Nat → Nat → BitVec 512

/-- Free value: the flight slots that another package of the group reports free (R285), by its number and the counter; log
entry 10. -/
opaque peerSlots : Nat → Nat → Nat

end Sys2Proof.Config
end

