-- ==== Sys2Proof/Syntax.lean ====
section
/-! DEFINITION. The instructions of the Ralod 5 and the steps of the part, one constructor a row of the opcode table.
Operand forms follow spec/02_encoding.md R33 to R52. A row that is a step no word encodes carries what the step acts on. -/

namespace Sys2Proof

/-- Operand type codes TY (R36). -/
inductive Ty where
  | fp64 | fp32 | fp16 | bf16 | int8 | uint8
  | b8s | b8sf | b8u | b8uf
  | int16 | int32 | int64 | uint16 | uint32 | uint64
deriving DecidableEq, Repr

/-- Source selectors (R45). -/
inductive Src where
  | g (i : BitVec 6)
  | v (i : BitVec 5)
  | p (i : BitVec 3)
  | q (i : BitVec 3)
  | j (i : BitVec 3)
  | latch (k : BitVec 2)
  | imm (s : BitVec 7)
deriving DecidableEq, Repr

/-- Destination selectors (R46). -/
inductive Dst where
  | g (i : BitVec 6)
  | v (i : BitVec 5)
  | p (i : BitVec 3)
  | q (i : BitVec 3)
  | j (i : BitVec 3)
deriving DecidableEq, Repr

/-- Fields that every full-form word has: E (R20), PN and PG (R9), W (R24). -/
structure Hdr where
  e : Bool
  pn : Bool
  pg : BitVec 3
  w : Bool
deriving DecidableEq, Repr

/-- Format A (R35). -/
structure OpsA where
  dst : Dst
  sa : Src
  sb : Src
  sc : Src
  ty : Ty
  cc : BitVec 4
  rm : BitVec 3
  adv : Bool
  sat : Bool
  is : BitVec 3
deriving DecidableEq, Repr

/-- Format A with the modifier of MMA and MMAI (R178). -/
structure OpsG where
  dst : Dst
  sa : Src
  sb : Src
  sc : Src
  vs : BitVec 5
  base : BitVec 7
  sat : Bool
  kp : BitVec 3
deriving DecidableEq, Repr

/-- Format A with the modifier of VTBL (R166). -/
structure OpsT where
  dst : Dst
  sa : Src
  sb : Src
  sc : Src
  ty : Ty
  fill : Byte
  half : Bool
  form : Bool
  nt : BitVec 2
deriving DecidableEq, Repr

/-- Format B (R37). -/
structure OpsB where
  dst : Dst
  sa : Src
  bm : BitVec 8
  imm : BitVec 24
deriving DecidableEq, Repr

/-- Format C (R38). -/
structure OpsC where
  dst : Dst
  sa : Src
  imm : BitVec 32
deriving DecidableEq, Repr

/-- Format M (R39). -/
structure OpsM where
  dst : Dst
  sa : Src
  sb : Src
  sz : BitVec 3
  ord : BitVec 2
  sp : BitVec 3
  scope : BitVec 6
  disp : BitVec 10
deriving DecidableEq, Repr

/-- Format X (R43). -/
structure OpsX where
  dst : Dst
  sa : Src
  sb : Src
  lvl : BitVec 4
  scope : BitVec 6
  ord : BitVec 2
  qn : BitVec 3
  ls : Bool
  lane : BitVec 7
  nb : Bool
deriving DecidableEq, Repr

/-- Half-opcodes of a dual word (R49). -/
inductive Hop where
  | nop
  | add | sub | mul | and | or | xor | andn | shl | shr | sar | rol | ror | min | max | minu | maxu | mov
  | neg | not | abs
  | pand | por | pxor | pnot | pmov
  | fadd | fsub | fmul | fmin | fmax | fabs | fneg
  | vadd | vsub | vmul | vmin | vmax | vand | vor | vxor | vshl | vshr | vsar | vmov
deriving DecidableEq, Repr

/-- One slot of a dual word (R48). -/
structure Slot where
  hop : Hop
  pg : BitVec 3
  w : Bool
  dst : Dst
  src : Src
  md : BitVec 5
deriving DecidableEq, Repr

/-- A flight by its logical die, its core within the die and its FNUM (R126, R273). -/
structure FlightId where
  die : Nat
  core : Nat
  fnum : Nat
deriving DecidableEq, Repr

/-- The memory spaces whose lines carry owner tags (R195). -/
inductive Space where
  | hall | gallery | mezzanine
deriving DecidableEq, Repr

/-- The temperature sensors that R365 names. -/
inductive Sensor where
  | die (n : Fin 4)
  | standby
  | hub
  | stack (k : Fin 8)
deriving DecidableEq, Repr

/-- A member of a grid as two packages of the group name it (R271, R368): the other package, the GEN that its packet carries,
the grid's number at the package that accepted it, team and member. -/
structure PeerMember where
  pkg : BitVec 10
  gen : BitVec 32
  grid : Nat
  team : Nat
  mem : Nat
deriving DecidableEq, Repr

/-- Where a newel takes a launch record from (R281, R13): a pending-launch queue, the package launch queue,
firmware's own queue with the record's sixteen words and its header, or another package that places a member of its grid here
(R285), with its context and the record. -/
inductive RecSource where
  | flight (f : FlightId)
  | host
  | firmware (rec : List Word) (hdr : Word)
  | peer (m : PeerMember) (ctx : BitVec 6) (rec : List Word)
deriving DecidableEq, Repr

/-- What the team's barrier hears (R318): a flight has gathered; a member that runs in another package has arrived; or the
barrier of a grid of another package has passed for a member that runs here. -/
inductive BarSource where
  | flight (f : FlightId)
  | peer (m : PeerMember)
  | passed (m : PeerMember)
deriving DecidableEq, Repr

/-- What a package says of its own part of a phaser in pod mode (R307, R313): it is not claimed there; it is claimed; its
condition has ceased to hold, or holds. -/
inductive PodCond where
  | free | claimed | unmet | met
deriving DecidableEq, Repr

/-- Who sent a packet to this package, and the GEN that it carries (R368). -/
structure Sender where
  pkg : BitVec 10
  gen : BitVec 32
deriving DecidableEq, Repr

/-- What names the request that a packet answers (R371). -/
structure ReplyTo where
  pkg : BitVec 10
  gen : BitVec 32
  id : Nat
deriving DecidableEq, Repr

/-- A cancellation token: the instance, and the package that sent it, if another one did (R293). -/
structure Token where
  inst : BitVec 32
  src : Option Sender
deriving DecidableEq, Repr

/-- What is seen of an expander port: that its link is down, or that a request to it has no completion (R390). -/
structure PortSeen where
  port : Fin 2
  down : Bool
deriving DecidableEq, Repr

/-- The retirement of a member that ran in another package: the package, the GEN of its packet, and why the member failed, if it
did (R287, R289). -/
structure PeerRetired where
  pkg : BitVec 10
  gen : BitVec 32
  cause : Option (BitVec 8)
deriving DecidableEq, Repr

/-- A member that retires, and the report of another package where it ran there (R287). -/
structure Retiring where
  mem : Nat
  report : Option PeerRetired
deriving DecidableEq, Repr

/-- The atomic operations (R233). -/
inductive AtomOp where
  | add | min | max | and | or | xor | xchg | cas | fadd | inc
deriving DecidableEq, Repr

/-- What a remote access asks of the peer (R370): a load of `n` bytes, a store, an atomic, or the bytes of a counted
transfer with the phaser that counts them (R260). -/
inductive RemOp where
  | load (n : Nat)
  | store (bytes : List Byte)
  | atomic (op : AtomOp) (wide : Bool) (v cmp : Word)
  | counted (bytes : List Byte) (phaser : BitVec 12) (last : Bool)
deriving DecidableEq, Repr

/-- A remote access as the peer receives it (R368, R370); `eng`: it is a piece of an engine (R371). -/
structure RemRequest where
  id : Nat
  eng : Bool
  pkg : BitVec 10
  gen : BitVec 32
  ctx : BitVec 6
  pctx : BitVec 6
  pbuf : BitVec 12
  off : Nat
  op : RemOp
deriving DecidableEq, Repr

/-- The peer's answer (R371): data, done, a cause, or not current (R368). -/
inductive RemAnswer where
  | data (bytes : List Byte)
  | done
  | fail (cause : BitVec 8)
  | notCurrent
deriving DecidableEq, Repr

/-- A host or firmware access of bytes. -/
inductive HostAccess where
  | read (n : Nat)
  | write (bytes : List Byte)
deriving DecidableEq, Repr

/-- A firmware stage as start-up reads it (R391, R392): the SHA-384 digest of its image, its signature, the digest of
the public key that it is checked against, and its security version. -/
structure BootStage where
  digest : List Byte
  signature : List Byte
  keyDigest : List Byte
  version : Nat
deriving DecidableEq, Repr

/-- What start-up finds (R391): the stages in order, the physical dies that pass their tests, and EXPCAP of each port. -/
structure BootImage where
  stages : List BootStage
  goodDies : List Nat
  exp0 : Word
  exp1 : Word
deriving DecidableEq, Repr

/-- The instructions and the steps of the part: one constructor a row of spec/opcode_table.json. The steps that only the
outside asks for come last. -/
inductive Instr where
  /-- ADD, R65. -/
  | add (h : Hdr) (o : OpsA)
  /-- ADDI, R65. -/
  | addi (h : Hdr) (o : OpsB)
  /-- SUB, R65. -/
  | sub (h : Hdr) (o : OpsA)
  /-- NEG, R65. -/
  | neg (h : Hdr) (o : OpsA)
  /-- MUL, R65. -/
  | mul (h : Hdr) (o : OpsA)
  /-- MULH, R66. -/
  | mulh (h : Hdr) (o : OpsA)
  /-- MULHU, R66. -/
  | mulhu (h : Hdr) (o : OpsA)
  /-- DIV, R68. -/
  | div (h : Hdr) (o : OpsA)
  /-- DIVU, R68. -/
  | divu (h : Hdr) (o : OpsA)
  /-- REM, R68. -/
  | rem (h : Hdr) (o : OpsA)
  /-- REMU, R68. -/
  | remu (h : Hdr) (o : OpsA)
  /-- MIN, R67. -/
  | min (h : Hdr) (o : OpsA)
  /-- MAX, R67. -/
  | max (h : Hdr) (o : OpsA)
  /-- MINU, R67. -/
  | minu (h : Hdr) (o : OpsA)
  /-- MAXU, R67. -/
  | maxu (h : Hdr) (o : OpsA)
  /-- ABS, R65. -/
  | abs (h : Hdr) (o : OpsA)
  /-- AND, R71. -/
  | and (h : Hdr) (o : OpsA)
  /-- ANDI, R71. -/
  | andi (h : Hdr) (o : OpsB)
  /-- OR, R71. -/
  | or (h : Hdr) (o : OpsA)
  /-- ORI, R71. -/
  | ori (h : Hdr) (o : OpsB)
  /-- XOR, R71. -/
  | xor (h : Hdr) (o : OpsA)
  /-- XORI, R71. -/
  | xori (h : Hdr) (o : OpsB)
  /-- ANDN, R71. -/
  | andn (h : Hdr) (o : OpsA)
  /-- NOT, R71. -/
  | not (h : Hdr) (o : OpsA)
  /-- SHL, R72. -/
  | shl (h : Hdr) (o : OpsA)
  /-- SHLI, R73. -/
  | shli (h : Hdr) (o : OpsB)
  /-- SHR, R72. -/
  | shr (h : Hdr) (o : OpsA)
  /-- SHRI, R73. -/
  | shri (h : Hdr) (o : OpsB)
  /-- SAR, R72. -/
  | sar (h : Hdr) (o : OpsA)
  /-- SARI, R73. -/
  | sari (h : Hdr) (o : OpsB)
  /-- ROL, R72. -/
  | rol (h : Hdr) (o : OpsA)
  /-- ROR, R72. -/
  | ror (h : Hdr) (o : OpsA)
  /-- CLZ, R74. -/
  | clz (h : Hdr) (o : OpsA)
  /-- CTZ, R74. -/
  | ctz (h : Hdr) (o : OpsA)
  /-- POPC, R74. -/
  | popc (h : Hdr) (o : OpsA)
  /-- BREV, R74. -/
  | brev (h : Hdr) (o : OpsA)
  /-- BSWAP, R74. -/
  | bswap (h : Hdr) (o : OpsA)
  /-- BFX, R75. -/
  | bfx (h : Hdr) (o : OpsA)
  /-- BFXS, R75. -/
  | bfxs (h : Hdr) (o : OpsA)
  /-- BFI, R75. -/
  | bfi (h : Hdr) (o : OpsA)
  /-- MOV, R76. -/
  | mov (h : Hdr) (o : OpsA)
  /-- MOV_QUEUE_MARKER, R245. -/
  | movQueueMarker (h : Hdr) (o : OpsA)
  /-- MOV_QUEUE_POP, R243. -/
  | movQueuePop (h : Hdr) (o : OpsA)
  /-- MOVI, R76. -/
  | movi (h : Hdr) (o : OpsC)
  /-- MOVHI, R76. -/
  | movhi (h : Hdr) (o : OpsC)
  /-- SEL, R76. -/
  | sel (h : Hdr) (o : OpsA)
  /-- LEA, R76. -/
  | lea (h : Hdr) (o : OpsA)
  /-- CMP, R77. -/
  | cmp (h : Hdr) (o : OpsA)
  /-- CMPU, R77. -/
  | cmpu (h : Hdr) (o : OpsA)
  /-- CMPI, R77. -/
  | cmpi (h : Hdr) (o : OpsB)
  /-- PAND, R78. -/
  | pand (h : Hdr) (o : OpsA)
  /-- POR, R78. -/
  | por (h : Hdr) (o : OpsA)
  /-- PXOR, R78. -/
  | pxor (h : Hdr) (o : OpsA)
  /-- PNOT, R78. -/
  | pnot (h : Hdr) (o : OpsA)
  /-- PMOV, R78. -/
  | pmov (h : Hdr) (o : OpsA)
  /-- BRA, R80. -/
  | bra (h : Hdr) (o : OpsC)
  /-- BRX, R81. -/
  | brx (h : Hdr) (o : OpsA)
  /-- CALL, R80. -/
  | call (h : Hdr) (o : OpsC)
  /-- CALLX, R81. -/
  | callx (h : Hdr) (o : OpsA)
  /-- RET, R81. -/
  | ret (h : Hdr) (o : OpsA)
  /-- JF, R82. -/
  | jf (h : Hdr) (o : OpsC)
  /-- CFETCH, R86. -/
  | cfetch (h : Hdr) (o : OpsX)
  /-- EXIT, R83. -/
  | exit (h : Hdr) (o : OpsA)
  /-- NOP, R84. -/
  | nop (h : Hdr) (o : OpsA)
  /-- REP, R27. -/
  | rep (h : Hdr) (o : OpsB)
  /-- MFS, R89. -/
  | mfs (h : Hdr) (o : OpsB)
  /-- MTS, R90. -/
  | mts (h : Hdr) (o : OpsB)
  /-- TRAP, R91. -/
  | trap (h : Hdr) (o : OpsB)
  /-- LDH, R93. -/
  | ldh (h : Hdr) (o : OpsM)
  /-- STH, R93. -/
  | sth (h : Hdr) (o : OpsM)
  /-- DUAL_WORD, R52. -/
  | dualWord (e : Bool) (a b : Slot)
  /-- FADD, R113. -/
  | fadd (h : Hdr) (o : OpsA)
  /-- FSUB, R113. -/
  | fsub (h : Hdr) (o : OpsA)
  /-- FMUL, R113. -/
  | fmul (h : Hdr) (o : OpsA)
  /-- FFMA, R113. -/
  | ffma (h : Hdr) (o : OpsA)
  /-- FDIV, R113. -/
  | fdiv (h : Hdr) (o : OpsA)
  /-- FSQRT, R113. -/
  | fsqrt (h : Hdr) (o : OpsA)
  /-- FMIN, R114. -/
  | fmin (h : Hdr) (o : OpsA)
  /-- FMAX, R114. -/
  | fmax (h : Hdr) (o : OpsA)
  /-- FABS, R115. -/
  | fabs (h : Hdr) (o : OpsA)
  /-- FNEG, R115. -/
  | fneg (h : Hdr) (o : OpsA)
  /-- FCMP, R116. -/
  | fcmp (h : Hdr) (o : OpsA)
  /-- FCLASS, R117. -/
  | fclass (h : Hdr) (o : OpsA)
  /-- FRND, R118. -/
  | frnd (h : Hdr) (o : OpsA)
  /-- FCVT, R119. -/
  | fcvt (h : Hdr) (o : OpsA)
  /-- FCVTI, R120. -/
  | fcvti (h : Hdr) (o : OpsA)
  /-- ICVTF, R121. -/
  | icvtf (h : Hdr) (o : OpsA)
  /-- CVT8, R122. -/
  | cvt8 (h : Hdr) (o : OpsA)
  /-- CVT8X, R123. -/
  | cvt8x (h : Hdr) (o : OpsA)
  /-- FSCALE, R124. -/
  | fscale (h : Hdr) (o : OpsA)
  /-- SCLX, R125. -/
  | sclx (h : Hdr) (o : OpsA)
  /-- RJE, R141. -/
  | rje (h : Hdr) (o : OpsA)
  /-- RJW, R141. -/
  | rjw (h : Hdr) (o : OpsA)
  /-- RJX, R141. -/
  | rjx (h : Hdr) (o : OpsA)
  /-- VADD, R150. -/
  | vadd (h : Hdr) (o : OpsA)
  /-- VSUB, R150. -/
  | vsub (h : Hdr) (o : OpsA)
  /-- VMUL, R150. -/
  | vmul (h : Hdr) (o : OpsA)
  /-- VFMA, R151. -/
  | vfma (h : Hdr) (o : OpsA)
  /-- VDIV, R150. -/
  | vdiv (h : Hdr) (o : OpsA)
  /-- VSQRT, R150. -/
  | vsqrt (h : Hdr) (o : OpsA)
  /-- VMIN, R150. -/
  | vmin (h : Hdr) (o : OpsA)
  /-- VMAX, R150. -/
  | vmax (h : Hdr) (o : OpsA)
  /-- VAND, R152. -/
  | vand (h : Hdr) (o : OpsA)
  /-- VOR, R152. -/
  | vor (h : Hdr) (o : OpsA)
  /-- VXOR, R152. -/
  | vxor (h : Hdr) (o : OpsA)
  /-- VSHL, R152. -/
  | vshl (h : Hdr) (o : OpsA)
  /-- VSHR, R152. -/
  | vshr (h : Hdr) (o : OpsA)
  /-- VSAR, R152. -/
  | vsar (h : Hdr) (o : OpsA)
  /-- VCMP, R153. -/
  | vcmp (h : Hdr) (o : OpsA)
  /-- VSEL, R154. -/
  | vsel (h : Hdr) (o : OpsA)
  /-- VCVT, R155. -/
  | vcvt (h : Hdr) (o : OpsA)
  /-- VCVT8, R156. -/
  | vcvt8 (h : Hdr) (o : OpsA)
  /-- VSPLAT, R157. -/
  | vsplat (h : Hdr) (o : OpsA)
  /-- VEXT, R157. -/
  | vext (h : Hdr) (o : OpsA)
  /-- VINS, R157. -/
  | vins (h : Hdr) (o : OpsA)
  /-- VMOV, R157. -/
  | vmov (h : Hdr) (o : OpsA)
  /-- VSHFL, R160. -/
  | vshfl (h : Hdr) (o : OpsA)
  /-- GSHFL, R160. -/
  | gshfl (h : Hdr) (o : OpsA)
  /-- BALLOT, R161. -/
  | ballot (h : Hdr) (o : OpsA)
  /-- VRED, R162. -/
  | vred (h : Hdr) (o : OpsA)
  /-- VREDS, R164. -/
  | vreds (h : Hdr) (o : OpsA)
  /-- VBFLY, R165. -/
  | vbfly (h : Hdr) (o : OpsA)
  /-- VTBL, R166. -/
  | vtbl (h : Hdr) (o : OpsT)
  /-- VBCAST, R167. -/
  | vbcast (h : Hdr) (o : OpsA)
  /-- VLDH, R169. -/
  | vldh (h : Hdr) (o : OpsM)
  /-- VSTH, R169. -/
  | vsth (h : Hdr) (o : OpsM)
  /-- VLDHX, R170. -/
  | vldhx (h : Hdr) (o : OpsM)
  /-- VSTHX, R170. -/
  | vsthx (h : Hdr) (o : OpsM)
  /-- MMODE_ON, R177. -/
  | mmodeOn (h : Hdr) (o : OpsA)
  /-- MMODE_OFF, R177. -/
  | mmodeOff (h : Hdr) (o : OpsA)
  /-- MMODE_GATHER_COMPLETE, R177. -/
  | mmodeGatherComplete (f : FlightId)
  /-- MMA, R180. -/
  | mma (h : Hdr) (o : OpsG)
  /-- MMAI, R180. -/
  | mmai (h : Hdr) (o : OpsG)
  /-- MZERO, R187. -/
  | mzero (h : Hdr) (o : OpsA)
  /-- MDRAIN, R188. -/
  | mdrain (h : Hdr) (o : OpsA)
  /-- MSTAT, R189. -/
  | mstat (h : Hdr) (o : OpsA)
  /-- GRID_OPERATION, R184. -/
  | gridOperation (core : Nat) (eng : Nat)
  /-- ENGINE_STALL_RELEASE, R184. -/
  | engineStallRelease (f : FlightId)
  /-- LDG, R211. -/
  | ldg (h : Hdr) (o : OpsM)
  /-- STG, R211. -/
  | stg (h : Hdr) (o : OpsM)
  /-- LDZ, R211. -/
  | ldz (h : Hdr) (o : OpsM)
  /-- STZ, R211. -/
  | stz (h : Hdr) (o : OpsM)
  /-- LDM, R211. -/
  | ldm (h : Hdr) (o : OpsM)
  /-- STM, R211. -/
  | stm (h : Hdr) (o : OpsM)
  /-- LDX, R211. -/
  | ldx (h : Hdr) (o : OpsM)
  /-- STX, R211. -/
  | stx (h : Hdr) (o : OpsM)
  /-- VLDG, R212. -/
  | vldg (h : Hdr) (o : OpsM)
  /-- VSTG, R212. -/
  | vstg (h : Hdr) (o : OpsM)
  /-- VLDZ, R212. -/
  | vldz (h : Hdr) (o : OpsM)
  /-- VSTZ, R212. -/
  | vstz (h : Hdr) (o : OpsM)
  /-- VLDM, R212. -/
  | vldm (h : Hdr) (o : OpsM)
  /-- VSTM, R212. -/
  | vstm (h : Hdr) (o : OpsM)
  /-- VLDMX, R213. -/
  | vldmx (h : Hdr) (o : OpsM)
  /-- VSTMX, R213. -/
  | vstmx (h : Hdr) (o : OpsM)
  /-- VLDX, R212. -/
  | vldx (h : Hdr) (o : OpsM)
  /-- VSTX, R212. -/
  | vstx (h : Hdr) (o : OpsM)
  /-- PPROBE, R217. -/
  | pprobe (h : Hdr) (o : OpsM)
  /-- PREL, R217. -/
  | prel (h : Hdr) (o : OpsM)
  /-- PREL_EFFECT, R200. -/
  | prelEffect
  /-- PCLR, R217. -/
  | pclr (h : Hdr) (o : OpsM)
  /-- FENCE, R230. -/
  | fence (h : Hdr) (o : OpsX)
  /-- FENCE_POD_TIMEOUT, R231. -/
  | fencePodTimeout (f : FlightId) (l : LaneId)
  /-- AADD, R233. -/
  | aadd (h : Hdr) (o : OpsM)
  /-- AMIN, R233. -/
  | amin (h : Hdr) (o : OpsM)
  /-- AMAX, R233. -/
  | amax (h : Hdr) (o : OpsM)
  /-- AAND, R233. -/
  | aand (h : Hdr) (o : OpsM)
  /-- AOR, R233. -/
  | aor (h : Hdr) (o : OpsM)
  /-- AXOR, R233. -/
  | axor (h : Hdr) (o : OpsM)
  /-- AXCHG, R233. -/
  | axchg (h : Hdr) (o : OpsM)
  /-- ACAS, R233. -/
  | acas (h : Hdr) (o : OpsM)
  /-- AFADD, R238. -/
  | afadd (h : Hdr) (o : OpsM)
  /-- AINC, R233. -/
  | ainc (h : Hdr) (o : OpsM)
  /-- LANE_RESUME, R30. -/
  | laneResume (f : FlightId) (l : LaneId)
  /-- ARBITRATE, R133. -/
  | arbitrate (core : Nat) (eng : Nat)
  /-- SWAP_OUT, R135. -/
  | swapOut (f : FlightId)
  /-- SWAP_IN, R136. -/
  | swapIn (f : FlightId) (slot : Nat)
  /-- SEGMENT_FETCH_COMPLETION, R86. -/
  | segmentFetchCompletion (core : Nat) (slot : Nat)
  /-- QBIND, R248. -/
  | qbind (h : Hdr) (o : OpsX)
  /-- QTRY, R249. -/
  | qtry (h : Hdr) (o : OpsX)
  /-- QCNT, R250. -/
  | qcnt (h : Hdr) (o : OpsX)
  /-- COPY, R259. -/
  | copy (h : Hdr) (o : OpsX)
  /-- MCAST, R263. -/
  | mcast (h : Hdr) (o : OpsX)
  /-- REDUCE, R264. -/
  | reduce (h : Hdr) (o : OpsX)
  /-- GEMV, R265. -/
  | gemv (h : Hdr) (o : OpsX)
  /-- FOOT, R256. -/
  | foot (h : Hdr) (o : OpsX)
  /-- MIGR, R268. -/
  | migr (h : Hdr) (o : OpsX)
  /-- ENGINE_COMMAND_START, R258. -/
  | engineCommandStart (cmd : Nat)
  /-- ENGINE_PIECE, R252. -/
  | enginePiece (cmd : Nat) (piece : Nat)
  /-- RESULT_DELIVERY, R242. -/
  | resultDelivery (cmd : Nat)
  /-- GUARD_PASS, R200. -/
  | guardPass (cmd : Nat) (line : Nat)
  /-- FAULT_RECORD_WRITE, R209. -/
  | faultRecordWrite
  /-- MIGRATION_START, R359. -/
  | migrationStart (cmd : Nat)
  /-- MIGRATION_ROUND, R359. -/
  | migrationRound (cmd : Nat)
  /-- MIGRATION_SWITCH, R359. -/
  | migrationSwitch (cmd : Nat)
  /-- LAUNCH, R278. -/
  | launch (h : Hdr) (o : OpsX)
  /-- TSPLIT, R280. -/
  | tsplit (h : Hdr) (o : OpsA)
  /-- CANCEL, R292. -/
  | cancel (h : Hdr) (o : OpsX)
  /-- CANCEL_TOKEN_ARRIVAL, R293. -/
  | cancelTokenArrival (ctx : BitVec 6) (inst : Token)
  /-- RECORD_ACCEPT, R281. -/
  | recordAccept (src : RecSource)
  /-- MEMBER_PLACE, R285. -/
  | memberPlace (grid : Nat)
  /-- IMAGE_LOAD, R275. -/
  | imageLoad (f : FlightId)
  /-- MEMBER_RETIRE, R287. -/
  | memberRetire (grid : Nat) (team : Nat) (mem : Retiring)
  /-- FINIT, R299. -/
  | finit (h : Hdr) (o : OpsX)
  /-- FRES, R299. -/
  | fres (h : Hdr) (o : OpsX)
  /-- FREG, R304. -/
  | freg (h : Hdr) (o : OpsX)
  /-- FWAIT, R302. -/
  | fwait (h : Hdr) (o : OpsX)
  /-- FPOLL, R299. -/
  | fpoll (h : Hdr) (o : OpsX)
  /-- FFAIL, R299. -/
  | ffail (h : Hdr) (o : OpsX)
  /-- PHREG, R310. -/
  | phreg (h : Hdr) (o : OpsX)
  /-- PHDROP, R310. -/
  | phdrop (h : Hdr) (o : OpsX)
  /-- PHARR, R311. -/
  | pharr (h : Hdr) (o : OpsX)
  /-- PHWAIT, R314. -/
  | phwait (h : Hdr) (o : OpsX)
  /-- PHNEXT, R314. -/
  | phnext (h : Hdr) (o : OpsX)
  /-- PHSET, R315. -/
  | phset (h : Hdr) (o : OpsX)
  /-- PHEXP, R312. -/
  | phexp (h : Hdr) (o : OpsX)
  /-- BAR, R318. -/
  | bar (h : Hdr) (o : OpsX)
  /-- BAR_ARRIVE, R318. -/
  | barArrive (src : BarSource)
  /-- TRAP_ENTRY, R325. -/
  | trapEntry (f : FlightId)
  /-- TFIX, R330. -/
  | tfix (h : Hdr) (o : OpsA)
  /-- RTE_RETRY, R331. -/
  | rteRetry (h : Hdr) (o : OpsA)
  /-- RTE_SKIP, R331. -/
  | rteSkip (h : Hdr) (o : OpsA)
  /-- RTE_GATHER_COMPLETE, R331. -/
  | rteGatherComplete (f : FlightId)
  /-- CTXSV_SAVE, R341. -/
  | ctxsvSave (h : Hdr) (o : OpsX)
  /-- CTXSV_RESTORE, R341. -/
  | ctxsvRestore (h : Hdr) (o : OpsX)
  /-- CTXSV_SAVE_FREE, R341. -/
  | ctxsvSaveFree (h : Hdr) (o : OpsX)
  /-- CTXSV_RESUME, R341. -/
  | ctxsvResume (h : Hdr) (o : OpsX)
  /-- ERRQPOP, R376. -/
  | errqpop (h : Hdr) (o : OpsX)
  /-- PREEMPTION_TIMEOUT, R337. -/
  | preemptionTimeout (f : FlightId)
  /-- PREEMPTION_STOP, R337. -/
  | preemptionStop (f : FlightId)
  /-- LINE_MOVE, R354. -/
  | lineMove (bad : Bool)
  /-- SWEEP_START, R355. -/
  | sweepStart
  /-- PEER_REMOTE_ACCESS, R370. -/
  | peerRemoteAccess (r : RemRequest)
  /-- REMOTE_ANSWER, R371. -/
  | remoteAnswer (id : ReplyTo) (a : RemAnswer)
  /-- REMOTE_TIMEOUT, R371. -/
  | remoteTimeout (id : Nat)
  /-- KEEP_ALIVE, R371. -/
  | keepAlive (id : ReplyTo)
  /-- REMOTE_STORE_DEADLINE, R371. -/
  | remoteStoreDeadline (id : Nat)
  /-- LAUNCH_QUEUE_WAKE, R382. -/
  | launchQueueWake
  /-- INVAL_COMPLETE, R384. -/
  | invalComplete
  /-- CCOUNT_INCREMENT, R14. -/
  | ccountIncrement
  /-- FIRMWARE_SERVICE_ACTION, R328. -/
  | firmwareServiceAction (f : FlightId)
  /-- HEARTBEAT_TIMEOUT, R350. -/
  | heartbeatTimeout (die : Nat)
  /-- EXPANDER_LOST, R390. -/
  | expanderLost (port : PortSeen)
  /-- KEEP_ALIVE_SEND, R371. -/
  | keepAliveSend (id : Nat)
  /-- RATE_POINT_IN_EFFECT, R361. -/
  | ratePointInEffect (unit : Nat)
  /-- SCRUB, R332. -/
  | scrub (die : Nat) (fixed : Nat)
  /-- PREEMPTION_REQUEST, R337. -/
  | preemptionRequest (f : FlightId)
  /-- POD_PHASER_MESSAGE, R313. -/
  | podPhaserMessage (ctx : BitVec 6) (num : BitVec 12) (pkg : Sender) (met : PodCond)
  /-- UNCORRECTABLE_LINE_ERROR, R333. -/
  | uncorrectableLineError (sp : Space) (unit : Nat) (line : Nat)
  /-- INSTRUCTION_STORE_ERROR, R334. -/
  | instructionStoreError (core : Nat) (slot : Nat)
  /-- DIE_LOST, R351. -/
  | dieLost (die : Nat)
  /-- CURRENT_LIMIT_TRIP, R364. -/
  | currentLimitTrip
  /-- CURRENT_LIMIT_RELEASE, R364. -/
  | currentLimitRelease
  /-- TEMPERATURE_THRESHOLD, R365. -/
  | temperatureThreshold (at_ : Sensor) (deg : Nat)
  /-- MONITOR_REFRESH, R395. -/
  | monitorRefresh (readings : List (Nat × Word))
  /-- GENCOMMIT, R368. -/
  | gencommit (v : Word)
  /-- PKGNUM_WRITE, R366. -/
  | pkgnumWrite (v : Word)
  /-- CTXCTL_CREATE, R381. -/
  | ctxctlCreate (v : Word)
  /-- CTXCTL_END, R381. -/
  | ctxctlEnd (v : Word)
  /-- FANS_RESOLVE, R383. -/
  | fansResolve (v : Word)
  /-- FANS_REFUSE, R383. -/
  | fansRefuse (v : Word)
  /-- INVAL_CONTEXT, R384. -/
  | invalContext (v : Word)
  /-- INVAL_BUFFER, R384. -/
  | invalBuffer (v : Word)
  /-- INVAL_PAGE, R384. -/
  | invalPage (v : Word)
  /-- INVAL_SCOPE, R384. -/
  | invalScope (v : Word)
  /-- SVCCTL_WRITE_IMAGE, R385. -/
  | svcctlWriteImage (v : Word)
  /-- SVCCTL_READ_IMAGE, R385. -/
  | svcctlReadImage (v : Word)
  /-- SVCCTL_RETRY, R385. -/
  | svcctlRetry (v : Word)
  /-- SVCCTL_SKIP, R385. -/
  | svcctlSkip (v : Word)
  /-- SVCCTL_END_MEMBER, R385. -/
  | svcctlEndMember (v : Word)
  /-- SVCCTL_END_CONTEXT, R385. -/
  | svcctlEndContext (v : Word)
  /-- RESVSET, R386. -/
  | resvset (v : Word)
  /-- FLTCTL_STOP, R387. -/
  | fltctlStop (v : Word)
  /-- FLTCTL_RESUME, R387. -/
  | fltctlResume (v : Word)
  /-- FLTCTL_SWITCH_OUT, R387. -/
  | fltctlSwitchOut (v : Word)
  /-- FLTCTL_RESUME_CORE, R387. -/
  | fltctlResumeCore (v : Word)
  /-- REQ_DIE_LOST, R388. -/
  | reqDieLost (v : Word)
  /-- REQ_RETIRE_STACK, R355. -/
  | reqRetireStack (v : Word)
  /-- REQ_RATE, R361. -/
  | reqRate (v : Word)
  /-- REQ_EXPANDER_UP, R390. -/
  | reqExpanderUp (v : Word)
  /-- FRBASE_WRITE, R379. -/
  | frbaseWrite (v : Word)
  /-- EVBASE_WRITE, R379. -/
  | evbaseWrite (v : Word)
  /-- FRCONS_WRITE, R379. -/
  | frconsWrite (v : Word)
  /-- EVCONS_WRITE, R379. -/
  | evconsWrite (v : Word)
  /-- HOST_REGISTER_WRITE, R379. -/
  | hostRegisterWrite (off : Nat) (v : Word)
  /-- HOST_MEMORY_ACCESS, R378. -/
  | hostMemoryAccess (addr : Nat) (a : HostAccess)
  /-- FIRMWARE_HOST_ACCESS, R394. -/
  | firmwareHostAccess (addr : Nat) (a : HostAccess)
  /-- POWER_GOOD, R391. -/
  | powerGood (b : BootImage)
  /-- GET_VERSION, R393. -/
  | getVersion
  /-- GET_CAPABILITIES, R393. -/
  | getCapabilities
  /-- NEGOTIATE_ALGORITHMS, R393. -/
  | negotiateAlgorithms (p384 : Bool) (sha384 : Bool)
  /-- GET_DIGESTS, R393. -/
  | getDigests
  /-- GET_CERTIFICATE, R393. -/
  | getCertificate (off : Nat) (len : Nat)
  /-- CHALLENGE, R393. -/
  | challenge (nonce : List Byte)
  /-- GET_MEASUREMENTS, R393. -/
  | getMeasurements (index : Nat) (nonce : List Byte)
  /-- DIE_LINK_RETRAIN, R347. -/
  | dieLinkRetrain (die : Nat)
  /-- REGISTER_FILE_ERROR, R335. -/
  | registerFileError (f : FlightId) (l : LaneId) (sel : BitVec 8) (gran : BitVec 3)
  /-- EXPANDER_LINK_UP, R390. -/
  | expanderLinkUp (port : Fin 2) (up : Bool)
deriving DecidableEq, Repr

end Sys2Proof
end

