-- ==== Sys2Proof/WellFormed.lean ====
section
/-! DEFINITION. Which instructions are well formed: the decode rules R21, R35 to R54 and each instruction's own row.
`Instr.wf` is what the decoder asks of every word; a word that fails it meets the fate of R54. -/

namespace Sys2Proof

/-- The type of a 4-bit code (R36). -/
def Ty.ofCode (c : BitVec 4) : Ty :=
  match c.toNat with
  | 0 => .fp64 | 1 => .fp32 | 2 => .fp16 | 3 => .bf16 | 4 => .int8 | 5 => .uint8
  | 6 => .b8s | 7 => .b8sf | 8 => .b8u | 9 => .b8uf
  | 10 => .int16 | 11 => .int32 | 12 => .int64 | 13 => .uint16 | 14 => .uint32 | _ => .uint64

/-- The 4-bit code of a type (R36). -/
def Ty.code : Ty → BitVec 4
  | .fp64 => 0 | .fp32 => 1 | .fp16 => 2 | .bf16 => 3 | .int8 => 4 | .uint8 => 5
  | .b8s => 6 | .b8sf => 7 | .b8u => 8 | .b8uf => 9
  | .int16 => 10 | .int32 => 11 | .int64 => 12 | .uint16 => 13 | .uint32 => 14 | .uint64 => 15

/-- FP64, FP32, FP16 and BF16. -/
def Ty.isFp : Ty → Bool
  | .fp64 | .fp32 | .fp16 | .bf16 => true
  | _ => false

/-- The binary8 types. -/
def Ty.isB8 : Ty → Bool
  | .b8s | .b8sf | .b8u | .b8uf => true
  | _ => false

/-- The integer types. -/
def Ty.isInt (t : Ty) : Bool := !t.isFp && !t.isB8

/-- Width in bits of a sub-element (R144). -/
def Ty.width : Ty → Nat
  | .fp64 | .int64 | .uint64 => 64
  | .fp32 | .int32 | .uint32 => 32
  | .fp16 | .bf16 | .int16 | .uint16 => 16
  | _ => 8

/-- Sub-elements of a vector register (R144). -/
def Ty.count (t : Ty) : Nat := 512 / t.width

namespace Wf

/-- What DST of an instruction is (R47): no register; a general, predicate or vector result; a general result whose DST is
zero with W = 0 (R297); a data register that is read (R39); a predicate of the non-blocking form only. -/
inductive DstRule where
  | no | g | gX | p | v | gData | vData | nbPred
deriving DecidableEq, Repr

/-- The field is unused and zero (R47). -/
def z (s : Src) : Bool := s == .g 0
/-- A general register. -/
def gReg : Src → Bool
  | .g _ => true
  | _ => false
/-- A general register or latch. -/
def gl : Src → Bool
  | .g _ | .latch _ => true
  | _ => false
/-- A general register, latch or immediate (R62). -/
def gi : Src → Bool
  | .g _ | .latch _ | .imm _ => true
  | _ => false
/-- A general register or immediate (R247). -/
def gOrImm : Src → Bool
  | .g _ | .imm _ => true
  | _ => false
/-- A predicate or latch (R78). -/
def pr : Src → Bool
  | .p _ | .latch _ => true
  | _ => false
/-- A vector register or latch. -/
def vr : Src → Bool
  | .v _ | .latch _ => true
  | _ => false
/-- A vector register, latch or immediate (R146). -/
def vi : Src → Bool
  | .v _ | .latch _ | .imm _ => true
  | _ => false
/-- A rejoin mask (R140). -/
def jr : Src → Bool
  | .j _ => true
  | _ => false
/-- A general register, predicate or latch (R161). -/
def gp : Src → Bool
  | .g _ | .p _ | .latch _ => true
  | _ => false
/-- A non-negative immediate (R156). -/
def partImm : Src → Bool
  | .imm s => decide (s.toNat < 64)
  | _ => false
/-- A source of TFIX, whose class the trapped word decides (R330). -/
def tfixSrc : Src → Bool
  | .g _ | .p _ | .v _ | .latch _ | .imm _ => true
  | _ => false

def ty0 (t : Ty) : Bool := t == .fp64
def ty03 (t : Ty) : Bool := t.isFp
def tyInt (t : Ty) : Bool := t.isInt
def tyB8 (t : Ty) : Bool := t.isB8
def tyElem (t : Ty) : Bool := !t.isB8
def tyClass (t : Ty) : Bool := t.isFp || t.isB8
def tyVfma (t : Ty) : Bool := t.isFp || t == .int32
def tyVcvt8 (t : Ty) : Bool := t.isFp || t.isB8
def cc0 (c : BitVec 4) : Bool := c == 0
def ccAny (_ : BitVec 4) : Bool := true
/-- Conditions 0 to 5 (R77). -/
def ccInt (c : BitVec 4) : Bool := decide (c.toNat ≤ 5)
/-- Conditions 0 to 7 (R116). -/
def ccAll (c : BitVec 4) : Bool := decide (c.toNat ≤ 7)
def ccFp (c : BitVec 4) : Bool := (Ty.ofCode c).isFp
def ccIntTy (c : BitVec 4) : Bool := (Ty.ofCode c).isInt
def ccB8 (c : BitVec 4) : Bool := (Ty.ofCode c).isB8
def ccElem (c : BitVec 4) : Bool := !(Ty.ofCode c).isB8
/-- Reduction operators 0 to 5 (R162). -/
def ccRed (c : BitVec 4) : Bool := decide (c.toNat ≤ 5)
def rm0 (r : BitVec 3) : Bool := r == 0
/-- Rounding codes 0 to 5 (R36). -/
def rmAny (r : BitVec 3) : Bool := decide (r.toNat ≤ 5)
/-- Rounding codes 0 to 4 (R162). -/
def rmNoDith (r : BitVec 3) : Bool := decide (r.toNat ≤ 4)
def is0 (i : BitVec 3) : Bool := i == 0
def isAny (_ : BitVec 3) : Bool := true
def isEq (k : Nat) (i : BitVec 3) : Bool := i.toNat == k
/-- Offset modes 0 to 4 (R160). -/
def isShfl (i : BitVec 3) : Bool := decide (i.toNat ≤ 4)
/-- Distances 2^IS below WIDTH (R164, R165). -/
def isLane (i : BitVec 3) : Bool := decide (i.toNat ≤ 4)
def isMzero (i : BitVec 3) : Bool := decide (i.toNat ≤ 2)

/-- A level code that is not reserved (R44). -/
def lvlAny (l : BitVec 4) : Bool := decide (l.toNat ≤ 5) || (decide (8 ≤ l.toNat) && decide (l.toNat ≤ 11))
def lvl0 (l : BitVec 4) : Bool := l == 0
/-- A scope code that is not reserved (R44). -/
def scopeOk (s : BitVec 6) : Bool :=
  decide (s.toNat ≤ 5) || (decide (8 ≤ s.toNat) && decide (s.toNat ≤ 11)) || decide (32 ≤ s.toNat)

/-- SZ of scalar loads (R40). -/
def szLoad (z : BitVec 3) : Bool := decide (z.toNat ≤ 6)
/-- SZ of scalar stores, gathers and scatters (R40). -/
def szStore (z : BitVec 3) : Bool := decide (z.toNat ≤ 3)
/-- SZ of whole lines (R40). -/
def szVec (z : BitVec 3) : Bool := z == 7
/-- SZ of atomics (R233). -/
def szAtomic (z : BitVec 3) : Bool := z == 2 || z == 3

/-- The space code that the mnemonic fixes (R41). -/
def spEq (k : Nat) (s : BitVec 3) : Bool := s.toNat == k
/-- The space codes up to k (R41, R210, R233). -/
def spLe (k : Nat) (s : BitVec 3) : Bool := decide (s.toNat ≤ k)

/-- The ordering codes of loads (R92, R210). -/
def ordLoad (o : OpsM) : Bool := (o.ord == 0 && o.scope == 0) || (o.ord == 1 && scopeOk o.scope)
/-- The ordering codes of stores (R92, R210). -/
def ordStore (o : OpsM) : Bool := (o.ord == 0 && o.scope == 0) || (o.ord == 2 && scopeOk o.scope)
/-- The ordering codes of atomics (R233). -/
def ordAny (o : OpsM) : Bool := scopeOk o.scope

def ordRlx (ord : BitVec 2) (scope : BitVec 6) : Bool := ord == 0 && scope == 0
/-- Commands are releases (R247). -/
def ordCmd (ord : BitVec 2) (scope : BitVec 6) : Bool := ord == 2 && scopeOk scope
def ordRel (ord : BitVec 2) (scope : BitVec 6) : Bool := (ord == 0 && scope == 0) || (ord == 2 && scopeOk scope)
def ordAcq (ord : BitVec 2) (scope : BitVec 6) : Bool := (ord == 0 && scope == 0) || (ord == 1 && scopeOk scope)
/-- FREG: REL at PKG, fixed (R297). -/
def ordFreg (ord : BitVec 2) (scope : BitVec 6) : Bool := ord == 2 && scope == 4
def ordPhRel (ord : BitVec 2) (scope : BitVec 6) : Bool := (ord == 0 || ord == 2) && scope == 0
def ordPhAcq (ord : BitVec 2) (scope : BitVec 6) : Bool := (ord == 0 || ord == 1) && scope == 0
def ordPhAny (_ : BitVec 2) (scope : BitVec 6) : Bool := scope == 0
def ordBar (ord : BitVec 2) (scope : BitVec 6) : Bool := (ord == 0 || ord == 3) && scope == 0

/-- DST and W as a rule allows them (R24, R47). `nb` is the NB bit, read by `nbPred` only. -/
def dstOk (r : DstRule) (d : Dst) (w nb : Bool) : Bool :=
  match r, d with
  | .no, d => d == .g 0 && !w
  | .g, .g _ => true
  | .gX, .g i => w || i == 0
  | .p, .p _ => true
  | .v, .v _ => true
  | .gData, .g _ => !w
  | .vData, .v _ => !w
  | .nbPred, .g i => !nb && i == 0 && !w
  | .nbPred, .p _ => nb && w
  | _, _ => false

/-- The numbers of R10. -/
def sysNumbers : List Nat :=
  [0x000, 0x001, 0x002, 0x003, 0x004, 0x005, 0x006, 0x007, 0x008, 0x010, 0x011, 0x012, 0x013, 0x014] ++
  [0x020, 0x021, 0x022, 0x023, 0x030, 0x031, 0x032, 0x033, 0x040, 0x041, 0x042, 0x043, 0x044, 0x045, 0x046] ++
  [0x050, 0x051, 0x060, 0x061, 0x062, 0x070, 0x080, 0x081]

/-- A number of R10 (R11). -/
def sysNumber (n : Nat) : Bool := sysNumbers.contains n

/-- The class R numbers of R10. -/
def sysReadOnly (n : Nat) : Bool :=
  [0x000, 0x001, 0x002, 0x003, 0x004, 0x005, 0x006, 0x007, 0x008, 0x010, 0x011, 0x012, 0x013, 0x014, 0x020, 0x023,
   0x060, 0x061, 0x062, 0x070, 0x080].contains n

/-- The index of a vector destination. -/
def vIndex : Dst → Nat
  | .v i => i.toNat
  | _ => 0

/-- Whether a half-opcode is a floating-point or vector one (R50). -/
def hopHeavy : Hop → Bool
  | .fadd | .fsub | .fmul | .fmin | .fmax | .fabs | .fneg => true
  | .vadd | .vsub | .vmul | .vmin | .vmax | .vand | .vor | .vxor | .vshl | .vshr | .vsar | .vmov => true
  | _ => false

/-- The class of a half-opcode's operands (R49): 0 none, 1 general, 2 predicate, 3 vector. -/
def hopClass : Hop → Nat
  | .nop => 0
  | .pand | .por | .pxor | .pnot | .pmov => 2
  | .vadd | .vsub | .vmul | .vmin | .vmax | .vand | .vor | .vxor | .vshl | .vshr | .vsar | .vmov => 3
  | _ => 1

/-- Whether the slot's form reads its d operand (R49). -/
def hopReadsD : Hop → Bool
  | .nop | .mov | .neg | .not | .abs | .pnot | .pmov | .fabs | .fneg | .vmov => false
  | _ => true

/-- Whether MOD of a slot is one that R49 allows. -/
def modOk (h : Hop) (md : BitVec 5) : Bool :=
  match h with
  | .fadd | .fsub | .fmul | .fmin | .fmax | .fabs | .fneg => decide (md.toNat ≤ 3)
  | .vadd | .vsub | .vmul | .vmin | .vmax => decide (md.toNat < 16) && tyElem (Ty.ofCode (md.setWidth 4))
  | .vand | .vor | .vxor | .vshl | .vshr | .vsar | .vmov =>
    decide (md.toNat < 16) && tyInt (Ty.ofCode (md.setWidth 4))
  | _ => md == 0

/-- The unused fields of a slot are zero: MOD as R49 allows it, and every field of a NOP slot. -/
def slotFields (s : Slot) : Bool :=
  modOk s.hop s.md && (s.hop != .nop || (s.pg == 0 && !s.w && s.dst == .g 0 && s.src == .g 0))

/-- The operands that MOV accepts as a slot before the pairing rules (R49, R139, R243, R245). -/
def movSel (d : Dst) (s : Src) : Bool :=
  match d, s with
  | .g _, .g _ | .g _, .imm _ | .g _, .latch _ | .g _, .q _ | .g _, .j _ => true
  | .q _, .g _ | .q _, .imm _ | .q _, .latch _ => true
  | .j _, .g _ | .j _, .imm _ | .j _, .latch _ | .j _, .j _ => true
  | _, _ => false

/-- Whether a slot's selectors have the class of its half-opcode (R47, R49). A latch, and the queue or rejoin mask that
MOV accepts, are left to the pairing rules 4 and 5 of R50, which come after these checks. -/
def slotSel (s : Slot) : Bool :=
  match hopClass s.hop with
  | 0 => true
  | 1 => if s.hop == .mov then movSel s.dst s.src
         else (match s.dst with | .g _ => true | _ => false) && gi s.src
  | 2 => (match s.dst with | .p _ => true | _ => false) && pr s.src
  | _ => (match s.dst with | .v _ => true | _ => false) && vi s.src

/-- A slot passes the checks of R47 and R49. -/
def slotOk (s : Slot) : Bool := slotSel s && slotFields s

/-- The slot that the first failing check of R54 names, slot A before slot B within each check; `none` when both slots
pass R47 and R49. `true` is slot B. -/
def slotFail (a b : Slot) : Option Bool :=
  if !slotSel a then some false else if !slotSel b then some true
  else if !slotFields a then some false else if !slotFields b then some true else none

/-- A slot counts as writing (R50). -/
def slotWrites (s : Slot) : Bool := s.hop != .nop && s.w

/-- A destination's class and index. -/
def dstKey : Dst → Nat × Nat
  | .g i => (1, i.toNat)
  | .p i => (2, i.toNat)
  | .v i => (3, i.toNat)
  | .q i => (4, i.toNat)
  | .j i => (5, i.toNat)

/-- A source's class and index; latches and immediates name no register. -/
def srcKey : Src → Nat × Nat
  | .g i => (1, i.toNat)
  | .p i => (2, i.toNat)
  | .v i => (3, i.toNat)
  | .q i => (4, i.toNat)
  | .j i => (5, i.toNat)
  | .latch _ | .imm _ => (0, 0)

/-- Slot `r` reads the register that slot `s` writes; g0 and p0 do not count (R50 rule 2). -/
def slotReads (r s : Slot) : Bool :=
  slotWrites s && r.hop != .nop && !(dstKey s.dst == (1, 0)) && !(dstKey s.dst == (2, 0)) &&
    (srcKey r.src == dstKey s.dst || (hopReadsD r.hop && dstKey r.dst == dstKey s.dst))

/-- A latch as a slot's source (R50 rule 4). -/
def srcIsLatch : Src → Bool
  | .latch _ => true
  | _ => false

/-- A queue or rejoin-mask selector in a slot (R50 rule 5). -/
def slotQj (s : Slot) : Bool :=
  (match s.dst with | .q _ | .j _ => true | _ => false) || (match s.src with | .q _ | .j _ => true | _ => false)

/-- The first pairing rule that a dual word breaks (R50). -/
def pairRule (a b : Slot) : Option Nat :=
  if slotWrites a && slotWrites b && (dstKey a.dst).1 == (dstKey b.dst).1 &&
      (dstKey a.dst).2 % 4 == (dstKey b.dst).2 % 4 then some 1
  else if slotReads a b || slotReads b a then some 2
  else if hopHeavy a.hop && hopHeavy b.hop then some 3
  else if srcIsLatch a.src || srcIsLatch b.src then some 4
  else if slotQj a || slotQj b then some 5
  else none

end Wf

open Wf

/-- A row of format A: DST, the three sources, and the sub-fields of the modifier (R35, R47). -/
def Hdr.okA (h : Hdr) (o : OpsA) (d : DstRule) (sa sb sc : Src → Bool) (ty : Ty → Bool) (cc : BitVec 4 → Bool)
    (rm : BitVec 3 → Bool) (adv sat : Bool) (is : BitVec 3 → Bool) : Bool :=
  dstOk d o.dst h.w false && sa o.sa && sb o.sb && sc o.sc && ty o.ty && cc o.cc && rm o.rm && (adv || !o.adv) &&
    (sat || !o.sat) && is o.is

/-- A row of format B (R37). -/
def Hdr.okB (h : Hdr) (o : OpsB) (d : DstRule) (sa : Src → Bool) : Bool := dstOk d o.dst h.w false && sa o.sa

/-- A row of format C (R38); SA is zero in every one of them. -/
def Hdr.okC (h : Hdr) (o : OpsC) (d : DstRule) : Bool := dstOk d o.dst h.w false && z o.sa

/-- A row of format M (R39 to R41). -/
def Hdr.okM (h : Hdr) (o : OpsM) (d : DstRule) (sa sb : Src → Bool) (sp : BitVec 3 → Bool) (sz : BitVec 3 → Bool) :
    Bool :=
  dstOk d o.dst h.w false && sa o.sa && sb o.sb && sp o.sp && sz o.sz

/-- A row of format X (R43): `iss` says whether LS and LANE choose the issuing lane. A LANE of WIDTH or more is ILLEGAL here, at decode,
with TVAL 0, whatever Active is, and only a lane below WIDTH outside Active is ILLEGAL at step 5 with TVAL LANE: DESIGN CHOICE, R43
gives both checks and not their order (log entry 18). Unsafe. -/
def Hdr.okX (h : Hdr) (o : OpsX) (d : DstRule) (sa sb : Src → Bool) (lvl : BitVec 4 → Bool)
    (ord : BitVec 2 → BitVec 6 → Bool) (qn nb iss : Bool) : Bool :=
  dstOk d o.dst h.w o.nb && sa o.sa && sb o.sb && lvl o.lvl && ord o.ord o.scope && (qn || o.qn == 0) &&
    (nb || !o.nb) && (if o.ls then iss && decide (o.lane.toNat < 32) else o.lane == 0)

/-- MOV (R62, R139): general or rejoin-mask source and destination. A value that goes into a mask may come from a latch
of either class (R23, R139). -/
def Hdr.okMov (h : Hdr) (o : OpsA) : Bool :=
  (match o.dst with | .g _ | .j _ => true | _ => false) &&
  (match o.sa with | .g _ | .latch _ | .imm _ | .j _ => true | _ => false) &&
  h.okA { o with dst := .g 0 } .g (fun _ => true) z z ty0 cc0 rm0 false false is0

/-- MOV qN, a (R245): a queue destination and a general source. -/
def Hdr.okMarker (h : Hdr) (o : OpsA) : Bool :=
  (match o.dst with | .q _ => true | _ => false) && h.okA { o with dst := .g 0 } .g gi z z ty0 cc0 rm0 false false is0

/-- MOV d, qN (R243): a general destination and a queue source. -/
def Hdr.okPop (h : Hdr) (o : OpsA) : Bool :=
  (match o.sa with | .q _ => true | _ => false) && h.okA o .g (fun _ => true) z z ty0 cc0 rm0 false false is0

/-- The precision of a binary8 type, which IS carries (R99): 1 to 7 with one, zero without. -/
def OpsA.precB8 (o : OpsA) (t : Ty) : Bool := if t.isB8 then o.is != 0 else o.is == 0

/-- RM is zero unless TY is a floating type. -/
def OpsA.fpOnlyRm (o : OpsA) : Bool := o.ty.isFp || o.rm == 0

/-- SAT is zero unless TY is an integer type. -/
def OpsA.intOnlySat (o : OpsA) : Bool := o.ty.isInt || !o.sat

/-- A vector source other than an immediate, or one of a type that an immediate may have (R146). -/
def OpsA.noB8Imm (s : Src) (t : Ty) : Bool :=
  match s with
  | .imm _ => !t.isB8
  | _ => true

/-- The type pairs of VFMA (R151) and the fields each allows (R149). -/
def OpsA.okVfma (o : OpsA) : Bool :=
  let c := Ty.ofCode o.cc
  ((o.ty.isFp && c == o.ty) || (o.ty == .fp32 && (c == .fp16 || c == .bf16 || c.isB8)) ||
    (o.ty == .int32 && (c == .int8 || c == .uint8))) &&
  o.fpOnlyRm && o.intOnlySat && o.precB8 c && OpsA.noB8Imm o.sa c && OpsA.noB8Imm o.sb c

/-- VCVT: the part that IS selects, SAT between integer types only, RM and ADV with a floating side (R149, R155). -/
def OpsA.okVcvt (o : OpsA) : Bool :=
  let c := Ty.ofCode o.cc
  let k := if o.ty.count ≤ c.count then c.count / o.ty.count else o.ty.count / c.count
  (!o.sat || (o.ty.isInt && c.isInt)) && decide (o.is.toNat < k)

/-- VCVT8: exactly one binary8 side, the precision in IS, the part in SC, SAT toward binary8 only (R156). -/
def OpsA.okVcvt8 (o : OpsA) : Bool :=
  let c := Ty.ofCode o.cc
  ((o.ty.isB8 && c.isFp) || (o.ty.isFp && c.isB8)) && o.is != 0 && (!o.sat || o.ty.isB8) && OpsA.noB8Imm o.sa c &&
  (match o.sc with
   | .imm s => decide (s.toNat < 64 / (if o.ty.isB8 then c.count else o.ty.count))
   | _ => false)

/-- BALLOT: a predicate source has SB zero (R161). -/
def OpsA.okBallot (o : OpsA) : Bool :=
  match o.sa with
  | .p _ => z o.sb
  | _ => true

/-- VRED and VREDS: AND, OR and XOR for integer types, RM for floating ones, SAT for integer ones (R159, R162). -/
def OpsA.okRed (o : OpsA) : Bool := (o.ty.isInt || decide (o.cc.toNat ≤ 2)) && o.fpOnlyRm && o.intOnlySat

/-- VBFLY in its general and its vector form (R165). -/
def Hdr.okVbfly (h : Hdr) (o : OpsA) : Bool :=
  match o.dst with
  | .g _ => h.okA o .g gl gi gi ty0 cc0 rm0 false false isLane
  | _ => h.okA o .v vi gi gi tyInt cc0 rm0 false false isLane

/-- A first register of a group of 2^k in the window v24 to v31 (R174, R187). -/
def OpsA.okMzero (o : OpsA) : Bool :=
  decide (24 ≤ vIndex o.dst) && decide (vIndex o.dst % (if o.is == 0 then 1 else if o.is == 1 then 2 else 4) = 0)

/-- MMA and MMAI (R178). -/
def Hdr.okMma (h : Hdr) (o : OpsG) : Bool :=
  h.w && (match o.dst with | .v i => decide (24 ≤ i.toNat) | _ => false) &&
  (match o.sa with | .v i => decide (i.toNat < 24) | _ => false) &&
  (match o.sb with | .v i => decide (i.toNat < 24) | _ => false) &&
  (match o.sc with | .g i => decide (1 ≤ i.toNat) && decide (i.toNat ≤ 61) | _ => false) &&
  decide (o.vs.toNat < 24)

/-- VTBL (R166). -/
def Hdr.okVtbl (h : Hdr) (o : OpsT) : Bool :=
  dstOk .v o.dst h.w false && vr o.sa && z o.sc && o.ty == .fp64 && (o.form || (!o.half && o.nt != 3)) &&
  (match o.sb with | .v i => decide (i.toNat + 2 ^ o.nt.toNat ≤ 32) | _ => false)

/-- FENCE (R229). -/
def Hdr.okFence (h : Hdr) (o : OpsX) : Bool :=
  (match o.dst with | .g i => i == 0 && !h.w | .p _ => h.w | _ => false) &&
  z o.sa && z o.sb && o.lvl == 0 && o.ord != 0 && scopeOk o.scope && o.qn == 0 && !o.ls && o.lane == 0 && !o.nb

/-- ERRQPOP: eight registers from gD, so gD is g0 to g56 (R376). -/
def OpsX.okErrq (o : OpsX) : Bool :=
  match o.dst with
  | .g i => decide (i.toNat ≤ 56)
  | _ => false

/-- Whether an instruction is one that the encoding rules admit. A step of the part has no encoding and is admitted as
it stands. SB of PHREG, PHWAIT, PHSET and PHEXP takes an immediate: DESIGN CHOICE, the forms of R316 write a general register and no rule
refuses an immediate there (R62, R47; log entry 18). Unsafe. -/
def Instr.wf : Instr → Bool
  | .add h o => h.okA o .g gi gi z ty0 cc0 rm0 false true is0
  | .addi h o => h.okB o .g gi && o.bm == 0
  | .sub h o => h.okA o .g gi gi z ty0 cc0 rm0 false true is0
  | .neg h o => h.okA o .g gi z z ty0 cc0 rm0 false true is0
  | .mul h o => h.okA o .g gi gi z ty0 cc0 rm0 false true is0
  | .mulh h o => h.okA o .g gi gi z ty0 cc0 rm0 false false is0
  | .mulhu h o => h.okA o .g gi gi z ty0 cc0 rm0 false false is0
  | .div h o => h.okA o .g gi gi z ty0 cc0 rm0 false false is0
  | .divu h o => h.okA o .g gi gi z ty0 cc0 rm0 false false is0
  | .rem h o => h.okA o .g gi gi z ty0 cc0 rm0 false false is0
  | .remu h o => h.okA o .g gi gi z ty0 cc0 rm0 false false is0
  | .min h o => h.okA o .g gi gi z ty0 cc0 rm0 false false is0
  | .max h o => h.okA o .g gi gi z ty0 cc0 rm0 false false is0
  | .minu h o => h.okA o .g gi gi z ty0 cc0 rm0 false false is0
  | .maxu h o => h.okA o .g gi gi z ty0 cc0 rm0 false false is0
  | .abs h o => h.okA o .g gi z z ty0 cc0 rm0 false true is0
  | .and h o => h.okA o .g gi gi z ty0 cc0 rm0 false false is0
  | .andi h o => h.okB o .g gi && o.bm == 0
  | .or h o => h.okA o .g gi gi z ty0 cc0 rm0 false false is0
  | .ori h o => h.okB o .g gi && o.bm == 0
  | .xor h o => h.okA o .g gi gi z ty0 cc0 rm0 false false is0
  | .xori h o => h.okB o .g gi && o.bm == 0
  | .andn h o => h.okA o .g gi gi z ty0 cc0 rm0 false false is0
  | .not h o => h.okA o .g gi z z ty0 cc0 rm0 false false is0
  | .shl h o => h.okA o .g gi gi z ty0 cc0 rm0 false false is0
  | .shli h o => h.okB o .g gi && o.bm == 0 && decide (o.imm.toNat < 64)
  | .shr h o => h.okA o .g gi gi z ty0 cc0 rm0 false false is0
  | .shri h o => h.okB o .g gi && o.bm == 0 && decide (o.imm.toNat < 64)
  | .sar h o => h.okA o .g gi gi z ty0 cc0 rm0 false false is0
  | .sari h o => h.okB o .g gi && o.bm == 0 && decide (o.imm.toNat < 64)
  | .rol h o => h.okA o .g gi gi z ty0 cc0 rm0 false false is0
  | .ror h o => h.okA o .g gi gi z ty0 cc0 rm0 false false is0
  | .clz h o => h.okA o .g gi z z ty0 cc0 rm0 false false is0
  | .ctz h o => h.okA o .g gi z z ty0 cc0 rm0 false false is0
  | .popc h o => h.okA o .g gi z z ty0 cc0 rm0 false false is0
  | .brev h o => h.okA o .g gi z z ty0 cc0 rm0 false false is0
  | .bswap h o => h.okA o .g gi z z ty0 cc0 rm0 false false is0
  | .bfx h o => h.okA o .g gi gi gi ty0 cc0 rm0 false false is0
  | .bfxs h o => h.okA o .g gi gi gi ty0 cc0 rm0 false false is0
  | .bfi h o => h.okA o .g gi gi gi ty0 cc0 rm0 false false is0
  | .mov h o => h.okMov o
  | .movQueueMarker h o => h.okMarker o
  | .movQueuePop h o => h.okPop o
  | .movi h o => h.okC o .g
  | .movhi h o => h.okC o .g
  | .sel h o => h.okA o .g gi gi pr ty0 cc0 rm0 false false is0
  | .lea h o => h.okA o .g gi gi z ty0 cc0 rm0 false false isAny
  | .cmp h o => h.okA o .p gi gi z ty0 ccInt rm0 false false is0
  | .cmpu h o => h.okA o .p gi gi z ty0 ccInt rm0 false false is0
  | .cmpi h o => h.okB o .p gi && decide (o.bm.toNat ≤ 5)
  | .pand h o => h.okA o .p pr pr z ty0 cc0 rm0 false false is0
  | .por h o => h.okA o .p pr pr z ty0 cc0 rm0 false false is0
  | .pxor h o => h.okA o .p pr pr z ty0 cc0 rm0 false false is0
  | .pnot h o => h.okA o .p pr z z ty0 cc0 rm0 false false is0
  | .pmov h o => h.okA o .p pr z z ty0 cc0 rm0 false false is0
  | .bra h o => h.okC o .no && h.e
  | .brx h o => h.okA o .no gi z z ty0 cc0 rm0 false false is0 && h.e
  | .call h o => h.okC o .g && h.e
  | .callx h o => h.okA o .g gi z z ty0 cc0 rm0 false false is0 && h.e
  | .ret h o => h.okA o .no gi z z ty0 cc0 rm0 false false is0 && h.e
  | .jf h o => h.okC o .g && h.e && decide (o.imm.toNat < 131072) && decide (o.imm.toNat % 8 = 0)
  | .cfetch h o => h.okX o .nbPred gReg gReg lvl0 ordRlx false true true
  | .exit h o => h.okA o .no z z z ty0 cc0 rm0 false false is0 && h.e
  | .nop h o => h.okA o .no z z z ty0 cc0 rm0 false false is0
  | .rep h o => h.okB o .no z && o.bm == 0 && !h.e && decide (o.imm.toNat < 1024)
  | .mfs h o => h.okB o .g z && o.bm == 0 && sysNumber o.imm.toNat
  | .mts h o => h.okB o .no gi && o.bm == 0 && sysNumber o.imm.toNat && !sysReadOnly o.imm.toNat
  | .trap h o => h.okB o .no z && o.bm == 0 && decide (o.imm.toNat < 4096)
  | .ldh h o => h.okM o .g gi z (spEq 0) szLoad && ordLoad o
  | .sth h o => h.okM o .gData gi z (spEq 0) szStore && ordStore o
  | .dualWord _ a b => slotOk a && slotOk b && (pairRule a b).isNone
  | .fadd h o => h.okA o .g gi gi z ty03 cc0 rmAny false false is0
  | .fsub h o => h.okA o .g gi gi z ty03 cc0 rmAny false false is0
  | .fmul h o => h.okA o .g gi gi z ty03 cc0 rmAny false false is0
  | .ffma h o => h.okA o .g gi gi gi ty03 cc0 rmAny false false is0
  | .fdiv h o => h.okA o .g gi gi z ty03 cc0 rmAny false false is0
  | .fsqrt h o => h.okA o .g gi z z ty03 cc0 rmAny false false is0
  | .fmin h o => h.okA o .g gi gi z ty03 cc0 rm0 false false is0
  | .fmax h o => h.okA o .g gi gi z ty03 cc0 rm0 false false is0
  | .fabs h o => h.okA o .g gi z z ty03 cc0 rm0 false false is0
  | .fneg h o => h.okA o .g gi z z ty03 cc0 rm0 false false is0
  | .fcmp h o => h.okA o .p gi gi z ty03 ccAll rm0 false false is0
  | .fclass h o => h.okA o .g gi z z tyClass cc0 rm0 false false isAny && o.precB8 o.ty
  | .frnd h o => h.okA o .g gi z z ty03 cc0 rmAny true false is0
  | .fcvt h o => h.okA o .g gi z z ty03 ccFp rmAny true false is0
  | .fcvti h o => h.okA o .g gi z z tyInt ccFp rmAny true false is0
  | .icvtf h o => h.okA o .g gi z z ty03 ccIntTy rmAny true false is0
  | .cvt8 h o => h.okA o .g gi gi z tyB8 ccFp rmAny true true isAny && o.precB8 o.ty
  | .cvt8x h o => h.okA o .g gi gi z ty03 ccB8 rmAny true false isAny && o.precB8 (Ty.ofCode o.cc)
  | .fscale h o => h.okA o .g gi gi z ty03 cc0 rmAny false false is0
  | .sclx h o => h.okA o .g gi z z tyB8 ccFp rm0 false false isAny && o.precB8 o.ty
  | .rje h o => h.okA o .no jr z z ty0 cc0 rm0 false false is0
  | .rjw h o => h.okA o .no jr z z ty0 cc0 rm0 false false is0
  | .rjx h o => h.okA o .no jr z z ty0 cc0 rm0 false false is0
  | .vadd h o => h.okA o .v vi vi z tyElem cc0 rmAny false true is0 && o.fpOnlyRm && o.intOnlySat
  | .vsub h o => h.okA o .v vi vi z tyElem cc0 rmAny false true is0 && o.fpOnlyRm && o.intOnlySat
  | .vmul h o => h.okA o .v vi vi z tyElem cc0 rmAny false true is0 && o.fpOnlyRm && o.intOnlySat
  | .vfma h o => h.okA o .v vi vi vi tyVfma ccAny rmAny false true isAny && o.okVfma
  | .vdiv h o => h.okA o .v vi vi z ty03 cc0 rmAny false false is0
  | .vsqrt h o => h.okA o .v vi z z ty03 cc0 rmAny false false is0
  | .vmin h o => h.okA o .v vi vi z tyElem cc0 rm0 false false is0
  | .vmax h o => h.okA o .v vi vi z tyElem cc0 rm0 false false is0
  | .vand h o => h.okA o .v vi vi z tyInt cc0 rm0 false false is0
  | .vor h o => h.okA o .v vi vi z tyInt cc0 rm0 false false is0
  | .vxor h o => h.okA o .v vi vi z tyInt cc0 rm0 false false is0
  | .vshl h o => h.okA o .v vi vi z tyInt cc0 rm0 false false is0
  | .vshr h o => h.okA o .v vi vi z tyInt cc0 rm0 false false is0
  | .vsar h o => h.okA o .v vi vi z tyInt cc0 rm0 false false is0
  | .vcmp h o => h.okA o .v vi vi z tyElem ccAll rm0 false false is0 && (o.ty.isFp || ccInt o.cc)
  | .vsel h o => h.okA o .v vr vr vr ty0 cc0 rm0 false false is0
  | .vcvt h o => h.okA o .v vi z z tyElem ccElem rmAny true true isAny && o.okVcvt
  | .vcvt8 h o => h.okA o .v vi gReg partImm tyVcvt8 ccAny rmAny true true isAny && o.okVcvt8
  | .vsplat h o => h.okA o .v gi z z tyElem cc0 rm0 false false is0
  | .vext h o => h.okA o .g vi gi z tyElem cc0 rm0 false false is0
  | .vins h o => h.okA o .v gi gi z tyElem cc0 rm0 false false is0
  | .vmov h o => h.okA o .v vi z z tyInt cc0 rm0 false false is0
  | .vshfl h o => h.okA o .v vr gi z ty0 cc0 rm0 false false isShfl
  | .gshfl h o => h.okA o .g gl gi z ty0 cc0 rm0 false false isShfl
  | .ballot h o => h.okA o .g gp gi z ty0 cc0 rm0 false false is0 && o.okBallot
  | .vred h o => h.okA o .v vi z z tyElem ccRed rmNoDith false true is0 && o.okRed
  | .vreds h o => h.okA o .v vi z z tyElem ccRed rmNoDith false true isLane && o.okRed
  | .vbfly h o => h.okVbfly o
  | .vtbl h o => h.okVtbl o
  | .vbcast h o => h.okA o .v vi gi z ty0 cc0 rm0 false false is0
  | .vldh h o => h.okM o .v gl z (spEq 0) szVec && ordLoad o
  | .vsth h o => h.okM o .vData gl z (spEq 0) szVec && ordStore o
  | .vldhx h o => h.okM o .v gl vi (spEq 0) szStore && ordLoad o && o.disp == 0
  | .vsthx h o => h.okM o .vData gl vi (spEq 0) szStore && ordStore o && o.disp == 0
  | .mmodeOn h o => h.okA o .no z z z ty0 cc0 rm0 false false (isEq 1) && h.pg == 0 && !h.pn
  | .mmodeOff h o => h.okA o .no z z z ty0 cc0 rm0 false false (isEq 0) && h.pg == 0 && !h.pn
  | .mmodeGatherComplete _ => true
  | .mma h o => h.okMma o && o.base == 0
  | .mmai h o => h.okMma o && decide (o.base.toNat ≤ 24)
  | .mzero h o => h.okA o .v z z z ty0 cc0 rm0 false false isMzero && h.w && o.okMzero
  | .mdrain h o => h.okA o .no z z z ty0 cc0 rm0 true false is0
  | .mstat h o => h.okA o .g z z z ty0 cc0 rm0 false false is0 && h.w
  | .gridOperation _ _ => true
  | .engineStallRelease _ => true
  | .ldg h o => h.okM o .g gl z (spEq 1) szLoad && ordLoad o
  | .stg h o => h.okM o .gData gl z (spEq 1) szStore && ordStore o
  | .ldz h o => h.okM o .g gl z (spEq 2) szLoad && ordLoad o
  | .stz h o => h.okM o .gData gl z (spEq 2) szStore && ordStore o
  | .ldm h o => h.okM o .g gl z (spEq 3) szLoad && ordLoad o
  | .stm h o => h.okM o .gData gl z (spEq 3) szStore && ordStore o
  | .ldx h o => h.okM o .g gl z (spEq 4) szLoad && ordLoad o
  | .stx h o => h.okM o .gData gl z (spEq 4) szStore && ordStore o
  | .vldg h o => h.okM o .v gl z (spEq 1) szVec && ordLoad o
  | .vstg h o => h.okM o .vData gl z (spEq 1) szVec && ordStore o
  | .vldz h o => h.okM o .v gl z (spEq 2) szVec && ordLoad o
  | .vstz h o => h.okM o .vData gl z (spEq 2) szVec && ordStore o
  | .vldm h o => h.okM o .v gl z (spEq 3) szVec && ordLoad o
  | .vstm h o => h.okM o .vData gl z (spEq 3) szVec && ordStore o
  | .vldmx h o => h.okM o .v gl vr (spEq 3) szStore && ordLoad o && o.disp == 0
  | .vstmx h o => h.okM o .vData gl vr (spEq 3) szStore && ordStore o && o.disp == 0
  | .vldx h o => h.okM o .v gl z (spEq 4) szVec && ordLoad o
  | .vstx h o => h.okM o .vData gl z (spEq 4) szVec && ordStore o
  | .pprobe h o => h.okM o .g gl z (spLe 1) szVec && ordLoad o
  | .prel h o => h.okM o .no gl z (spLe 1) szVec && ordStore o
  | .prelEffect => true
  | .pclr h o => h.okM o .no gl z (spLe 1) szVec && ordStore o
  | .fence h o => h.okFence o
  | .fencePodTimeout _ _ => true
  | .aadd h o => h.okM o .g gl gi (spLe 5) szAtomic && ordAny o
  | .amin h o => h.okM o .g gl gi (spLe 5) szAtomic && ordAny o
  | .amax h o => h.okM o .g gl gi (spLe 5) szAtomic && ordAny o
  | .aand h o => h.okM o .g gl gi (spLe 5) szAtomic && ordAny o
  | .aor h o => h.okM o .g gl gi (spLe 5) szAtomic && ordAny o
  | .axor h o => h.okM o .g gl gi (spLe 5) szAtomic && ordAny o
  | .axchg h o => h.okM o .g gl gi (spLe 5) szAtomic && ordAny o
  | .acas h o => h.okM o .g gl gi (spLe 5) szAtomic && ordAny o
  | .afadd h o => h.okM o .g gl gi (spLe 5) szAtomic && ordAny o
  | .ainc h o => h.okM o .g gl gi (spLe 5) szAtomic && ordAny o
  | .laneResume _ _ => true
  | .arbitrate _ _ => true
  | .swapOut _ => true
  | .swapIn _ _ => true
  | .segmentFetchCompletion _ _ => true
  | .qbind h o => h.okX o .no z gOrImm lvlAny ordRlx true false true
  | .qtry h o => h.okX o .g z z lvl0 ordRlx true false true
  | .qcnt h o => h.okX o .g z z lvl0 ordRlx true false true
  | .copy h o => h.okX o .nbPred gReg gOrImm lvl0 ordCmd true true true
  | .mcast h o => h.okX o .nbPred gReg gOrImm lvl0 ordCmd true true true
  | .reduce h o => h.okX o .nbPred gReg gOrImm lvl0 ordCmd true true true
  | .gemv h o => h.okX o .nbPred gReg gOrImm lvl0 ordCmd true true true
  | .foot h o => h.okX o .no gReg z lvl0 ordRlx true false true
  | .migr h o => h.okX o .nbPred gReg gOrImm lvl0 ordCmd true true true
  | .engineCommandStart _ => true
  | .enginePiece _ _ => true
  | .resultDelivery _ => true
  | .guardPass _ _ => true
  | .faultRecordWrite => true
  | .migrationStart _ => true
  | .migrationRound _ => true
  | .migrationSwitch _ => true
  | .launch h o => h.okX o .nbPred gReg z lvlAny ordRlx false true true
  | .tsplit h o => h.okA o .g gi gi gi ty0 ccAny rm0 false false is0
  | .cancel h o => h.okX o .no gReg z lvl0 ordRlx false false true
  | .cancelTokenArrival _ _ => true
  | .recordAccept _ => true
  | .memberPlace _ => true
  | .imageLoad _ => true
  | .memberRetire _ _ _ => true
  | .finit h o => h.okX o .gX gReg z lvl0 ordRel false false true
  | .fres h o => h.okX o .gX gReg z lvl0 ordRel false false true
  | .freg h o => h.okX o .gX gReg gReg lvlAny ordFreg false false true
  | .fwait h o => h.okX o .gX gReg z lvl0 ordAcq false false true
  | .fpoll h o => h.okX o .gX gReg z lvl0 ordAcq false false true
  | .ffail h o => h.okX o .gX gReg z lvl0 ordRel false false true
  | .phreg h o => h.okX o .g gReg gOrImm lvlAny ordRlx false false true
  | .phdrop h o => h.okX o .no gReg z lvlAny ordRlx false false true
  | .pharr h o => h.okX o .g gReg z lvlAny ordPhRel false false true
  | .phwait h o => h.okX o .g gReg gOrImm lvlAny ordPhAcq false false true
  | .phnext h o => h.okX o .g gReg z lvlAny ordPhAny false false true
  | .phset h o => h.okX o .no gReg gOrImm lvlAny ordRlx false false true
  | .phexp h o => h.okX o .no gReg gOrImm lvlAny ordRlx false false true
  | .podPhaserMessage _ _ _ _ => true
  | .bar h o => h.okX o .no z z lvlAny ordBar false false false && h.pg == 0 && !h.pn
  | .barArrive _ => true
  | .trapEntry _ => true
  | .tfix h o => h.okA o .no tfixSrc z z ty0 cc0 rm0 false false is0
  | .rteRetry h o => h.okA o .no z z z ty0 cc0 rm0 false false (isEq 0) && h.e && h.pg == 0 && !h.pn
  | .rteSkip h o => h.okA o .no z z z ty0 cc0 rm0 false false (isEq 1) && h.e && h.pg == 0 && !h.pn
  | .rteGatherComplete _ => true
  | .ctxsvSave h o => h.okX o .no gReg z lvl0 ordRlx false false true
  | .ctxsvRestore h o => h.okX o .no gReg z lvl0 ordRlx false false true
  | .ctxsvSaveFree h o => h.okX o .no gReg z lvl0 ordRlx false false true
  | .ctxsvResume h o => h.okX o .no gReg z lvl0 ordRlx false false true
  | .errqpop h o => h.okX o .g z z lvl0 ordRlx false false true && h.w && o.okErrq
  | .preemptionRequest _ => true
  | .preemptionTimeout _ => true
  | .preemptionStop _ => true
  | .scrub _ _ => true
  | .uncorrectableLineError _ _ _ => true
  | .instructionStoreError _ _ => true
  | .heartbeatTimeout _ => true
  | .dieLost _ => true
  | .lineMove _ => true
  | .sweepStart => true
  | .currentLimitTrip => true
  | .currentLimitRelease => true
  | .temperatureThreshold _ _ => true
  | .monitorRefresh _ => true
  | .peerRemoteAccess _ => true
  | .remoteAnswer _ _ => true
  | .remoteTimeout _ => true
  | .keepAlive _ => true
  | .remoteStoreDeadline _ => true
  | .gencommit _ => true
  | .pkgnumWrite _ => true
  | .ctxctlCreate _ => true
  | .ctxctlEnd _ => true
  | .launchQueueWake => true
  | .fansResolve _ => true
  | .fansRefuse _ => true
  | .invalContext _ => true
  | .invalBuffer _ => true
  | .invalPage _ => true
  | .invalScope _ => true
  | .invalComplete => true
  | .svcctlWriteImage _ => true
  | .svcctlReadImage _ => true
  | .svcctlRetry _ => true
  | .svcctlSkip _ => true
  | .svcctlEndMember _ => true
  | .svcctlEndContext _ => true
  | .resvset _ => true
  | .fltctlStop _ => true
  | .fltctlResume _ => true
  | .fltctlSwitchOut _ => true
  | .fltctlResumeCore _ => true
  | .reqDieLost _ => true
  | .reqRetireStack _ => true
  | .reqRate _ => true
  | .reqExpanderUp _ => true
  | .frbaseWrite _ => true
  | .evbaseWrite _ => true
  | .frconsWrite _ => true
  | .evconsWrite _ => true
  | .hostRegisterWrite _ _ => true
  | .hostMemoryAccess _ _ => true
  | .firmwareHostAccess _ _ => true
  | .expanderLost _ => true
  | .powerGood _ => true
  | .getVersion => true
  | .getCapabilities => true
  | .negotiateAlgorithms _ _ => true
  | .getDigests => true
  | .getCertificate _ _ => true
  | .challenge _ => true
  | .getMeasurements _ _ => true
  | .ccountIncrement => true
  | .dieLinkRetrain _ => true
  | .registerFileError _ _ _ _ => true
  | .firmwareServiceAction _ => true
  | .keepAliveSend _ => true
  | .expanderLinkUp _ _ => true
  | .ratePointInEffect _ => true

end Sys2Proof
end

