-- ==== Sys2Proof/Decode.lean ====
section
/-! DEFINITION. The decoder of instruction words and, after it, the encoder, both from spec/02_encoding.md R33 to R54.
A word that is no instruction meets its fate by name. -/

namespace Sys2Proof

open Wf

/-- The fate of a word that is no instruction (R54): ILLEGAL, with the slot that a dual word reports, or ILLEGAL_PAIR
with the number of the pairing rule; `short` when fewer than eight bytes are given. -/
inductive Fate where
  | illegal (slotB : Bool)
  | pair (rule : Nat)
  | short
deriving DecidableEq, Repr

/-- A source selector (R45); `none` for the reserved patterns. -/
def srcOf (b : BitVec 8) : Option Src :=
  if b.getLsbD 7 then some (.imm (b.extractLsb' 0 7))
  else if !b.getLsbD 6 then some (.g (b.extractLsb' 0 6))
  else if !b.getLsbD 5 then some (.v (b.extractLsb' 0 5))
  else
    match (b.extractLsb' 3 2).toNat with
    | 0 => some (.p (b.extractLsb' 0 3))
    | 1 => some (.q (b.extractLsb' 0 3))
    | 2 => some (.j (b.extractLsb' 0 3))
    | _ => if b.getLsbD 2 then none else some (.latch (b.extractLsb' 0 2))

/-- The pattern of a source selector (R45). -/
def Src.bits : Src → BitVec 8
  | .g i => 0b00#2 ++ i
  | .v i => 0b010#3 ++ i
  | .p i => 0b01100#5 ++ i
  | .q i => 0b01101#5 ++ i
  | .j i => 0b01110#5 ++ i
  | .latch k => 0b011110#6 ++ k
  | .imm s => 0b1#1 ++ s

/-- A destination selector (R46); `none` for the reserved patterns. -/
def dstOf (b : BitVec 7) : Option Dst :=
  if !b.getLsbD 6 then some (.g (b.extractLsb' 0 6))
  else if !b.getLsbD 5 then some (.v (b.extractLsb' 0 5))
  else
    match (b.extractLsb' 3 2).toNat with
    | 0 => some (.p (b.extractLsb' 0 3))
    | 1 => some (.q (b.extractLsb' 0 3))
    | 2 => some (.j (b.extractLsb' 0 3))
    | _ => none

/-- The pattern of a destination selector (R46). -/
def Dst.bits : Dst → BitVec 7
  | .g i => 0b0#1 ++ i
  | .v i => 0b10#2 ++ i
  | .p i => 0b1100#4 ++ i
  | .q i => 0b1101#4 ++ i
  | .j i => 0b1110#4 ++ i

/-- The half-opcodes (R49). -/
def hopCodes : List (Nat × Hop) :=
  [(0x00, Hop.nop), (0x01, Hop.add), (0x02, Hop.sub), (0x03, Hop.mul), (0x04, Hop.and), (0x05, Hop.or), (0x06, Hop.xor), (0x07, Hop.andn), (0x08, Hop.shl), (0x09, Hop.shr), (0x0A, Hop.sar), (0x0B, Hop.rol)] ++
  [(0x0C, Hop.ror), (0x0D, Hop.min), (0x0E, Hop.max), (0x0F, Hop.minu), (0x10, Hop.maxu), (0x11, Hop.mov), (0x12, Hop.neg), (0x13, Hop.not), (0x14, Hop.abs), (0x18, Hop.pand), (0x19, Hop.por), (0x1A, Hop.pxor)] ++
  [(0x1B, Hop.pnot), (0x1C, Hop.pmov), (0x20, Hop.fadd), (0x21, Hop.fsub), (0x22, Hop.fmul), (0x23, Hop.fmin), (0x24, Hop.fmax), (0x25, Hop.fabs), (0x26, Hop.fneg), (0x40, Hop.vadd), (0x41, Hop.vsub), (0x42, Hop.vmul)] ++
  [(0x43, Hop.vmin), (0x44, Hop.vmax), (0x45, Hop.vand), (0x46, Hop.vor), (0x47, Hop.vxor), (0x48, Hop.vshl), (0x49, Hop.vshr), (0x4A, Hop.vsar), (0x4B, Hop.vmov)]

/-- The half-opcode of a code (R49). -/
def hopOf (c : BitVec 7) : Option Hop := hopCodes.lookup c.toNat

/-- The code of a half-opcode (R49). -/
def Hop.code : Hop → BitVec 7
  | .nop => 0x00
  | .add => 0x01
  | .sub => 0x02
  | .mul => 0x03
  | .and => 0x04
  | .or => 0x05
  | .xor => 0x06
  | .andn => 0x07
  | .shl => 0x08
  | .shr => 0x09
  | .sar => 0x0A
  | .rol => 0x0B
  | .ror => 0x0C
  | .min => 0x0D
  | .max => 0x0E
  | .minu => 0x0F
  | .maxu => 0x10
  | .mov => 0x11
  | .neg => 0x12
  | .not => 0x13
  | .abs => 0x14
  | .pand => 0x18
  | .por => 0x19
  | .pxor => 0x1A
  | .pnot => 0x1B
  | .pmov => 0x1C
  | .fadd => 0x20
  | .fsub => 0x21
  | .fmul => 0x22
  | .fmin => 0x23
  | .fmax => 0x24
  | .fabs => 0x25
  | .fneg => 0x26
  | .vadd => 0x40
  | .vsub => 0x41
  | .vmul => 0x42
  | .vmin => 0x43
  | .vmax => 0x44
  | .vand => 0x45
  | .vor => 0x46
  | .vxor => 0x47
  | .vshl => 0x48
  | .vshr => 0x49
  | .vsar => 0x4A
  | .vmov => 0x4B

/-- The row that a MOV word is (R139, R243, R245). -/
def Instr.ofMov (h : Hdr) (o : OpsA) : Instr :=
  match o.dst, o.sa with
  | .q _, _ => .movQueueMarker h o
  | _, .q _ => .movQueuePop h o
  | _, _ => .mov h o

/-- The row that an MMODE word is (R176). -/
def Instr.ofMmode (h : Hdr) (o : OpsA) : Instr := if o.is == 1 then .mmodeOn h o else .mmodeOff h o

/-- The row that an RTE word is (R329). -/
def Instr.ofRte (h : Hdr) (o : OpsA) : Instr := if o.is == 1 then .rteSkip h o else .rteRetry h o

/-- Format A (R53). -/
def opsA : List (Nat × (Hdr → OpsA → Instr)) :=
  [(0x010, Instr.add), (0x012, Instr.sub), (0x013, Instr.neg), (0x014, Instr.mul), (0x015, Instr.mulh), (0x016, Instr.mulhu), (0x017, Instr.div), (0x018, Instr.divu), (0x019, Instr.rem), (0x01A, Instr.remu), (0x01B, Instr.min), (0x01C, Instr.max), (0x01D, Instr.minu), (0x01E, Instr.maxu), (0x01F, Instr.abs), (0x020, Instr.and)] ++
  [(0x022, Instr.or), (0x024, Instr.xor), (0x026, Instr.andn), (0x027, Instr.not), (0x028, Instr.shl), (0x02A, Instr.shr), (0x02C, Instr.sar), (0x02E, Instr.rol), (0x02F, Instr.ror), (0x030, Instr.clz), (0x031, Instr.ctz), (0x032, Instr.popc), (0x033, Instr.brev), (0x034, Instr.bswap), (0x035, Instr.bfx), (0x036, Instr.bfxs)] ++
  [(0x037, Instr.bfi), (0x038, Instr.ofMov), (0x03B, Instr.sel), (0x03C, Instr.lea), (0x040, Instr.cmp), (0x041, Instr.cmpu), (0x043, Instr.pand), (0x044, Instr.por), (0x045, Instr.pxor), (0x046, Instr.pnot), (0x047, Instr.pmov), (0x051, Instr.brx), (0x053, Instr.callx), (0x054, Instr.ret), (0x057, Instr.exit), (0x058, Instr.nop)] ++
  [(0x080, Instr.fadd), (0x081, Instr.fsub), (0x082, Instr.fmul), (0x083, Instr.ffma), (0x084, Instr.fdiv), (0x085, Instr.fsqrt), (0x086, Instr.fmin), (0x087, Instr.fmax), (0x088, Instr.fabs), (0x089, Instr.fneg), (0x08A, Instr.fcmp), (0x08B, Instr.fclass), (0x08C, Instr.frnd), (0x08D, Instr.fcvt), (0x08E, Instr.fcvti), (0x08F, Instr.icvtf)] ++
  [(0x090, Instr.cvt8), (0x091, Instr.cvt8x), (0x092, Instr.fscale), (0x093, Instr.sclx), (0x0A0, Instr.rje), (0x0A1, Instr.rjw), (0x0A2, Instr.rjx), (0x100, Instr.vadd), (0x101, Instr.vsub), (0x102, Instr.vmul), (0x103, Instr.vfma), (0x104, Instr.vdiv), (0x105, Instr.vsqrt), (0x106, Instr.vmin), (0x107, Instr.vmax), (0x108, Instr.vand)] ++
  [(0x109, Instr.vor), (0x10A, Instr.vxor), (0x10B, Instr.vshl), (0x10C, Instr.vshr), (0x10D, Instr.vsar), (0x10E, Instr.vcmp), (0x10F, Instr.vsel), (0x110, Instr.vcvt), (0x111, Instr.vcvt8), (0x112, Instr.vsplat), (0x113, Instr.vext), (0x114, Instr.vins), (0x115, Instr.vmov), (0x120, Instr.vshfl), (0x121, Instr.gshfl), (0x122, Instr.ballot)] ++
  [(0x123, Instr.vred), (0x124, Instr.vreds), (0x125, Instr.vbfly), (0x127, Instr.vbcast), (0x140, Instr.ofMmode), (0x143, Instr.mzero), (0x144, Instr.mdrain), (0x145, Instr.mstat), (0x221, Instr.tsplit), (0x280, Instr.ofRte), (0x281, Instr.tfix)]

/-- Format B (R53). -/
def opsB : List (Nat × (Hdr → OpsB → Instr)) :=
  [(0x011, Instr.addi), (0x021, Instr.andi), (0x023, Instr.ori), (0x025, Instr.xori), (0x029, Instr.shli), (0x02B, Instr.shri), (0x02D, Instr.sari), (0x042, Instr.cmpi), (0x059, Instr.rep), (0x060, Instr.mfs), (0x061, Instr.mts), (0x062, Instr.trap)]

/-- Format C (R53). -/
def opsC : List (Nat × (Hdr → OpsC → Instr)) :=
  [(0x039, Instr.movi), (0x03A, Instr.movhi), (0x050, Instr.bra), (0x052, Instr.call), (0x055, Instr.jf)]

/-- Format M (R53). -/
def opsM : List (Nat × (Hdr → OpsM → Instr)) :=
  [(0x063, Instr.ldh), (0x064, Instr.sth), (0x130, Instr.vldh), (0x131, Instr.vsth), (0x132, Instr.vldhx), (0x133, Instr.vsthx), (0x180, Instr.ldg), (0x181, Instr.stg), (0x182, Instr.ldz), (0x183, Instr.stz), (0x184, Instr.ldm), (0x185, Instr.stm), (0x186, Instr.ldx), (0x187, Instr.stx), (0x188, Instr.vldg), (0x189, Instr.vstg)] ++
  [(0x18A, Instr.vldz), (0x18B, Instr.vstz), (0x18C, Instr.vldm), (0x18D, Instr.vstm), (0x18E, Instr.vldmx), (0x18F, Instr.vstmx), (0x190, Instr.vldx), (0x191, Instr.vstx), (0x198, Instr.pprobe), (0x199, Instr.prel), (0x19A, Instr.pclr), (0x1C1, Instr.aadd), (0x1C2, Instr.amin), (0x1C3, Instr.amax), (0x1C4, Instr.aand), (0x1C5, Instr.aor)] ++
  [(0x1C6, Instr.axor), (0x1C7, Instr.axchg), (0x1C8, Instr.acas), (0x1C9, Instr.afadd), (0x1CA, Instr.ainc)]

/-- Format X (R53). CTXSV stands for its four operations, which a register chooses at issue (R341). -/
def opsX : List (Nat × (Hdr → OpsX → Instr)) :=
  [(0x056, Instr.cfetch), (0x1C0, Instr.fence), (0x200, Instr.qbind), (0x201, Instr.qtry), (0x202, Instr.qcnt), (0x203, Instr.copy), (0x204, Instr.mcast), (0x205, Instr.reduce), (0x206, Instr.gemv), (0x207, Instr.foot), (0x208, Instr.migr), (0x220, Instr.launch), (0x222, Instr.cancel), (0x240, Instr.finit), (0x241, Instr.fres), (0x242, Instr.freg)] ++
  [(0x243, Instr.fwait), (0x244, Instr.fpoll), (0x245, Instr.ffail), (0x246, Instr.phreg), (0x247, Instr.phdrop), (0x248, Instr.pharr), (0x249, Instr.phwait), (0x24A, Instr.phnext), (0x24B, Instr.phset), (0x24C, Instr.phexp), (0x24D, Instr.bar), (0x282, Instr.ctxsvSave), (0x2C0, Instr.errqpop)]

/-- MMA and MMAI (R178). -/
def opsG : List (Nat × (Hdr → OpsG → Instr)) :=
  [(0x141, Instr.mma), (0x142, Instr.mmai)]

/-- VTBL (R166). -/
def opsT : List (Nat × (Hdr → OpsT → Instr)) :=
  [(0x126, Instr.vtbl)]

/-- The fields that every full-form word has (R34). -/
def hdrOf (w : Word) : Hdr :=
  { e := w.getLsbD 63, pn := w.getLsbD 51, pg := w.extractLsb' 48 3, w := w.getLsbD 47 }

/-- Bits [61:52], the major opcode (R34). -/
def opOf (w : Word) : Nat := (w.extractLsb' 52 10).toNat

/-- Format A (R35). -/
def fieldsA (w : Word) : Option OpsA := do
  let dst ← dstOf (w.extractLsb' 40 7)
  let sa ← srcOf (w.extractLsb' 32 8)
  let sb ← srcOf (w.extractLsb' 24 8)
  let sc ← srcOf (w.extractLsb' 16 8)
  pure { dst, sa, sb, sc, ty := Ty.ofCode (w.extractLsb' 12 4), cc := w.extractLsb' 8 4, rm := w.extractLsb' 5 3,
         adv := w.getLsbD 4, sat := w.getLsbD 3, is := w.extractLsb' 0 3 }

/-- Format A with the modifier of MMA (R178). -/
def fieldsG (w : Word) : Option OpsG := do
  let dst ← dstOf (w.extractLsb' 40 7)
  let sa ← srcOf (w.extractLsb' 32 8)
  let sb ← srcOf (w.extractLsb' 24 8)
  let sc ← srcOf (w.extractLsb' 16 8)
  pure { dst, sa, sb, sc, vs := w.extractLsb' 11 5, base := w.extractLsb' 4 7, sat := w.getLsbD 3,
         kp := w.extractLsb' 0 3 }

/-- Format A with the modifier of VTBL (R166). -/
def fieldsT (w : Word) : Option OpsT := do
  let dst ← dstOf (w.extractLsb' 40 7)
  let sa ← srcOf (w.extractLsb' 32 8)
  let sb ← srcOf (w.extractLsb' 24 8)
  let sc ← srcOf (w.extractLsb' 16 8)
  pure { dst, sa, sb, sc, ty := Ty.ofCode (w.extractLsb' 12 4), fill := w.extractLsb' 4 8, half := w.getLsbD 3,
         form := w.getLsbD 2, nt := w.extractLsb' 0 2 }

/-- Format B (R37). -/
def fieldsB (w : Word) : Option OpsB := do
  let dst ← dstOf (w.extractLsb' 40 7)
  let sa ← srcOf (w.extractLsb' 32 8)
  pure { dst, sa, bm := w.extractLsb' 24 8, imm := w.extractLsb' 0 24 }

/-- Format C (R38). -/
def fieldsC (w : Word) : Option OpsC := do
  let dst ← dstOf (w.extractLsb' 40 7)
  let sa ← srcOf (w.extractLsb' 32 8)
  pure { dst, sa, imm := w.extractLsb' 0 32 }

/-- Format M (R39). -/
def fieldsM (w : Word) : Option OpsM := do
  let dst ← dstOf (w.extractLsb' 40 7)
  let sa ← srcOf (w.extractLsb' 32 8)
  let sb ← srcOf (w.extractLsb' 24 8)
  pure { dst, sa, sb, sz := w.extractLsb' 21 3, ord := w.extractLsb' 19 2, sp := w.extractLsb' 16 3,
         scope := w.extractLsb' 10 6, disp := w.extractLsb' 0 10 }

/-- Format X (R43). -/
def fieldsX (w : Word) : Option OpsX := do
  let dst ← dstOf (w.extractLsb' 40 7)
  let sa ← srcOf (w.extractLsb' 32 8)
  let sb ← srcOf (w.extractLsb' 24 8)
  pure { dst, sa, sb, lvl := w.extractLsb' 20 4, scope := w.extractLsb' 14 6, ord := w.extractLsb' 12 2,
         qn := w.extractLsb' 9 3, ls := w.getLsbD 8, lane := w.extractLsb' 1 7, nb := w.getLsbD 0 }

/-- The slot in bits [30:0] of a dual word's half (R48). -/
def slotOf (b : BitVec 31) (hop : Hop) : Option Slot := do
  let dst ← dstOf (b.extractLsb' 13 7)
  let src ← srcOf (b.extractLsb' 5 8)
  pure { hop, pg := b.extractLsb' 21 3, w := b.getLsbD 20, dst, src, md := b.extractLsb' 0 5 }

/-- A dual word (R48 to R50), its checks in the order of R54. -/
def decodeDual (w : Word) : Except Fate Instr :=
  let a := w.extractLsb' 31 31
  let b := w.extractLsb' 0 31
  match hopOf (a.extractLsb' 24 7) with
  | none => .error (.illegal false)
  | some ha =>
    match hopOf (b.extractLsb' 24 7) with
    | none => .error (.illegal true)
    | some hb =>
      match slotOf a ha with
      | none => .error (.illegal false)
      | some sa =>
        match slotOf b hb with
        | none => .error (.illegal (slotSel sa))
        | some sb =>
          match slotFail sa sb with
          | some s => .error (.illegal s)
          | none =>
            match pairRule sa sb with
            | some n => .error (.pair n)
            | none => .ok (.dualWord (w.getLsbD 63) sa sb)

/-- The instruction of one format that a full-form word names, before its row is checked. -/
def pick {α : Type} (tbl : List (Nat × (Hdr → α → Instr))) (o : Option α) (w : Word) : Option Instr :=
  match tbl.lookup (opOf w), o with
  | some mk, some o => some (mk (hdrOf w) o)
  | _, _ => none

/-- The instruction that a full-form word names, before its row is checked (R53). -/
def pickFull (w : Word) : Option Instr :=
  pick opsA (fieldsA w) w <|> pick opsB (fieldsB w) w <|> pick opsC (fieldsC w) w <|> pick opsM (fieldsM w) w <|>
    pick opsX (fieldsX w) w <|> pick opsG (fieldsG w) w <|> pick opsT (fieldsT w) w

/-- The instruction of a word, or the word's fate (R33, R34, R53, R54). -/
def decode (w : Word) : Except Fate Instr :=
  if w.getLsbD 62 then decodeDual w
  else
    match pickFull w with
    | some i => if i.wf then .ok i else .error (.illegal false)
    | none => .error (.illegal false)

/-- The word of eight bytes, the first at the lowest address (R33). -/
def wordOfBytes (b0 b1 b2 b3 b4 b5 b6 b7 : Byte) : Word :=
  .cast (by rfl) (b7 ++ b6 ++ b5 ++ b4 ++ b3 ++ b2 ++ b1 ++ b0)

/-- The instruction at the front of a list of bytes and the rest of the list (R33). -/
def decodeBytes : List Byte → Except Fate (Instr × List Byte)
  | b0 :: b1 :: b2 :: b3 :: b4 :: b5 :: b6 :: b7 :: rest =>
    match decode (wordOfBytes b0 b1 b2 b3 b4 b5 b6 b7) with
    | .ok i => .ok (i, rest)
    | .error f => .error f
  | _ => .error .short

/-- The eight bytes of a word, the first at the lowest address (R33). -/
def bytesOfWord (w : Word) : List Byte :=
  [w.extractLsb' 0 8, w.extractLsb' 8 8, w.extractLsb' 16 8, w.extractLsb' 24 8, w.extractLsb' 32 8,
   w.extractLsb' 40 8, w.extractLsb' 48 8, w.extractLsb' 56 8]

/-- The instruction that the decoder reads from a word numbered as the opcode table numbers it. The table gives its rows
64 bits, one word, so the bits above `nbits` are zero. -/
def decodeTableWord (nbits w : Nat) : Option Instr :=
  match decodeBytes (bytesOfWord (BitVec.ofNat 64 (w % 2 ^ nbits))) with
  | .ok (i, _) => some i
  | .error _ => none

/-! The encoder. -/

/-- The fields of a word before they are laid out, by format. -/
inductive Parts where
  | a (op : BitVec 10) (h : Hdr) (o : OpsA)
  | b (op : BitVec 10) (h : Hdr) (o : OpsB)
  | c (op : BitVec 10) (h : Hdr) (o : OpsC)
  | m (op : BitVec 10) (h : Hdr) (o : OpsM)
  | x (op : BitVec 10) (h : Hdr) (o : OpsX)
  | g (op : BitVec 10) (h : Hdr) (o : OpsG)
  | t (op : BitVec 10) (h : Hdr) (o : OpsT)
  | dual (e : Bool) (a b : Slot)
deriving DecidableEq, Repr

/-- Bits [63:40] of a full-form word (R34). -/
def layHead (op : BitVec 10) (h : Hdr) (dst : Dst) : BitVec 24 :=
  .cast (by rfl) (BitVec.ofBool h.e ++ 0#1 ++ op ++ BitVec.ofBool h.pn ++ h.pg ++ BitVec.ofBool h.w ++ dst.bits)

/-- A slot's 31 bits (R48). -/
def laySlot (s : Slot) : BitVec 31 :=
  .cast (by rfl) (s.hop.code ++ s.pg ++ BitVec.ofBool s.w ++ s.dst.bits ++ s.src.bits ++ s.md)

/-- The word of the fields (R34 to R43, R48, R166, R178). -/
def Parts.lay : Parts → Word
  | .a op h o => .cast (by rfl) (layHead op h o.dst ++ o.sa.bits ++ o.sb.bits ++ o.sc.bits ++ o.ty.code ++ o.cc ++
      o.rm ++ BitVec.ofBool o.adv ++ BitVec.ofBool o.sat ++ o.is)
  | .b op h o => .cast (by rfl) (layHead op h o.dst ++ o.sa.bits ++ o.bm ++ o.imm)
  | .c op h o => .cast (by rfl) (layHead op h o.dst ++ o.sa.bits ++ o.imm)
  | .m op h o => .cast (by rfl) (layHead op h o.dst ++ o.sa.bits ++ o.sb.bits ++ o.sz ++ o.ord ++ o.sp ++ o.scope ++
      o.disp)
  | .x op h o => .cast (by rfl) (layHead op h o.dst ++ o.sa.bits ++ o.sb.bits ++ o.lvl ++ o.scope ++ o.ord ++ o.qn ++
      BitVec.ofBool o.ls ++ o.lane ++ BitVec.ofBool o.nb)
  | .g op h o => .cast (by rfl) (layHead op h o.dst ++ o.sa.bits ++ o.sb.bits ++ o.sc.bits ++ o.vs ++ o.base ++
      BitVec.ofBool o.sat ++ o.kp)
  | .t op h o => .cast (by rfl) (layHead op h o.dst ++ o.sa.bits ++ o.sb.bits ++ o.sc.bits ++ o.ty.code ++ o.fill ++
      BitVec.ofBool o.half ++ BitVec.ofBool o.form ++ o.nt)
  | .dual e s s' => .cast (by rfl) (BitVec.ofBool e ++ 1#1 ++ laySlot s ++ laySlot s')

/-- The fields of an instruction's word with its opcode (R53, R49); `none` for a step that no word encodes. -/
def Instr.parts : Instr → Option Parts
  | .add h o => some (.a 0x010 h o)
  | .addi h o => some (.b 0x011 h o)
  | .sub h o => some (.a 0x012 h o)
  | .neg h o => some (.a 0x013 h o)
  | .mul h o => some (.a 0x014 h o)
  | .mulh h o => some (.a 0x015 h o)
  | .mulhu h o => some (.a 0x016 h o)
  | .div h o => some (.a 0x017 h o)
  | .divu h o => some (.a 0x018 h o)
  | .rem h o => some (.a 0x019 h o)
  | .remu h o => some (.a 0x01A h o)
  | .min h o => some (.a 0x01B h o)
  | .max h o => some (.a 0x01C h o)
  | .minu h o => some (.a 0x01D h o)
  | .maxu h o => some (.a 0x01E h o)
  | .abs h o => some (.a 0x01F h o)
  | .and h o => some (.a 0x020 h o)
  | .andi h o => some (.b 0x021 h o)
  | .or h o => some (.a 0x022 h o)
  | .ori h o => some (.b 0x023 h o)
  | .xor h o => some (.a 0x024 h o)
  | .xori h o => some (.b 0x025 h o)
  | .andn h o => some (.a 0x026 h o)
  | .not h o => some (.a 0x027 h o)
  | .shl h o => some (.a 0x028 h o)
  | .shli h o => some (.b 0x029 h o)
  | .shr h o => some (.a 0x02A h o)
  | .shri h o => some (.b 0x02B h o)
  | .sar h o => some (.a 0x02C h o)
  | .sari h o => some (.b 0x02D h o)
  | .rol h o => some (.a 0x02E h o)
  | .ror h o => some (.a 0x02F h o)
  | .clz h o => some (.a 0x030 h o)
  | .ctz h o => some (.a 0x031 h o)
  | .popc h o => some (.a 0x032 h o)
  | .brev h o => some (.a 0x033 h o)
  | .bswap h o => some (.a 0x034 h o)
  | .bfx h o => some (.a 0x035 h o)
  | .bfxs h o => some (.a 0x036 h o)
  | .bfi h o => some (.a 0x037 h o)
  | .mov h o => some (.a 0x038 h o)
  | .movQueueMarker h o => some (.a 0x038 h o)
  | .movQueuePop h o => some (.a 0x038 h o)
  | .movi h o => some (.c 0x039 h o)
  | .movhi h o => some (.c 0x03A h o)
  | .sel h o => some (.a 0x03B h o)
  | .lea h o => some (.a 0x03C h o)
  | .cmp h o => some (.a 0x040 h o)
  | .cmpu h o => some (.a 0x041 h o)
  | .cmpi h o => some (.b 0x042 h o)
  | .pand h o => some (.a 0x043 h o)
  | .por h o => some (.a 0x044 h o)
  | .pxor h o => some (.a 0x045 h o)
  | .pnot h o => some (.a 0x046 h o)
  | .pmov h o => some (.a 0x047 h o)
  | .bra h o => some (.c 0x050 h o)
  | .brx h o => some (.a 0x051 h o)
  | .call h o => some (.c 0x052 h o)
  | .callx h o => some (.a 0x053 h o)
  | .ret h o => some (.a 0x054 h o)
  | .jf h o => some (.c 0x055 h o)
  | .cfetch h o => some (.x 0x056 h o)
  | .exit h o => some (.a 0x057 h o)
  | .nop h o => some (.a 0x058 h o)
  | .rep h o => some (.b 0x059 h o)
  | .mfs h o => some (.b 0x060 h o)
  | .mts h o => some (.b 0x061 h o)
  | .trap h o => some (.b 0x062 h o)
  | .ldh h o => some (.m 0x063 h o)
  | .sth h o => some (.m 0x064 h o)
  | .dualWord e a b => some (.dual e a b)
  | .fadd h o => some (.a 0x080 h o)
  | .fsub h o => some (.a 0x081 h o)
  | .fmul h o => some (.a 0x082 h o)
  | .ffma h o => some (.a 0x083 h o)
  | .fdiv h o => some (.a 0x084 h o)
  | .fsqrt h o => some (.a 0x085 h o)
  | .fmin h o => some (.a 0x086 h o)
  | .fmax h o => some (.a 0x087 h o)
  | .fabs h o => some (.a 0x088 h o)
  | .fneg h o => some (.a 0x089 h o)
  | .fcmp h o => some (.a 0x08A h o)
  | .fclass h o => some (.a 0x08B h o)
  | .frnd h o => some (.a 0x08C h o)
  | .fcvt h o => some (.a 0x08D h o)
  | .fcvti h o => some (.a 0x08E h o)
  | .icvtf h o => some (.a 0x08F h o)
  | .cvt8 h o => some (.a 0x090 h o)
  | .cvt8x h o => some (.a 0x091 h o)
  | .fscale h o => some (.a 0x092 h o)
  | .sclx h o => some (.a 0x093 h o)
  | .rje h o => some (.a 0x0A0 h o)
  | .rjw h o => some (.a 0x0A1 h o)
  | .rjx h o => some (.a 0x0A2 h o)
  | .vadd h o => some (.a 0x100 h o)
  | .vsub h o => some (.a 0x101 h o)
  | .vmul h o => some (.a 0x102 h o)
  | .vfma h o => some (.a 0x103 h o)
  | .vdiv h o => some (.a 0x104 h o)
  | .vsqrt h o => some (.a 0x105 h o)
  | .vmin h o => some (.a 0x106 h o)
  | .vmax h o => some (.a 0x107 h o)
  | .vand h o => some (.a 0x108 h o)
  | .vor h o => some (.a 0x109 h o)
  | .vxor h o => some (.a 0x10A h o)
  | .vshl h o => some (.a 0x10B h o)
  | .vshr h o => some (.a 0x10C h o)
  | .vsar h o => some (.a 0x10D h o)
  | .vcmp h o => some (.a 0x10E h o)
  | .vsel h o => some (.a 0x10F h o)
  | .vcvt h o => some (.a 0x110 h o)
  | .vcvt8 h o => some (.a 0x111 h o)
  | .vsplat h o => some (.a 0x112 h o)
  | .vext h o => some (.a 0x113 h o)
  | .vins h o => some (.a 0x114 h o)
  | .vmov h o => some (.a 0x115 h o)
  | .vshfl h o => some (.a 0x120 h o)
  | .gshfl h o => some (.a 0x121 h o)
  | .ballot h o => some (.a 0x122 h o)
  | .vred h o => some (.a 0x123 h o)
  | .vreds h o => some (.a 0x124 h o)
  | .vbfly h o => some (.a 0x125 h o)
  | .vtbl h o => some (.t 0x126 h o)
  | .vbcast h o => some (.a 0x127 h o)
  | .vldh h o => some (.m 0x130 h o)
  | .vsth h o => some (.m 0x131 h o)
  | .vldhx h o => some (.m 0x132 h o)
  | .vsthx h o => some (.m 0x133 h o)
  | .mmodeOn h o => some (.a 0x140 h o)
  | .mmodeOff h o => some (.a 0x140 h o)
  | .mmodeGatherComplete _ => none
  | .mma h o => some (.g 0x141 h o)
  | .mmai h o => some (.g 0x142 h o)
  | .mzero h o => some (.a 0x143 h o)
  | .mdrain h o => some (.a 0x144 h o)
  | .mstat h o => some (.a 0x145 h o)
  | .gridOperation _ _ => none
  | .engineStallRelease _ => none
  | .ldg h o => some (.m 0x180 h o)
  | .stg h o => some (.m 0x181 h o)
  | .ldz h o => some (.m 0x182 h o)
  | .stz h o => some (.m 0x183 h o)
  | .ldm h o => some (.m 0x184 h o)
  | .stm h o => some (.m 0x185 h o)
  | .ldx h o => some (.m 0x186 h o)
  | .stx h o => some (.m 0x187 h o)
  | .vldg h o => some (.m 0x188 h o)
  | .vstg h o => some (.m 0x189 h o)
  | .vldz h o => some (.m 0x18A h o)
  | .vstz h o => some (.m 0x18B h o)
  | .vldm h o => some (.m 0x18C h o)
  | .vstm h o => some (.m 0x18D h o)
  | .vldmx h o => some (.m 0x18E h o)
  | .vstmx h o => some (.m 0x18F h o)
  | .vldx h o => some (.m 0x190 h o)
  | .vstx h o => some (.m 0x191 h o)
  | .pprobe h o => some (.m 0x198 h o)
  | .prel h o => some (.m 0x199 h o)
  | .prelEffect => none
  | .pclr h o => some (.m 0x19A h o)
  | .fence h o => some (.x 0x1C0 h o)
  | .fencePodTimeout _ _ => none
  | .aadd h o => some (.m 0x1C1 h o)
  | .amin h o => some (.m 0x1C2 h o)
  | .amax h o => some (.m 0x1C3 h o)
  | .aand h o => some (.m 0x1C4 h o)
  | .aor h o => some (.m 0x1C5 h o)
  | .axor h o => some (.m 0x1C6 h o)
  | .axchg h o => some (.m 0x1C7 h o)
  | .acas h o => some (.m 0x1C8 h o)
  | .afadd h o => some (.m 0x1C9 h o)
  | .ainc h o => some (.m 0x1CA h o)
  | .laneResume _ _ => none
  | .arbitrate _ _ => none
  | .swapOut _ => none
  | .swapIn _ _ => none
  | .segmentFetchCompletion _ _ => none
  | .qbind h o => some (.x 0x200 h o)
  | .qtry h o => some (.x 0x201 h o)
  | .qcnt h o => some (.x 0x202 h o)
  | .copy h o => some (.x 0x203 h o)
  | .mcast h o => some (.x 0x204 h o)
  | .reduce h o => some (.x 0x205 h o)
  | .gemv h o => some (.x 0x206 h o)
  | .foot h o => some (.x 0x207 h o)
  | .migr h o => some (.x 0x208 h o)
  | .engineCommandStart _ => none
  | .enginePiece _ _ => none
  | .resultDelivery _ => none
  | .guardPass _ _ => none
  | .faultRecordWrite => none
  | .migrationStart _ => none
  | .migrationRound _ => none
  | .migrationSwitch _ => none
  | .launch h o => some (.x 0x220 h o)
  | .tsplit h o => some (.a 0x221 h o)
  | .cancel h o => some (.x 0x222 h o)
  | .cancelTokenArrival _ _ => none
  | .recordAccept _ => none
  | .memberPlace _ => none
  | .imageLoad _ => none
  | .memberRetire _ _ _ => none
  | .finit h o => some (.x 0x240 h o)
  | .fres h o => some (.x 0x241 h o)
  | .freg h o => some (.x 0x242 h o)
  | .fwait h o => some (.x 0x243 h o)
  | .fpoll h o => some (.x 0x244 h o)
  | .ffail h o => some (.x 0x245 h o)
  | .phreg h o => some (.x 0x246 h o)
  | .phdrop h o => some (.x 0x247 h o)
  | .pharr h o => some (.x 0x248 h o)
  | .phwait h o => some (.x 0x249 h o)
  | .phnext h o => some (.x 0x24A h o)
  | .phset h o => some (.x 0x24B h o)
  | .phexp h o => some (.x 0x24C h o)
  | .podPhaserMessage _ _ _ _ => none
  | .bar h o => some (.x 0x24D h o)
  | .barArrive _ => none
  | .trapEntry _ => none
  | .tfix h o => some (.a 0x281 h o)
  | .rteRetry h o => some (.a 0x280 h o)
  | .rteSkip h o => some (.a 0x280 h o)
  | .rteGatherComplete _ => none
  | .ctxsvSave h o => some (.x 0x282 h o)
  | .ctxsvRestore h o => some (.x 0x282 h o)
  | .ctxsvSaveFree h o => some (.x 0x282 h o)
  | .ctxsvResume h o => some (.x 0x282 h o)
  | .errqpop h o => some (.x 0x2C0 h o)
  | .preemptionRequest _ => none
  | .preemptionTimeout _ => none
  | .preemptionStop _ => none
  | .scrub _ _ => none
  | .uncorrectableLineError _ _ _ => none
  | .instructionStoreError _ _ => none
  | .heartbeatTimeout _ => none
  | .dieLost _ => none
  | .lineMove _ => none
  | .sweepStart => none
  | .currentLimitTrip => none
  | .currentLimitRelease => none
  | .temperatureThreshold _ _ => none
  | .monitorRefresh _ => none
  | .peerRemoteAccess _ => none
  | .remoteAnswer _ _ => none
  | .remoteTimeout _ => none
  | .keepAlive _ => none
  | .remoteStoreDeadline _ => none
  | .gencommit _ => none
  | .pkgnumWrite _ => none
  | .ctxctlCreate _ => none
  | .ctxctlEnd _ => none
  | .launchQueueWake => none
  | .fansResolve _ => none
  | .fansRefuse _ => none
  | .invalContext _ => none
  | .invalBuffer _ => none
  | .invalPage _ => none
  | .invalScope _ => none
  | .invalComplete => none
  | .svcctlWriteImage _ => none
  | .svcctlReadImage _ => none
  | .svcctlRetry _ => none
  | .svcctlSkip _ => none
  | .svcctlEndMember _ => none
  | .svcctlEndContext _ => none
  | .resvset _ => none
  | .fltctlStop _ => none
  | .fltctlResume _ => none
  | .fltctlSwitchOut _ => none
  | .fltctlResumeCore _ => none
  | .reqDieLost _ => none
  | .reqRetireStack _ => none
  | .reqRate _ => none
  | .reqExpanderUp _ => none
  | .frbaseWrite _ => none
  | .evbaseWrite _ => none
  | .frconsWrite _ => none
  | .evconsWrite _ => none
  | .hostRegisterWrite _ _ => none
  | .hostMemoryAccess _ _ => none
  | .firmwareHostAccess _ _ => none
  | .expanderLost _ => none
  | .powerGood _ => none
  | .getVersion => none
  | .getCapabilities => none
  | .negotiateAlgorithms _ _ => none
  | .getDigests => none
  | .getCertificate _ _ => none
  | .challenge _ => none
  | .getMeasurements _ _ => none
  | .ccountIncrement => none
  | .dieLinkRetrain _ => none
  | .registerFileError _ _ _ _ => none
  | .firmwareServiceAction _ => none
  | .keepAliveSend _ => none
  | .expanderLinkUp _ _ => none
  | .ratePointInEffect _ => none

/-- Whether an instruction is a word of a program: not a step that no word encodes. -/
def Instr.isWord (i : Instr) : Bool := i.parts.isSome

/-- The word of an instruction (R33); `none` for a step that no word encodes. -/
def encode (i : Instr) : Option Word := i.parts.map Parts.lay

end Sys2Proof
end

