-- ==== Sys2Proof/Machine/State.lean ====
section
/-! DEFINITION. The state of the part, as plain data: what spec/01 to spec/19 give the machine, and the model's own fields
(the last ones of `State`). Registers and their reset values are listed in INVENTORY.md. -/

namespace Sys2Proof.Machine

/-- Why the model stops. No meaning of this model raises one: every stop of the spec is a trap, a park or a report. -/
inductive Fault where
  /-- Raised by nothing at present; kept so that a stop the spec leaves without any effect has a name. Safe. -/
  | noEffectStated
deriving DecidableEq, Repr

/-- Why the model has no meaning for an instruction. -/
inductive Refusal where
  /-- Raised by an arm of `exec` whose instruction has no meaning yet. Safe: nothing is claimed of it. -/
  | notModelled (mnemonic : String)
deriving DecidableEq, Repr

/-- The causes of R322. -/
inductive Cause where
  | illegal | illegalPair | latchStale | codeAbsent | priv | align | softwareTrap
  | formatDivergence | modeViolation
  | fpInvalid | fpDivzero | fpOverflow | fpUnderflow | fpInexact | intDivzero | intOverflow
  | space | bounds | rights | owner | pageFault | atomicPath | memPoison | memPathLost | rfUncorrectable
  | peerUnreachable | remoteLoadFail | queueBind | launchDepth | futureOverresolve
  | cancelled | dieLost | contextEnded
deriving DecidableEq, Repr

/-- A latch value with its register class (R22, R23, R139). -/
inductive LatchVal where
  | gen (x : Word)
  | pred (b : Bool)
  | vec (x : VWord)
  | mask (m : LaneSet)
deriving DecidableEq, Repr

/-- The four latch entries; `none` is stale (R22). -/
structure Latches where
  l0 : Option LatchVal
  l1 : Option LatchVal
  l2 : Option LatchVal
  l3 : Option LatchVal
deriving DecidableEq, Repr

/-- One lane's trap: the step of R31 that it failed, its rank within the step (R70, R108), and what its registers show. -/
structure LTrap where
  step : Nat
  rank : Nat
  cause : Cause
  tval : Word
  temask : Word
deriving DecidableEq, Repr

/-- The spaces of R41. -/
inductive MSpace where
  | h | g | z | m | x | n
deriving DecidableEq, Repr

/-- What a captured access does when it is performed. -/
inductive AccKind where
  | load
  | gather
  | atomic (op : AtomOp) (v cmp : Word)
  | fwait
deriving DecidableEq, Repr

/-- An access with the values its lane read at issue (R30): space, address or handle, displacement in bytes (of a handle's
offset, R39), index vector of a gather, bytes of one element, sign extension, and the destination. -/
structure Acc where
  kind : AccKind
  sp : MSpace
  addr : Word
  disp : Int
  idx : VWord
  size : Nat
  sgn : Bool
  dst : Dst
  w : Bool
deriving DecidableEq, Repr

/-- A 64 KiB translation unit that an access waits on, and the answer it got: `some true` resolved, `some false` refused
(R207, R383). -/
structure Wait where
  vpn : BitVec 32
  answer : Option Bool
deriving DecidableEq, Repr

/-- A phaser by level code, instance of the level and number (R307). -/
structure PhKey where
  lvl : Nat
  inst : Nat
  num : Nat
deriving DecidableEq, Repr

/-- The condition that a parked lane waits on, with the values captured when it parked (R30). A condition that one
issuing lane raised for its issuing set carries that set (R31). -/
inductive Park where
  /-- a hall load or gather, or a gallery one whose data is absent: a line with P = 0 (R198) -/
  | line (a : Acc)
  /-- a load whose data has not returned (R210) -/
  | load (a : Acc)
  /-- an atomic that was performed and whose old value has not returned (R236) -/
  | atomic (a : Acc) (old : Word)
  /-- a failed translation (R207) -/
  | fault (a : Acc) (waits : List Wait)
  /-- a remote access: the bytes that came and the failures, by element, and the requests still open (R371) -/
  | remote (a : Acc) (got : List (Nat × List Byte)) (bad : List (Nat × Cause × Word)) (left : Nat)
  /-- CFETCH until the fetcher accepts it (R86) -/
  | fetcher (image : Word) (slot : Nat) (fut : Word) (set : LaneSet)
  /-- a pop (R243) -/
  | pop (q : BitVec 3) (dst : Dst) (w : Bool) (set : LaneSet)
  /-- LAUNCH with the pending-launch queue full (R278) -/
  | launch (rec : List Word) (set : LaneSet)
  /-- RJW (R141) -/
  | rejoin (k : BitVec 3)
  /-- FWAIT (R302): space, address or handle, destination, the issuing lane, and the units that its access waits on
  (R207) -/
  | future (sp : MSpace) (addr : Word) (dst : Dst) (w : Bool) (set : LaneSet) (lane : LaneId) (waits : List Wait)
  /-- PHWAIT and PHNEXT (R314): threshold -/
  | phaser (key : PhKey) (t : BitVec 32) (dst : Dst) (w : Bool) (set : LaneSet)
  /-- BAR (R318) -/
  | bar
  /-- RTE (R331); `true` for SKIP -/
  | rte (skip : Bool)
  /-- MMODE (R177); `true` for ON -/
  | mmode (on : Bool)
  /-- held for service (R328) -/
  | service
  /-- CTXSV until the image is written or read (R341): operation, flight, address -/
  | ctxsv (opn : BitVec 2) (fnum : Nat) (addr : Word) (set : LaneSet)
deriving DecidableEq, Repr

/-- The state of a lane (R127). -/
inductive LaneSt where
  | ready
  | parked (c : Park)
  | exited
deriving DecidableEq, Repr

/-- A faulting 64-bit granule (R335): source-selector pattern of the register or latch, and granule. -/
structure Gran where
  sel : BitVec 8
  gran : BitVec 3
deriving DecidableEq, Repr

/-- A lane (R7). `done`, `remain`: progress of its repetition (R29); `repInt`: the repetition was interrupted, so REPCNT
shows it; `repCont`: the REP word is issued again and is not counted (R29); `repFin`: the lane finished the interrupted
repetition and waits for its run to go on (R27, R331); `crossed`: the pc came past the last word of a slot (R19); `pend`: latch value of the trapped word where the lane completed it,
or of the repetition so far (R26, R27); `part`: partial latch value of a word or repeat that trapped here (R26); the `sh` fields: the
trap shadow (R325), with the errors of its latch entries (R335) and the value that TFIX gave (R330); `inS`: member of the trap set (R326); `parkRep`: the lane parked at a repeat of a repetition (R29); `fail`: a failed park, taken at the next issue, with the word
(R30); `slotSkip`: the slot of a dual word that RTE.SKIP treats as NOP here (R52). -/
structure Lane where
  pc : Pc
  st : LaneSt
  g : Vector Word 64
  p : BitVec 8
  v : Vector VWord 32
  lat : Latches
  pos : Nat
  crossed : Bool
  done : BitVec 7
  remain : BitVec 7
  repInt : Bool
  repCont : Bool
  repFin : Bool
  parkRep : Bool
  pend : Option LatchVal
  part : Option LatchVal
  shadow : Latches
  shPend : Option LatchVal
  shPart : Option LatchVal
  shFix : Option LatchVal
  shFaulty : List Gran
  shPos : Nat
  shCont : Bool
  shFin : Bool
  inS : Bool
  fpstat : BitVec 5
  istat : BitVec 3
  temask : Word
  tval : Word
  faulty : List Gran
  fail : Option (LTrap × Word)
  slotSkip : Option Bool
deriving DecidableEq, Repr

/-- A rejoin mask (R138). -/
structure RMask where
  enrolled : LaneSet
  arrived : LaneSet
deriving DecidableEq, Repr

/-- A footprint region (R256). -/
structure Foot where
  base : Word
  sp : BitVec 3
  wr : Bool
  len : Nat
deriving DecidableEq, Repr

/-- A queue entry (R240, R245): a command by its number or a marker, its SEQ, and its result word once present. -/
structure QEntry where
  cmd : Option Nat
  seq : BitVec 32
  value : BitVec 32
  result : Option Word
deriving DecidableEq, Repr

/-- A queue register (R240). -/
structure Queue where
  cls : BitVec 3
  lvl : BitVec 4
  nr : Bool
  entries : List QEntry
  foots : List Foot
  seq : BitVec 32
deriving DecidableEq, Repr

/-- A registration of a flight on a phaser (R309): mode, phase A of the latest arrival, whether a signalling member
counts in NSIG yet (R310), and whether ARR and ARRN count an arrival of it (R311). -/
structure PhReg where
  key : PhKey
  mode : BitVec 2
  a : BitVec 32
  counts : Bool
  inArr : Bool
  inArrn : Bool
deriving DecidableEq, Repr

/-- A piece or sub-element of a held store (R208): its handle, its bytes, and the ranges (flat address and length) that
writes ordered after it have written since (R171, R216). -/
structure HeldPart where
  h : Word
  bytes : List Byte
  later : List (Nat × Nat)
deriving DecidableEq, Repr

/-- A store that failed translation and is held (R208): lane, the number of its word in program order, the parts not yet
performed, in the order of the sub-elements, and the units that they wait on. -/
structure HeldStore where
  lane : LaneId
  seq : Nat
  parts : List HeldPart
  waits : List Wait
deriving DecidableEq, Repr

/-- The repetition in progress (R27, R29): repeat to issue, last repeat plus one, target word, step bits STC, STB, STA,
STD from bit 0, and the lanes in which the REP word executed. -/
structure RepRun where
  i : Nat
  last : Nat
  word : Word
  step : BitVec 4
  lanes : LaneSet
deriving DecidableEq, Repr

/-- The run in progress: the issuing set and the repetition, if any (R128). -/
structure Run where
  set : LaneSet
  rep : Option RepRun
deriving DecidableEq, Repr

/-- What the word at issue waits for without effect (R184, R185, R186, R208, R244). `order`: the earlier stores of lanes
that a release or a fence follows (R223, R230), from a cycle on; `pod`: for a fence at POD scope (R231). -/
inductive Stall where
  | gridFull
  | drain (regs : List Nat)
  | flightGrid
  | engineGrid
  | queueFull (q : BitVec 3)
  | heldFull
  | order (lanes : LaneSet) (start : Word) (pod : Bool)
deriving DecidableEq, Repr

/-- A trap not yet entered (R325): the issuing set, the trap set, the lanes that trapped with their traps, the reported
slot, whether a repetition was interrupted, and the word. -/
structure TrapInfo where
  issue : LaneSet
  set : LaneSet
  traps : List (LaneId × LTrap)
  slot : Bool
  rep : Bool
  word : Word
deriving DecidableEq, Repr

/-- The member whose body a flight runs (R271): grid, team, member. -/
structure MemberRef where
  grid : Nat
  team : Nat
  mem : Nat
deriving DecidableEq, Repr

/-- Who asked for a pre-emption (R337): the core newel, privileged code, the host, a context switch of the core. -/
inductive StopBy where
  | newel | ctxsv | host | coreSwitch
deriving DecidableEq, Repr

/-- A flight (R126, R340). `ending`: it stops at its next run boundary, with the cause (R289, R293); `since`: the cycle
from which its lanes have all been parked, or from which one of them has been READY while it is swapped out (R135, R136); `halted`: the run that a stop interrupted (R337); `switched`: a core switch took it off its core, and nothing has resumed it (R387); `awaitImage`: its image is not loaded yet, and the units that the load waits on (R275). `tvec`: TVEC as the flight sees it in its present run (R90); `trapRep`: the trap that TCAUSE describes interrupted a repetition (R29). -/
structure Flight where
  id : FlightId
  live : Bool
  slot : Option Nat
  ctx : BitVec 6
  level : BitVec 4
  rootlvl : BitVec 4
  teamidx : Word
  teamcnt : Word
  ginst : BitVec 32
  depth : Nat
  resv : BitVec 16
  lclass : Nat
  eclass : Nat
  passed : Nat
  mm : Bool
  priv : Bool
  hnd : Bool
  dphase : BitVec 6
  fpctl : BitVec 8
  ictl : BitVec 2
  tvec : Word
  tcause : BitVec 10
  tmask : LaneSet
  tpc : Pc
  tinsn : Word
  trapRep : Bool
  merr : Word
  merrxy : Word
  rflat : Word
  mpasses : BitVec 32
  lanes : Vector Lane 32
  rejoin : Vector RMask 8
  queues : Vector Queue 8
  launches : List (List Word)
  phregs : List PhReg
  held : List HeldStore
  dropped : LaneSet
  stopped : Bool
  preempt : Option (Word × StopBy)
  stoppedBy : Option StopBy
  switched : Bool
  run : Option Run
  halted : Option Run
  stall : Option Stall
  service : Bool
  pendTrap : Option TrapInfo
  member : Option MemberRef
  awaitImage : Option (List Wait)
  ending : Option Cause
  since : Nat
deriving DecidableEq, Repr

/-- A segment slot's state (R18). -/
inductive SlotSt where
  | absent | loading | present
deriving DecidableEq, Repr

/-- The source of a slot's last accepted fill (R328): context, buffer, offset, and the image offset when a newel loaded
it at placement (R275). -/
structure FillSrc where
  ctx : BitVec 6
  buf : BitVec 12
  off : Nat
  image : Option (BitVec 28)
deriving DecidableEq, Repr

/-- An accepted segment fetch (R86). `reload`: firmware's own reload (R328); `ginst`: the instance of the flight that asked. -/
structure Fetch where
  slot : Nat
  src : FillSrc
  fut : Word
  flight : FlightId
  lane : LaneId
  waits : List Wait
  reload : Bool
  ginst : BitVec 32
deriving DecidableEq, Repr

/-- An operation of the grid with the operands read at issue (R180, R187). An MMA lists for each quarter its base. -/
structure GridOp where
  flight : FlightId
  slot : Nat
  pc : Pc
  zero : Bool
  first : Nat
  count : Nat
  act : LaneSet
  fmt : Word
  kp : Nat
  sat : Bool
  va : Vector VWord 32
  vb : Vector VWord 32
  vs : Vector VWord 32
  ascale : Vector Word 32
  bases : Vector Nat 4
  regs : Nat × Nat × Nat × Nat
  bad : List (LaneId × Gran)
deriving DecidableEq, Repr

/-- A core (R17, R132): segment slots, fill sources, accepted fetches, last-winner slots and grid queues of the four
engines. -/
structure Core where
  slots : Vector SlotSt 32
  src : Vector (Option FillSrc) 32
  fetches : List Fetch
  last : Vector Bool 4
  grid : Vector (List GridOp) 4
deriving DecidableEq, Repr

/-- The state of a hall, gallery or mezzanine line (R195, R197): owner tag, `none` for FREE, present and consumed. -/
structure LineState where
  owner : Option (BitVec 6)
  p : Bool
  c : Bool
deriving DecidableEq, Repr

/-- A context (R380, R381): liveness, cached descriptor words, TVEC (R323), instance counter (R291), error queue (R374),
cancel marks (R294), and the cached buffer, page-table and scope entries (R203), each with its four words or its word. -/
structure Context where
  live : Bool
  desc : Vector Word 8
  tvec : Word
  inst : BitVec 32
  eqCount : BitVec 17
  eqDrops : BitVec 16
  eqHead : BitVec 16
  cancels : List (BitVec 32)
  bufCache : List (Nat × List Word)
  pteCache : List (Nat × Word)
  scopeCache : List (Nat × List Word)
deriving DecidableEq, Repr

/-- A phaser (R308). `regNext`, `dropNext`: registrations and drops deferred to the phase end (R310, R313). -/
structure Phaser where
  phase : BitVec 32
  owner : Option (BitVec 6)
  pod : Bool
  nsig : BitVec 16
  arr : BitVec 16
  arrn : BitVec 16
  expm : BitVec 32
  expb : BitVec 48
  touch : Bool
  regNext : Nat
  dropNext : Nat
deriving DecidableEq, Repr

/-- Another package that holds phaser `num` claimed for a context in pod mode (R313): how often its condition has been reported
to hold and not to have ceased since, less the phases that have ended here. -/
structure PodPeer where
  ctx : BitVec 6
  num : BitVec 12
  pkg : BitVec 10
  met : Nat
deriving DecidableEq, Repr

/-- A unit of a level (R271): 0 flight slot, 1 core, 2 cluster, 3 die, 4 package, 5 pod, numbered as DUNIT (R382); another
package p of the group is unit p + 1 of level 4. -/
structure HwUnit where
  lvl : Nat
  num : Nat
deriving DecidableEq, Repr

/-- A placed member of a grid (R271, R287). `peer`: the other package that runs its leader; `cause`: why it failed, if it did
(R289). -/
structure Member where
  team : Nat
  mem : Nat
  unit : HwUnit
  leader : Option FlightId
  peer : Option (BitVec 10)
  retired : Bool
  cause : Option Cause
deriving DecidableEq, Repr

/-- An accepted grid (R281). `words`: the record's words as completed; `next`: the next member to place, counted over
(TEAM, MEMBER); `redo`: members to place again after a die loss (R351); `child`: cause of a failed child by member
(R289); `hallDone`, `galDone`: cores and clusters that hold the image's data (R275); `pri`: its newel list now;
`passed`: placements of a higher class that passed it (R283); `line`: the members that it was launched inside of, the nearest
first (R271, R351); `home`: for a member that another package places here, that package and the grid's number there;
`loadFail`: the cause with which a load of its image failed (R275). -/
structure Grid where
  id : Nat
  words : List Word
  ctx : BitVec 6
  domain : HwUnit
  parent : Option MemberRef
  firmware : Bool
  pri : Nat
  passed : Nat
  next : Nat
  redo : List Nat
  members : List Member
  childFail : List (Nat × Cause)
  cause : Option Cause
  hallDone : List Nat
  galDone : List Nat
  stopped : Bool
  line : List MemberRef
  home : Option (BitVec 10 × Nat)
  loadFail : Option Cause
deriving DecidableEq, Repr

/-- A failed piece (R253): offset within the transfer, child, cause. -/
structure PieceFail where
  off : Nat
  child : Nat
  cause : Cause
deriving DecidableEq, Repr

/-- A migration in progress (R359): the round whose copy has been made, the dirty filter as the list of its set bits, the
page's size in bytes, the address of its leaf and the leaf as it was, and the interleave by which a byte of the page is found
in an HBM4E frame. -/
structure Migration where
  round : Nat
  dirty : List Nat
  size : Nat
  leafAt : Nat
  old : Word
  il : BitVec 3
deriving DecidableEq, Repr

/-- An accepted engine command (R241, R251). `regs`: the values of its group; `order`: acceptance order at its die's scheduler; `done`: pieces performed or failed; `left`: work
not yet done; `waits`: pieces that wait for translation; `open_`: pieces with a request to a peer open; `got`: what peers
have answered, by piece and child; `begun`: destination lines begun and not yet
filled (R197); `landed`: bytes landed in them so far; `result`: its
result word once it has completed; `futWaits`: units that the resolution of its future waits on. -/
structure Cmd where
  id : Nat
  cls : BitVec 3
  flight : FlightId
  ctx : BitVec 6
  priv : Bool
  ginst : BitVec 32
  member : Option MemberRef
  qn : BitVec 3
  lvl : BitVec 4
  seq : BitVec 32
  scope : BitVec 6
  fut : Word
  regs : List Word
  foots : List Foot
  order : Nat
  started : Bool
  done : List Nat
  left : Nat
  waits : List (Nat × List Wait)
  open_ : List (Nat × Nat)
  got : List (Nat × Nat × List Byte)
  fails : List PieceFail
  flg : BitVec 5
  satf : Bool
  begun : List Nat
  landed : List (Nat × Nat)
  migr : Option Migration
  result : Option Word
  futWaits : List Wait
deriving DecidableEq, Repr

/-- A resolution of a future that a newel or the segment fetcher still has to perform (R86, R288): context, die of the
agent, handle, cause of a fault, what a report says of the agent (R373), and the units that it waits on. -/
structure Due where
  ctx : BitVec 6
  die : Nat
  handle : Word
  cause : Option (BitVec 8)
  tag : Word
  waits : List Wait
deriving DecidableEq, Repr

/-- A registered continuation whose record has not launched (R305): context, record slot, instance and domain, the member
that registered it with those that it was launched inside of, and whether a die loss has made it one to drop (R351). -/
structure ContReg where
  ctx : BitVec 6
  slot : Nat
  ginst : BitVec 32
  domain : HwUnit
  member : Option MemberRef
  line : List MemberRef
  dropped : Bool
deriving DecidableEq, Repr

/-- What an open remote request belongs to (R371): a lane's element, a store of a lane, a child's
part of a piece of a command. -/
inductive RemOwner where
  | lane (f : FlightId) (l : LaneId) (elem : Nat)
  | store (f : FlightId) (l : LaneId)
  | piece (cmd : Nat) (piece : Nat) (child : Nat)
deriving DecidableEq, Repr

/-- An open remote request of this package (R370, R371): the cycle its timeout counts from is on the issuing die. -/
structure Outstanding where
  id : Nat
  owner : RemOwner
  die : Nat
  ctx : BitVec 6
  handle : Word
  peer : BitVec 10
  req : RemRequest
  start : Word
deriving DecidableEq, Repr

/-- A remote access of a peer that waits here for translation (R371): its arrival and its last keep-alive in hub
cycles. `later`: for a store of a lane of this package, what later writes of the lane have written (R226). -/
structure Inbound where
  id : Nat
  req : RemRequest
  waits : List Wait
  arrived : Word
  kept : Word
  later : List (Nat × Nat)
deriving DecidableEq, Repr

/-- A message that this package has sent to another, with its GEN (R368): a remote request or its answer, a keep-alive, a cancel
token, the condition of a phaser, a member placed there, the end of one that ran here, a barrier's arrival or its passing, or the
answer to a packet of another generation; or an access to host memory that passed the window (R394), or a join future reported to
the firmware controller (R13). -/
inductive Message where
  | request (peer : BitVec 10) (r : RemRequest)
  | answer (peer : BitVec 10) (gen : BitVec 32) (id : Nat) (a : RemAnswer)
  | keepAlive (peer : BitVec 10) (gen : BitVec 32) (id : Nat)
  | cancel (peer : BitVec 10) (gen : BitVec 32) (ctx : BitVec 6) (inst : BitVec 32)
  | phaser (peer : BitVec 10) (gen : BitVec 32) (ctx : BitVec 6) (num : BitVec 12) (c : PodCond)
  | place (peer : BitVec 10) (gen : BitVec 32) (ctx : BitVec 6) (grid team mem : Nat) (rec : List Word)
  | retired (peer : BitVec 10) (gen : BitVec 32) (grid team mem : Nat) (cause : Option (BitVec 8))
  | arrived (peer : BitVec 10) (gen : BitVec 32) (grid team mem : Nat)
  | passed (peer : BitVec 10) (gen : BitVec 32) (grid team mem : Nat)
  | notCurrent (peer : BitVec 10) (gen : BitVec 32)
  | hostMemory (addr : Nat) (a : HostAccess)
  | firmwareJoin (ctx : BitVec 6) (handle : Word) (cause : Option (BitVec 8))
deriving DecidableEq, Repr

/-- A logical die (R344): present, its physical number, CCOUNT (R14), corrected errors and last scrub (R332), idle-cycle
insertion by heat (R365), and the hub cycle since which its heartbeat is missed (R350). -/
structure Die where
  present : Bool
  phys : Nat
  ccount : Word
  corrected : Nat
  scrubbed : Word
  idle : Bool
  silent : Option Word
deriving DecidableEq, Repr

/-- A PREL that has been issued and has not taken effect (R200). -/
structure Prel where
  sp : Space
  unit : Nat
  line : Nat
deriving DecidableEq, Repr

/-- The reservation of a unit (R282, R386): the value in force and the value that waits for members to retire. -/
structure Resv where
  unit : HwUnit
  now : BitVec 16
  next : Option (BitVec 16)
deriving DecidableEq, Repr

/-- The anneal registers (R353 to R355): completed retirements, retired stacks, the retirement in progress, the sweep,
and the request's register value. -/
structure Anneal where
  count : BitVec 2
  ret1 : BitVec 3
  ret2 : BitVec 3
  act : Bool
  stk : BitVec 3
  total : BitVec 32
  next : BitVec 32
  req : Word
deriving DecidableEq, Repr

/-- Rates, limiter, temperatures and monitors (R361 to R365, R395). `rate`: stacks 0 to 7 and the module cellar;
`heat`: the rate point that heat imposes on a stack; `pending`: requested rate points not yet in effect. -/
structure Power where
  rate : Vector (BitVec 2) 9
  heat : Vector (BitVec 2) 8
  pending : List (Nat × BitVec 2 × Word)
  limited : Bool
  limiterEvents : Nat
  shutDown : Bool
  temps : List (Sensor × Nat)
  monitors : List (Nat × Word)
deriving DecidableEq, Repr

/-- An expander port (R389, R390): EXPCAP, the request that is bringing it up, and the hub cycle since which a request to it has
had no completion. -/
structure Expander where
  pres : Bool
  lost : Bool
  atc : BitVec 3
  units : BitVec 25
  up : Option Word
  waiting : Option Word
deriving DecidableEq, Repr

/-- The host register block (R379), without the registers that another field of `State` holds. -/
structure HostRegs where
  ready : Bool
  recovery : Bool
  pkgnum : BitVec 10
  ctxtab : Word
  ctxctl : Word
  lqctl : Word
  lqbase : Word
  frbase : Word
  frprod : BitVec 32
  frcons : BitVec 32
  evbase : Word
  evprod : BitVec 32
  evcons : BitVec 32
  inval : Word
  invalBusy : Bool
  svcctl : Word
  svcaddr : Word
  fltctl : Word
  fltPending : List Word
  req : Word
  fwbase : Word
  fwsize : Word
  fwdrop : Word
  fans : Word
deriving DecidableEq, Repr

/-- The security engine (R392, R393): recorded measurements, negotiated algorithms, and the words of its last answer. -/
structure Security where
  measures : List (Nat × List Byte)
  negotiated : Bool
  answer : List Word
deriving DecidableEq, Repr

/-- A flight image in a swap area (R134, R340): what the layout of R340 gives no bytes for is kept here beside the bytes, by
die and image address. `swapped`: the newel's image of a live flight that is swapped out, kept in `State.flights`, and `flight` is
what the image was written from; `freed`: the flight left its core for this image (R341). -/
structure ImageSide where
  die : Nat
  addr : Nat
  swapped : Option FlightId
  freed : Bool
  flight : Flight
deriving DecidableEq, Repr

/-- The state of the part. `fl` is the flight whose word is at issue and `flights` are the other live flights; `mem` is
every byte of every space, by the flat addresses of `Machine/Ops.lean`. From `agenda` on, the fields are the model's own:
steps still to come, the counter that free values are taken at, numbers for grids, commands and requests, the word at
issue, and whose turn it is. -/
structure State where
  fl : Flight
  flights : List Flight
  cores : List (Nat × Core)
  mem : List Host.Cell
  lines : List (Nat × LineState)
  poison : List Nat
  contexts : Vector Context 64
  dies : Vector Die 4
  standby : Option Nat
  hubcount : Word
  phasers : List (PhKey × Phaser)
  podPeers : List PodPeer
  bars : List (MemberRef × List Nat)
  barOwed : List MemberRef
  grids : List Grid
  resvs : List Resv
  cmds : List Cmd
  dues : List Due
  conts : List ContReg
  prels : List Prel
  faultWait : List (List Word)
  eventWait : List (List Word)
  anneal : Anneal
  journal : Nat × Nat
  power : Power
  expanders : Vector Expander 2
  host : HostRegs
  group : List (Nat × Word)
  staging : List (Nat × Word)
  podgen : BitVec 32
  committed : Bool
  outstanding : List Outstanding
  inbound : List Inbound
  outbox : List Message
  sec : Security
  images : List ImageSide
  lqTail : Option Word
  lqPos : BitVec 32
  tokens : List (BitVec 6 × BitVec 32)
  hostData : List (Option Byte)
  agenda : List Instr
  fresh : Nat
  uid : Nat
  iw : Word
  turn : Nat
  rotor : Nat
deriving DecidableEq, Repr

/-- Latches that are all stale (R8). -/
def Latches.stale : Latches := ⟨none, none, none, none⟩

/-- A lane that was never made live (R127): every register zero; log entry 1. -/
def Lane.blank : Lane :=
  { pc := 0, st := .exited, g := Vector.replicate 64 0, p := 1, v := Vector.replicate 32 0, lat := .stale, pos := 0,
    crossed := false, done := 0, remain := 0, repInt := false, repCont := false, repFin := false, parkRep := false, pend := none, part := none,
    shadow := .stale, shPend := none, shPart := none, shFix := none, shFaulty := [], shPos := 0, shCont := false, shFin := false, inS := false, fpstat := 0, istat := 0, temask := 0, tval := 0, faulty := [],
    fail := none, slotSkip := none }

/-- An unbound, empty queue register (R240). -/
def Queue.blank : Queue := { cls := 0, lvl := 0, nr := false, entries := [], foots := [], seq := 0 }

/-- No flight: what `fl` holds while no flight is at issue. -/
def Flight.blank : Flight :=
  { id := ⟨0, 0, 0⟩, live := false, slot := none, ctx := 0, level := 0, rootlvl := 0, teamidx := 0, teamcnt := 0,
    ginst := 0, depth := 0, resv := 0, lclass := 0, eclass := 0, passed := 0, mm := false, priv := false, hnd := false,
    dphase := 0, fpctl := 0, ictl := 0, tvec := 0, tcause := 0, tmask := 0, tpc := 0,
    tinsn := 0, trapRep := false, merr := 0, merrxy := 0,
    rflat := 0, mpasses := 0, lanes := Vector.replicate 32 Lane.blank, rejoin := Vector.replicate 8 ⟨0, 0⟩,
    queues := Vector.replicate 8 Queue.blank, launches := [], phregs := [], held := [], dropped := 0, stopped := false,
    preempt := none, stoppedBy := none, switched := false, run := none, halted := none, stall := none, service := false, pendTrap := none, member := none,
    awaitImage := none, ending := none, since := 0 }

/-- A core after its reset: every slot ABSENT (R18); last-winner slot 0 (log entry 1). -/
def Core.blank : Core :=
  { slots := Vector.replicate 32 .absent, src := Vector.replicate 32 none, fetches := [],
    last := Vector.replicate 4 false, grid := Vector.replicate 4 [] }

/-- A line after the reset of its die: FREE, P = 1, C = 1 (R196). -/
def LineState.free : LineState := { owner := none, p := true, c := true }

/-- A context that is not live (R391). -/
def Context.blank : Context :=
  { live := false, desc := Vector.replicate 8 0, tvec := 0, inst := 0, eqCount := 0, eqDrops := 0, eqHead := 0,
    cancels := [], bufCache := [], pteCache := [], scopeCache := [] }

/-- A free phaser, its state zeroed (R307). -/
def Phaser.blank : Phaser :=
  { phase := 0, owner := none, pod := false, nsig := 0, arr := 0, arrn := 0, expm := 0, expb := 0, touch := false,
    regNext := 0, dropNext := 0 }

/-- An expander port before start-up enumerates it; log entry 1. -/
def Expander.blank : Expander := { pres := false, lost := false, atc := 0, units := 0, up := none, waiting := none }

/-- The part right after reset: before start-up has run (R391), no context, no flight, every on-chip line FREE and zero
(R196), every slot ABSENT (R18), CCOUNT zero (R14), the package alone in its group with GEN 0 (R366). What the spec gives
no value for is zero or absent, as log entries 1 and 2 say. -/
def State.reset : State :=
  { fl := .blank, flights := [], cores := [], mem := [], lines := [], poison := [],
    contexts := Vector.replicate 64 Context.blank,
    dies := Vector.replicate 4 ⟨false, 0, 0, 0, 0, false, none⟩, standby := none, hubcount := 0,
    phasers := [], podPeers := [], bars := [], barOwed := [], grids := [], resvs := [], cmds := [], dues := [], conts := [], prels := [], faultWait := [], eventWait := [],
    anneal := ⟨0, 0, 0, false, 0, 0, 0, 0⟩, journal := (0, 1),
    power := { rate := Vector.replicate 9 0, heat := Vector.replicate 8 0, pending := [], limited := false,
               limiterEvents := 0, shutDown := false, temps := [], monitors := [] },
    expanders := Vector.replicate 2 Expander.blank,
    host := { ready := false, recovery := false, pkgnum := 0, ctxtab := 0, ctxctl := 0, lqctl := 0, lqbase := 0,
              frbase := 0, frprod := 0, frcons := 0, evbase := 0, evprod := 0, evcons := 0, inval := 0, invalBusy := false, svcctl := 0,
              svcaddr := 0, fltctl := 0, fltPending := [], req := 0, fwbase := 0, fwsize := 0, fwdrop := 0, fans := 0 },
    group := [(0, 0x8000000000000000#64)], staging := [], podgen := 0, committed := false, outstanding := [], inbound := [], outbox := [],
    sec := ⟨[], false, []⟩, images := [], lqTail := none, lqPos := 0, tokens := [], hostData := [],
    agenda := [], fresh := 0, uid := 0, iw := 0, turn := 0, rotor := 0 }

end Sys2Proof.Machine
end

