-- ==== Sys2Proof/Machine/Ops.lean ====
section
/-! DEFINITION. The named operations over memory, registers, flights and reports, the end of a word, taking a trap and
returning from one. -/

namespace Sys2Proof

/-- The number of a flight's core in the package: die × 48 + core. -/
def FlightId.coreNo (f : FlightId) : Nat := f.die * 48 + f.core
/-- The number of a flight's cluster in the package: die × 6 + cluster. -/
def FlightId.clusterNo (f : FlightId) : Nat := f.die * 6 + f.core / 8

end Sys2Proof

namespace Sys2Proof.Machine

/-! Sparse memories: lists of key and value with rising keys and no entry equal to the default. -/

/-- The value at a key; `d` where nothing is listed. -/
def Sparse.get {β : Type} (d : β) : List (Nat × β) → Nat → β
  | [], _ => d
  | (a, b) :: t, k => if a = k then b else Sparse.get d t k

/-- The list with one entry put in its place. -/
def Sparse.insert {β : Type} (k : Nat) (v : β) : List (Nat × β) → List (Nat × β)
  | [] => [(k, v)]
  | (a, b) :: t => if a < k then (a, b) :: Sparse.insert k v t else if a = k then (k, v) :: t else (k, v) :: (a, b) :: t

/-- The list without a key. -/
def Sparse.erase {β : Type} (k : Nat) : List (Nat × β) → List (Nat × β)
  | [] => []
  | (a, b) :: t => if a = k then Sparse.erase k t else (a, b) :: Sparse.erase k t

/-- The list after a write; writing the default removes the entry. -/
def Sparse.put {β : Type} [DecidableEq β] (d : β) (k : Nat) (v : β) (m : List (Nat × β)) : List (Nat × β) :=
  if v = d then Sparse.erase k m else Sparse.insert k v m

/-- Keys rise strictly from `lo` and no entry is the default. -/
def Sparse.wfFrom {β : Type} [DecidableEq β] (d : β) : Nat → List (Nat × β) → Bool
  | _, [] => true
  | lo, (a, b) :: t => decide (lo ≤ a) && decide (b ≠ d) && Sparse.wfFrom d (a + 1) t

/-- The canonical form. -/
def Sparse.wf {β : Type} [DecidableEq β] (d : β) (m : List (Nat × β)) : Bool := Sparse.wfFrom d 0 m

/-- The value of a key in an association list; `d` where nothing is listed. -/
def assocGet {α β : Type} [DecidableEq α] (d : β) (m : List (α × β)) (k : α) : β := (m.lookup k).getD d

/-- The association list with one key's value replaced. -/
def assocPut {α β : Type} [DecidableEq α] (k : α) (v : β) (m : List (α × β)) : List (α × β) :=
  (k, v) :: m.filter (fun e => decide (e.1 ≠ k))

/-! Memory: one byte list with a flat address for every byte of every space (R193). -/

/-- What a byte that nothing has written reads as: zero (R196; log entry 2 for main memory and the cellar). -/
def unwritten : Byte := 0

/-- The canonical form of the memory. -/
def Memory.wf (m : List Host.Cell) : Bool := Sparse.wf unwritten m

/-- Flat address of byte `a` of the hall of core `c` (die × 48 + core). -/
def hallKey (c a : Nat) : Nat := 0x1000000000000000 + c * 0x80000 + a
/-- Flat address of byte `a` of the gallery of cluster `c` (die × 6 + cluster). -/
def galleryKey (c a : Nat) : Nat := 0x2000000000000000 + c * 0x800000 + a
/-- Flat address of byte `a` of the mezzanine of die `d`. -/
def mezzKey (d a : Nat) : Nat := 0x3000000000000000 + d * 0x10000000 + a
/-- Flat address of byte `a` of the instruction store of core `c` (R17). -/
def storeKey (c a : Nat) : Nat := 0x4000000000000000 + c * 0x20000 + a
/-- Flat address of byte `a` of main memory: byte 64h + b is byte b of package line h (R378). -/
def mainKey (a : Nat) : Nat := a
/-- Flat address of byte `a` of cellar device `d` (R206). -/
def cellarKey (d a : Nat) : Nat := 0x5000000000000000 + d * 0x10000000000 * 0x1000 + a

/-- The line that holds a flat address (R195). -/
def lineOf (key : Nat) : Nat := key / 64

/-- One byte of memory. -/
def readByte (s : State) (key : Nat) : Byte := Sparse.get unwritten s.mem key

/-- `n` bytes from a flat address. -/
def readBytes (s : State) (key : Nat) : Nat → List Byte
  | 0 => []
  | n + 1 => readByte s key :: readBytes s (key + 1) n

/-- The memory after the bytes are written from a flat address up. -/
def putBytes (m : List Host.Cell) (key : Nat) : List Byte → List Host.Cell
  | [] => m
  | b :: bs => putBytes (Sparse.put unwritten key b m) (key + 1) bs

/-- The state after the bytes are written from a flat address up. -/
def writeBytes (s : State) (key : Nat) (bs : List Byte) : State := { s with mem := putBytes s.mem key bs }

/-- The unsigned value of bytes, the first the least significant (R2). -/
def bytesToNat : List Byte → Nat
  | [] => 0
  | b :: bs => b.toNat + 256 * bytesToNat bs

/-- The `n` low bytes of a value, the least significant first (R2). -/
def natToBytes : Nat → Nat → List Byte
  | 0, _ => []
  | n + 1, x => BitVec.ofNat 8 x :: natToBytes n (x / 256)

/-- A 64-bit word from a flat address. -/
def readWord (s : State) (key : Nat) : Word := BitVec.ofNat 64 (bytesToNat (readBytes s key 8))

/-- A 64-bit word written to a flat address. -/
def writeWord (s : State) (key : Nat) (w : Word) : State := writeBytes s key (natToBytes 8 w.toNat)

/-- Consecutive 64-bit words. -/
def readWords (s : State) (key : Nat) : Nat → List Word
  | 0 => []
  | n + 1 => readWord s key :: readWords s (key + 8) n

/-- Consecutive 64-bit words written. -/
def writeWords (s : State) (key : Nat) : List Word → State
  | [] => s
  | w :: ws => writeWords (writeWord s key w) (key + 8) ws

/-- The state of a line (R195, R197). -/
def lineSt (s : State) (line : Nat) : LineState := Sparse.get LineState.free s.lines line

/-- The state with a line's state replaced. -/
def setLine (s : State) (line : Nat) (l : LineState) : State :=
  { s with lines := Sparse.put LineState.free line l s.lines }

/-! Cores, dies, contexts. -/

/-- A core by its number. -/
def coreOf (s : State) (c : Nat) : Core := Sparse.get Core.blank s.cores c
/-- The state with a core replaced. -/
def setCore (s : State) (c : Nat) (k : Core) : State := { s with cores := Sparse.put Core.blank c k s.cores }
/-- A logical die. -/
def dieOf (s : State) (d : Nat) : Die := s.dies.get (Fin.ofNat 4 d)
/-- The state with a die replaced. -/
def setDie (s : State) (d : Nat) (x : Die) : State := { s with dies := s.dies.set (Fin.ofNat 4 d) x }
/-- CCOUNT of a die (R14). -/
def ccountOf (s : State) (d : Nat) : Word := (dieOf s d).ccount
/-- One local cycle of a die (R4, R14): CCOUNT of a compute die that is present, or the hub's own count where the number is 4. -/
def tick (s : State) (d : Nat) : State :=
  if 4 ≤ d then { s with hubcount := s.hubcount + 1 }
  else if (dieOf s d).present then setDie s d { dieOf s d with ccount := (dieOf s d).ccount + 1 }
  else s

/-- A context. -/
def ctxOf (s : State) (c : BitVec 6) : Context := s.contexts.get c.toFin
/-- The state with a context replaced. -/
def setCtx (s : State) (c : BitVec 6) (x : Context) : State := { s with contexts := s.contexts.set c.toFin x }

/-! Flights. -/

/-- A live flight by its identity. -/
def flightOf (s : State) (f : FlightId) : Option Flight :=
  if s.fl.live && s.fl.id = f then some s.fl else s.flights.find? (fun x => decide (x.id = f))

/-- The state with a live flight replaced. -/
def setFlight (s : State) (x : Flight) : State :=
  if s.fl.live && s.fl.id = x.id then { s with fl := x }
  else { s with flights := s.flights.map (fun y => if y.id = x.id then x else y) }

/-- The state with a flight updated where it is live. -/
def updFlight (s : State) (f : FlightId) (g : Flight → Flight) : State :=
  match flightOf s f with
  | some x => setFlight s (g x)
  | none => s

/-- Every live flight. -/
def allFlights (s : State) : List Flight := if s.fl.live then s.fl :: s.flights else s.flights

/-- The state with every live flight updated. -/
def mapFlights (s : State) (g : Flight → Flight) : State :=
  { s with fl := if s.fl.live then g s.fl else s.fl, flights := s.flights.map g }

/-- The state with another live flight put at issue. -/
def focus (s : State) (f : FlightId) : State :=
  if s.fl.live && s.fl.id = f then s
  else
    match s.flights.find? (fun x => decide (x.id = f)) with
    | none => s
    | some x =>
      let rest := s.flights.filter (fun y => decide (y.id ≠ f))
      { s with fl := x, flights := if s.fl.live then s.fl :: rest else rest }

/-- The state after a flight has left the machine. -/
def removeFlight (s : State) (f : FlightId) : State :=
  if s.fl.live && s.fl.id = f then
    match s.flights with
    | [] => { s with fl := Flight.blank }
    | x :: rest => { s with fl := x, flights := rest }
  else { s with flights := s.flights.filter (fun y => decide (y.id ≠ f)) }

/-- The state with a new live flight. -/
def addFlight (s : State) (x : Flight) : State :=
  if s.fl.live then { s with flights := s.flights ++ [x] } else { s with fl := x }

/-- A lane of a flight. -/
def Flight.lane (f : Flight) (k : LaneId) : Lane := f.lanes.get k

/-- The flight with every lane updated. -/
def Flight.mapLanes (f : Flight) (g : LaneId → Lane → Lane) : Flight :=
  { f with lanes := tab fun k => g k (f.lane k) }

/-- The flight with one lane updated. -/
def Flight.setLane (f : Flight) (k : LaneId) (l : Lane) : Flight := { f with lanes := f.lanes.set k l }

/-- A lane is EXITED (R127). -/
def Lane.exited (l : Lane) : Bool := decide (l.st = .exited)
/-- A lane is READY (R127). -/
def Lane.ready (l : Lane) : Bool := decide (l.st = .ready)

/-- The lanes of a flight that are not EXITED. -/
def Flight.alive (f : Flight) : LaneSet := laneSetOf fun k => !(f.lane k).exited

/-- Every lane of a flight that is not EXITED is PARKED. -/
def allParked (f : Flight) : Bool :=
  allLanes.all fun k => match (f.lane k).st with | .ready => false | _ => true

/-- A flight after lanes of `f` have come out of their parks: it is eligible for a slot from the cycle at which the first of its
lanes became READY (R136). -/
def Flight.woke (f g : Flight) (now : Nat) : Flight := if allParked f && !allParked g then { g with since := now } else g

/-- A flight after lanes have exited: its lanes have all been parked from this cycle on where the last READY one is gone (R135). -/
def Flight.settled (f : Flight) (now : Nat) : Flight := if allParked f then { f with since := now } else f

/-- The state after lanes of a live flight `f` have come out of their parks. -/
def wake (s : State) (f g : Flight) : State := setFlight s (f.woke g (ccountOf s f.id.die).toNat)

/-- The state with the flight at issue updated. -/
def State.updFl (s : State) (g : Flight → Flight) : State := { s with fl := g s.fl }

/-! Causes (R322). -/

/-- The code of a cause. -/
def Cause.code : Cause → BitVec 8
  | .illegal => 0x01 | .illegalPair => 0x02 | .latchStale => 0x03 | .codeAbsent => 0x04 | .priv => 0x05
  | .align => 0x06 | .softwareTrap => 0x07 | .formatDivergence => 0x10 | .modeViolation => 0x11
  | .fpInvalid => 0x20 | .fpDivzero => 0x21 | .fpOverflow => 0x22 | .fpUnderflow => 0x23 | .fpInexact => 0x24
  | .intDivzero => 0x25 | .intOverflow => 0x26 | .space => 0x30 | .bounds => 0x31 | .rights => 0x32 | .owner => 0x33
  | .pageFault => 0x34 | .atomicPath => 0x35 | .memPoison => 0x36 | .memPathLost => 0x37 | .rfUncorrectable => 0x38
  | .peerUnreachable => 0x40 | .remoteLoadFail => 0x41 | .queueBind => 0x50 | .launchDepth => 0x51
  | .futureOverresolve => 0x52 | .cancelled => 0x53 | .dieLost => 0x54 | .contextEnded => 0x55

/-- The cause of a code that R322 assigns. -/
def Cause.ofCode (c : BitVec 8) : Option Cause :=
  [Cause.illegal, Cause.illegalPair, Cause.latchStale, Cause.codeAbsent, Cause.priv, Cause.align, Cause.softwareTrap,
   Cause.formatDivergence, Cause.modeViolation, Cause.fpInvalid, Cause.fpDivzero, Cause.fpOverflow, Cause.fpUnderflow,
   Cause.fpInexact, Cause.intDivzero, Cause.intOverflow, Cause.space, Cause.bounds, Cause.rights, Cause.owner,
   Cause.pageFault, Cause.atomicPath, Cause.memPoison, Cause.memPathLost, Cause.rfUncorrectable, Cause.peerUnreachable,
   Cause.remoteLoadFail, Cause.queueBind, Cause.launchDepth, Cause.futureOverresolve, Cause.cancelled, Cause.dieLost,
   Cause.contextEnded].find? (fun x => x.code == c)

/-- The bit of TVEC.DEL and of HOSTSVC that names a cause (R322). -/
def Cause.delegable : Cause → Option Nat
  | .fpInvalid => some 0 | .fpDivzero => some 1 | .fpOverflow => some 2 | .fpUnderflow => some 3
  | .fpInexact => some 4 | .intDivzero => some 5 | .intOverflow => some 6 | .softwareTrap => some 7
  | .align => some 8 | .bounds => some 9 | .pageFault => some 10 | .memPoison => some 11
  | .remoteLoadFail => some 12 | .peerUnreachable => some 13 | .futureOverresolve => some 14
  | .rfUncorrectable => some 15 | _ => none

/-! Pages (R204, R206) and the dirty filters of migrations (R359). -/

/-- Fields of a page-table entry (R204). -/
def pteV (e : Word) : Bool := e.getLsbD 63
def pteLf (e : Word) : Bool := e.getLsbD 62
def pteTr (e : Word) : Bool := e.getLsbD 61
def pteCl (e : Word) : Nat := (e.extractLsb' 59 2).toNat
def pteUa (e : Word) : Bool := e.getLsbD 58
def pteKnd (e : Word) : Bool := e.getLsbD 57
def pteAddr (e : Word) : Nat := (e.extractLsb' 0 48).toNat
def pteFrame (e : Word) : Nat := (e.extractLsb' 16 32).toNat

/-- Frames of a leaf at a level (R204). -/
def leafFrames (lvl : Nat) : Nat := if lvl = 2 then 16384 else if lvl = 3 then 32 else 1

/-- Bytes of a page of a leaf level (R204). -/
def leafBytes (lvl : Nat) : Nat := 65536 * leafFrames lvl

/-- The run of consecutive lines of a frame that lie on one stack (R206). -/
def ilUnit (il : BitVec 3) : Nat := if il = 0 then 4 else if il = 1 then 64 else 1024

/-- PlaceLine (R206). -/
def placeLine (frame o : Nat) (il : BitVec 3) : Nat :=
  let y := 1024 * frame + o / 64
  let g := y / 8192
  let t := y % 8192
  let u := ilUnit il
  let q := t / u % 8
  let i := t / (8 * u) * u + t % u
  8192 * g + 8 * i + q

/-- The line y of PlaceLine that lies in a package line. -/
def frameLine (h : Nat) (il : BitVec 3) : Nat :=
  let u := ilUnit il
  let q := h % 8
  let i := h % 8192 / 8
  8192 * (h / 8192) + i / u * (8 * u) + q * u + i % u

/-- The flat address of a byte of the page of a leaf (R206). -/
def pageKey (leaf : Word) (il : BitVec 3) (off : Nat) : Nat :=
  let frame := pteFrame leaf
  if pteTr leaf then cellarKey (pteCl leaf) (65536 * frame + off)
  else mainKey (64 * placeLine (frame + off / 65536) (off % 65536) il + off % 64)

/-- The offset of a flat address in the page that a migration moves, if it lies there. -/
def Migration.offset (m : Migration) (key : Nat) : Option Nat :=
  let first := 65536 * pteFrame m.old
  let at_ := if pteTr m.old then key - cellarKey (pteCl m.old) 0 else 64 * frameLine (lineOf key) m.il + key % 64
  let inTier := if pteTr m.old then decide (cellarKey (pteCl m.old) 0 ≤ key) else decide (key < hallKey 0 0)
  if inTier && decide (first ≤ at_) && decide (at_ < first + m.size) then some (at_ - first) else none

/-- A write to a byte of a migrating page sets its block's bit in the dirty filter (R359). -/
def markDirty (s : State) (key : Nat) : State :=
  { s with cmds := s.cmds.map fun c =>
      match c.migr with
      | none => c
      | some m =>
        match m.offset key with
        | none => c
        | some off =>
          let blk := off / (m.size / 1024)
          { c with migr := some { m with dirty := if m.dirty.contains blk then m.dirty else blk :: m.dirty } } }

/-! Reports: event records (R388), error-queue records (R373), fault records (R209). -/

/-- A ring's log2 from its four-bit field (R379, R380); 0 stands for 16 (log entry 13). -/
def ringLog (x : BitVec 4) : Nat := if x = 0 then 16 else x.toNat

/-- Number of slots of a ring whose base register holds its log2 (R379); none before the ring is set up. -/
def ringSize (base : Word) : Nat := if base = 0 then 0 else 2 ^ ringLog (base.extractLsb' 56 4)
/-- Address of a ring (R379). -/
def ringAddr (base : Word) : Nat := (base.extractLsb' 0 48).toNat

/-- Main-memory bytes written by a newel or the hub; a whole line clears its poison (R215). -/
def hubWrite (s : State) (addr : Nat) (ws : List Word) : State :=
  let s1 := markDirty (writeWords s (mainKey addr) ws) (mainKey addr)
  if ws.length = 8 ∧ addr % 64 = 0 then { s1 with poison := s1.poison.filter (fun l => decide (l ≠ lineOf (mainKey addr))) }
  else s1

/-- One event record into the event ring (R379, R388): a record that finds the ring full, or others waiting, waits. -/
def pushEvent (s : State) (rec : List Word) : State :=
  if s.eventWait = [] ∧ (s.host.evprod - s.host.evcons).toNat < ringSize s.host.evbase then
    let at_ := ringAddr s.host.evbase + 64 * (s.host.evprod.toNat % ringSize s.host.evbase)
    { hubWrite s at_ rec with host := { s.host with evprod := s.host.evprod + 1 } }
  else { s with eventWait := s.eventWait ++ [rec] }

/-- An event record (R388): kind, code, context, flight, detail words, and the CCOUNT of the recording die. -/
def eventRecord (kind : Nat) (code : BitVec 8) (ctx : BitVec 6) (f : FlightId) (d1 d2 time : Word) : List Word :=
  [.cast (by rfl) (BitVec.ofNat 8 kind ++ code ++ ctx ++ BitVec.ofNat 3 f.die ++ BitVec.ofNat 6 f.core ++
     BitVec.ofNat 6 f.fnum ++ 0#27), d1, d2, 0, time, 0, 0, 0]

/-- No flight. -/
def noFlight : FlightId := ⟨0, 0, 0⟩

/-- An event that concerns no flight; the hub records it with its own cycle count (R388). -/
def hubEvent (s : State) (kind : Nat) (code : BitVec 8) (ctx : BitVec 6) (d1 d2 : Word) : State :=
  pushEvent s (eventRecord kind code ctx noFlight d1 d2 s.hubcount)

/-- Event record kinds (R388). -/
def evService : Nat := 1
def evContextEnded : Nat := 2
def evDieLost : Nat := 3
def evPeerLost : Nat := 4
def evExpanderLost : Nat := 5
def evRequestDone : Nat := 6
def evStorage : Nat := 7
def evThermal : Nat := 8
def evSlotRejected : Nat := 9
def evCommitRefused : Nat := 10

/-- A word of the context's cached descriptor (R380). -/
def Context.word (c : Context) (i : Fin 8) : Word := c.desc.get i
/-- Error-queue address (R380). -/
def Context.eqBase (c : Context) : Nat := ((c.word 4).extractLsb' 0 48).toNat
/-- Error-queue size in records (R380). -/
def Context.eqSize (c : Context) : Nat := 2 ^ ringLog ((c.word 4).extractLsb' 56 4)
/-- HOSTSVC (R380). -/
def Context.hostSvc (c : Context) : BitVec 16 := (c.word 5).extractLsb' 0 16

/-- Who a report of the error queue is about (R373). -/
structure ErrAgent where
  src : Nat
  flight : FlightId
  lane : Nat
  peer : BitVec 10
  tag : Word

/-- A report into a context's error queue (R373 to R375): nothing for a context that is not live (R381), DROPS when the
queue is full. -/
def errReport (s : State) (ctx : BitVec 6) (cause : BitVec 8) (a : ErrAgent) (handle value : Word) : State :=
  let c := ctxOf s ctx
  if !c.live then s
  else if c.eqSize ≤ c.eqCount.toNat then
    setCtx s ctx { c with eqDrops := if c.eqDrops = 0xFFFF#16 then c.eqDrops else c.eqDrops + 1 }
  else
    let w0 : Word := .cast (by rfl) (1#1 ++ 0#7 ++ cause ++ 0#4 ++ BitVec.ofNat 4 a.src ++ 0#1 ++
      BitVec.ofNat 3 a.flight.die ++ BitVec.ofNat 6 a.flight.core ++ BitVec.ofNat 6 a.flight.fnum ++ 0#1 ++
      BitVec.ofNat 7 a.lane ++ 0#6 ++ a.peer)
    let at_ := c.eqBase + 64 * ((c.eqHead.toNat + c.eqCount.toNat) % c.eqSize)
    let s1 := hubWrite s at_ [w0, handle, value, a.tag, ccountOf s a.flight.die, 0, 0, 0]
    setCtx s1 ctx { c with eqCount := c.eqCount + 1 }

/-- A fault record waits for the ring (R209); `faultRecordWrite` writes it. -/
def pushFault (s : State) (rec : List Word) : State := { s with faultWait := s.faultWait ++ [rec] }

/-- A fault record (R209). -/
def faultRecord (s : State) (ctx : BitVec 6) (f : FlightId) (eng : Bool) (lane : Nat) (sp acc kind : Nat) (handle : Word)
    (va : BitVec 48) (tag : Word) : List Word :=
  [.cast (by rfl) (0#16 ++ va), handle,
   .cast (by rfl) (ctx ++ BitVec.ofNat 3 f.die ++ BitVec.ofNat 6 f.core ++
     BitVec.ofNat 6 (if eng then 0 else f.fnum) ++ BitVec.ofNat 7 (if eng then 0 else lane) ++ BitVec.ofNat 3 sp ++
     BitVec.ofNat 3 acc ++ 0#22 ++ BitVec.ofNat 8 kind),
   ccountOf s f.die, tag, 0, 0, 0]

/-! Registers of a lane (R7). -/

/-- A general register; g0 reads zero (R7). -/
def Lane.getG (l : Lane) (i : BitVec 6) : Word := if i = 0 then 0 else l.g.get i.toFin
/-- A predicate; p0 reads true (R7). -/
def Lane.getP (l : Lane) (i : BitVec 3) : Bool := decide (i = 0) || l.p.getLsbD i.toNat
/-- A vector register (R7). -/
def Lane.getV (l : Lane) (i : BitVec 5) : VWord := l.v.get i.toFin

/-- The granules without those of a register that has been written whole (R335). -/
def Lane.mend (l : Lane) (sel : BitVec 8) : Lane :=
  { l with faulty := l.faulty.filter (fun x => decide (x.sel ≠ sel)) }

/-- A write of a general register; g0 discards it (R7). -/
def Lane.setG (l : Lane) (i : BitVec 6) (x : Word) : Lane :=
  if i = 0 then l else { l.mend (Src.g i).bits with g := l.g.set i.toFin x }
/-- A write of a predicate; p0 discards it (R7). -/
def Lane.setP (l : Lane) (i : BitVec 3) (b : Bool) : Lane :=
  if i = 0 then l
  else { l with p := if b then l.p ||| (1#8 <<< i.toNat) else l.p &&& ~~~(1#8 <<< i.toNat) }
/-- A write of a whole vector register. -/
def Lane.setV (l : Lane) (i : BitVec 5) (x : VWord) : Lane :=
  { l.mend (Src.v i).bits with v := l.v.set i.toFin x }
/-- The sub-elements of `w` bits that a granule overlaps are all among `on` (R335). -/
def granCovered (w : Nat) (on : Nat → Bool) (g : Nat) : Bool :=
  if 64 ≤ w then on (64 * g / w) else (List.range (64 / w)).all fun j => on (64 * g / w + j)
/-- A write of the sub-elements `on`, of `w` bits, of a vector register: it clears the faulting granules that it covers whole,
and no others (R335). -/
def Lane.setVPart (l : Lane) (i : BitVec 5) (w : Nat) (on : Nat → Bool) (x : VWord) : Lane :=
  { l with v := l.v.set i.toFin x,
           faulty := l.faulty.filter fun y => decide (y.sel ≠ (Src.v i).bits) || !granCovered w on y.gran.toNat }

/-- REPCNT as MFS reads it (R29): zero except while a repetition of the lane is interrupted. -/
def Lane.repcnt (l : Lane) : Word := if l.repInt then .cast (by rfl) (0#49 ++ l.done ++ 0#1 ++ l.remain) else 0

/-- The latch entries after a word whose latch value is `x` (R22). -/
def Latches.shift (t : Latches) (x : Option LatchVal) : Latches := ⟨x, t.l0, t.l1, t.l2⟩

/-- The source-selector pattern of latch entry k (R45). -/
def latchSel (k : Nat) : BitVec 8 := BitVec.ofNat 8 (0x78 + k)

/-- Faulting granules move with the latch entries that hold them (R22, R335). -/
def shiftGran (x : Gran) : Option Gran :=
  if x.sel = latchSel 0 then some { x with sel := latchSel 1 }
  else if x.sel = latchSel 1 then some { x with sel := latchSel 2 }
  else if x.sel = latchSel 2 then some { x with sel := latchSel 3 }
  else if x.sel = latchSel 3 then none else some x

/-- A granule of a latch entry. -/
def Gran.isLatch (x : Gran) : Bool := decide (0x78 ≤ x.sel.toNat) && decide (x.sel.toNat ≤ 0x7B)

/-- The lane after a word has shifted its latches (R22). -/
def Lane.shiftLat (l : Lane) (x : Option LatchVal) : Lane :=
  { l with lat := l.lat.shift x, faulty := l.faulty.filterMap shiftGran }

/-- The lane with every latch entry stale (R22). -/
def Lane.staleLat (l : Lane) : Lane :=
  { l with lat := .stale, faulty := l.faulty.filter (fun x => !x.isLatch) }

/-! The outcome of a word in a lane, and the end of a word (R22, R25, R29, R31, R129). -/

/-- What a word does in one lane: nothing (R9), its effect with its latch value and the next pc where it is not pc + 8,
a trap with its partial effect and partial latch value, or parking. -/
inductive LaneOut where
  | idle
  | done (l : Lane) (x : Option LatchVal) (npc : Option Pc)
  | trap (l : Lane) (x : Option LatchVal) (t : LTrap)
  | park (l : Lane) (c : Park)

/-- The issuing set (R128). -/
def issuing (s : State) : LaneSet :=
  match s.fl.run with
  | some r => r.set
  | none => 0

/-- The repetition in progress (R27). -/
def repeating (s : State) : Option RepRun :=
  match s.fl.run with
  | some r => r.rep
  | none => none

/-- Whether the word's predicate holds in a lane (R9). -/
def Lane.executes (l : Lane) (h : Hdr) : Bool := l.getP h.pg != h.pn

/-- Whether a lane takes the repeat now issued (R29). -/
def Lane.inRepeat (l : Lane) (r : RepRun) : Bool :=
  decide (l.done.toNat ≤ r.i) && decide (r.i < l.done.toNat + l.remain.toNat)

/-- Whether the repetition in progress, if any, has a lane take the word (R29). -/
def repTakes (s : State) (k : LaneId) : Bool :=
  match repeating s with
  | none => true
  | some r => r.lanes.has k && (s.fl.lane k).inRepeat r

/-- Whether a lane is in Active (R32, R130). -/
def isActive (s : State) (h : Hdr) (k : LaneId) : Bool :=
  (issuing s).has k && repTakes s k && (s.fl.lane k).executes h

/-- Active (R32, R130). -/
def active (s : State) (h : Hdr) : LaneSet := laneSetOf fun k => isActive s h k

/-- A trap of step 4 or 5 with TEMASK bit 0 (R31, R323). -/
def lt5 (cause : Cause) (tval : Word) : LTrap := ⟨5, 0, cause, tval, 1⟩
/-- As `lt5`, at step 4. -/
def lt4 (cause : Cause) (tval : Word) : LTrap := ⟨4, 0, cause, tval, 1⟩

/-- The predicate byte of a lane has an uncorrectable error, found by a word whose PG reads it (R335). -/
def pgFault (l : Lane) (h : Hdr) : Option LTrap :=
  if h.pg ≠ 0 ∧ l.faulty.any (fun x => decide (x.sel = 0x60#8)) then
    some ⟨4, 0, .rfUncorrectable, .cast (by rfl) (0#56 ++ (Src.p h.pg).bits), 1⟩
  else none

/-- The outcome of a word in lane k (R9, R30): a lane whose park failed completes its instruction by trapping. -/
def laneOut (s : State) (h : Hdr) (f : LaneId → Lane → LaneOut) (k : LaneId) : LaneOut :=
  let l := s.fl.lane k
  if isActive s h k then
    match l.fail with
    | some (t, _) => .trap { l with fail := none } l.part t
    | none =>
      match pgFault l h with
      | some t => .trap l none t
      | none => f k l
  else .idle

/-- The outcomes of a word. -/
def laneOuts (s : State) (h : Hdr) (f : LaneId → Lane → LaneOut) : Vector LaneOut 32 := tab (laneOut s h f)

/-- The lanes that parked. -/
def parkedOf (o : Vector LaneOut 32) : LaneSet :=
  laneSetOf fun k => match o.get k with | .park _ _ => true | _ => false
/-- The lanes that completed. -/
def doneOf (o : Vector LaneOut 32) : LaneSet :=
  laneSetOf fun k => match o.get k with | .done _ _ _ => true | _ => false
/-- The lanes that exited. -/
def exitedOf (o : Vector LaneOut 32) : LaneSet :=
  laneSetOf fun k => match o.get k with | .done l _ _ => l.exited | _ => false
/-- The traps, in ascending lane order. -/
def trapsOf (o : Vector LaneOut 32) : List (LaneId × LTrap) :=
  allLanes.filterMap fun k => match o.get k with | .trap _ _ t => some (k, t) | _ => none

/-- The words of the run so far. Where the lanes of the issuing set carry different counts (after RTE), the run has the greatest:
DESIGN CHOICE, the spec names no count for it (log entry 25). Unsafe. -/
def runPos (f : Flight) (set : LaneSet) : Nat :=
  allLanes.foldl (fun n k => if set.has k then max n (f.lane k).pos else n) 0

/-- The lane at its next word: `npc`, or the word after its own; passing the last word of a slot is marked (R19, R79). -/
def Lane.goTo (l : Lane) (npc : Option Pc) : Lane :=
  match npc with
  | some p => { l with pc := p, crossed := false }
  | none => { l with pc := l.pc + 8, crossed := decide ((l.pc + 8).toNat % 4096 = 0) }

/-- The lane after a word that completed in it: its registers `l`, latch value, next pc, and the run's count. `last`: the
word ended the run (R20, R22). -/
def endWord (l : Lane) (x : Option LatchVal) (npc : Option Pc) (pos : Nat) (last : Bool) : Lane :=
  if last then { l.staleLat.goTo npc with pos := 0 } else { (l.shiftLat x).goTo npc with pos := pos + 1 }

/-- The lane after a word at which its run was cut: a new run whose L0 is the word's latch value (R25, R129). -/
def cutWord (l : Lane) (x : Option LatchVal) (npc : Option Pc) : Lane :=
  let l1 := l.staleLat.goTo npc
  { l1 with lat := { l1.lat with l0 := x }, pos := 0 }

/-- The lane parked at its word (R25). `rep`: at a repeat, so REPCNT shows its progress (R29). -/
def parkLane (l : Lane) (c : Park) (rep : Bool) : Lane :=
  { l.staleLat with st := .parked c, pos := 0, repCont := false, parkRep := rep, repInt := l.repInt || rep }

/-- The lane's repetition is over: REPCNT is zero (R29). -/
def Lane.endRep (l : Lane) : Lane :=
  { l with done := 0, remain := 0, repInt := false, repCont := false, repFin := false, pend := none }

/-- A parked lane whose instruction completes, with its latch value: READY at the next word, in a new run (R25). At a
repeat, the repeat is counted, and the lane resumes at the REP word while repeats are left (R29). -/
def Lane.complete (l : Lane) (x : Option LatchVal) : Lane :=
  let l0 := { l with st := .ready, parkRep := false }
  if !l.parkRep then cutWord l0 x none
  else
    let l1 := { l0 with done := l.done + 1, remain := l.remain - 1, pend := x }
    if l1.remain = 0 then (cutWord { l1 with pc := l.pc + 8 } l1.pend none).endRep
    else { l1.staleLat with pos := 0, repInt := true, repCont := false }

/-- A parked lane whose condition ended in a failure: READY at the parking instruction, which traps when the lane next
issues (R30). `x`: its partial latch value (R26). -/
def Lane.failPark (l : Lane) (x : Option LatchVal) (t : LTrap) (word : Word) : Lane :=
  { l.staleLat with st := .ready, pos := 0, repCont := false, fail := some (t, word), parkRep := false, part := x }

/-! Taking a trap (R323 to R328). -/

/-- The grid queue of a flight's engine (R184). -/
def gridOf (s : State) (f : Flight) : List GridOp :=
  match f.slot with
  | some k => (coreOf s f.id.coreNo).grid.get (Fin.ofNat 4 (k / 2))
  | none => []

/-- The grid operations of a flight that are queued or running (R189). -/
def gridOps (s : State) (f : Flight) : List GridOp := (gridOf s f).filter (fun o => decide (o.flight = f.id))

/-- The grid queues of a core without a flight's operations (R191). -/
def dropGridOps (s : State) (f : FlightId) : State :=
  let c := coreOf s f.coreNo
  setCore s f.coreNo { c with grid := tab fun e => (c.grid.get e).filter fun o => decide (o.flight ≠ f) }

/-- The trap that gives TCAUSE: the earliest step, then the definition's rank, then the lowest lane (R31). -/
def leadTrap : List (LaneId × LTrap) → Option LTrap
  | [] => none
  | (_, t) :: rest =>
    match leadTrap rest with
    | none => some t
    | some u => if u.step < t.step ∨ (u.step = t.step ∧ u.rank < t.rank) then some u else some t

/-- The fields of TVEC (R323). -/
def tvecEn (v : Word) : Bool := v.getLsbD 0
def tvecDel (v : Word) (bit : Nat) : Bool := v.getLsbD (32 + bit)
def tvecEntry (v : Word) : Pc := .cast (by rfl) (v.extractLsb' 3 14 ++ 0#3)

/-- Whether a trap goes to the context's handler (R324). `n` is the number of a SOFTWARE_TRAP. -/
def toHandler (f : Flight) (c : Cause) (n : Word) : Bool :=
  !f.hnd && !f.priv && tvecEn f.tvec &&
    (match c.delegable with | some b => tvecDel f.tvec b | none => false) &&
    (c != .softwareTrap || decide (n.toNat < 0x800))

/-- Whether HOSTSVC has the host handle a cause (R327, R328, R385). -/
def toHost (s : State) (f : Flight) (c : Cause) : Bool :=
  !f.priv && (match c.delegable with | some b => (ctxOf s f.ctx).hostSvc.getLsbD b | none => false)

/-- A lane's own trap in a list. -/
def trapAt (ts : List (LaneId × LTrap)) (k : LaneId) : Option LTrap := ts.lookup k

/-- The lane's trap registers after a trap (R323). -/
def Lane.describe (l : Lane) (t : Option LTrap) : Lane :=
  match t with
  | some t => { l with temask := t.temask, tval := t.tval }
  | none => { l with temask := 0, tval := 0 }

/-- The trap shadow of a lane of the trap set (R325 step 2). -/
def Lane.saveShadow (l : Lane) : Lane :=
  { l with shadow := l.lat, shPend := l.pend, shPart := l.part, shFix := none, shFaulty := l.faulty.filter Gran.isLatch,
           shPos := l.pos, shCont := l.repCont, shFin := l.repFin }

/-- A lane of the trap set at the first handler word (R325 step 4). -/
def Lane.enterHandler (l : Lane) (entry : Pc) : Lane :=
  { l.staleLat with st := .ready, pc := entry, crossed := false, pos := 0, pend := none, part := none, repCont := false,
                     repFin := false }

/-- A lane after trap entry, before the trap set goes anywhere (R323, R325 steps 1 and 2): its trap registers in the issuing
set, and its shadow in the trap set of a first trap. -/
def Lane.shown (l : Lane) (issue set hnd : Bool) (t : Option LTrap) : Lane :=
  let l1 := if issue then l.describe t else l
  if hnd then l1 else if set then { l1.saveShadow with inS := true } else { l1 with inS := false }

/-- The flight after trap entry, before the trap set goes anywhere (R323, R325 steps 1 to 3). A trap taken while HND = 1
keeps the first shadow (R327). -/
def Flight.trapped (f : Flight) (t : TrapInfo) (lead : LTrap) : Flight :=
  { f.mapLanes (fun k l => l.shown (t.issue.has k) (t.set.has k) f.hnd (trapAt t.traps k)) with
    tcause := .cast (by rfl) (BitVec.ofBool f.hnd ++ BitVec.ofBool t.slot ++ lead.cause.code),
    tmask := laneSetOf fun k => (trapAt t.traps k).isSome,
    tpc := allLanes.foldr (fun k p => if t.set.has k then (f.lane k).pc else p) 0,
    tinsn := t.word, trapRep := t.rep, hnd := true, run := none, pendTrap := none }

/-- The trap set at the handler's first word (R325 step 4). -/
def Flight.toEntry (f : Flight) (set : LaneSet) (entry : Pc) : Flight :=
  f.mapLanes fun k l => if set.has k then l.enterHandler entry else l

/-- The trap set held for service, from a cycle on (R325, R328). -/
def Flight.toService (f : Flight) (set : LaneSet) (now : Nat) : Flight :=
  { f.mapLanes (fun k l => if set.has k then { l with st := .parked .service } else l) with service := true, since := now }

/-- Trap entry (R325), once the flight's grid has drained: the trap registers and the shadow are written, HND becomes 1,
and the trap set goes to the handler or is held for service. -/
def enterTrap (s : State) (t : TrapInfo) : State :=
  match leadTrap t.traps with
  | none => s
  | some lead =>
    let f1 := s.fl.trapped t lead
    if toHandler s.fl lead.cause lead.tval then { s with fl := f1.toEntry t.set (tvecEntry s.fl.tvec) }
    else
      let s1 := { s with fl := f1.toService t.set (ccountOf s s.fl.id.die).toNat }
      if toHost s s.fl lead.cause then
        pushEvent s1 (eventRecord evService lead.cause.code f1.ctx f1.id (f1.tcause.setWidth 64) (f1.tpc.setWidth 64)
          (ccountOf s f1.id.die))
      else s1

/-- Taking a trap (R325): the run ends; with grid operations of the flight outstanding the entry waits for them
(R191). -/
def takeTrap (s : State) (t : TrapInfo) : State :=
  if gridOps s s.fl = [] then enterTrap { s with fl := { s.fl with run := none } } t
  else { s with fl := { s.fl with run := none, pendTrap := some t } }

/-! The end of a word in every lane (R22, R25, R31, R129), outside and inside a repetition (R27, R29). -/

/-- The flight after a word that completed in every lane of the issuing set that it executed in. -/
def wordDone (f : Flight) (set : LaneSet) (e : Bool) (o : Vector LaneOut 32) : Flight :=
  let pos := runPos f set
  let last := e || decide (pos + 1 ≥ 24)
  let f1 := f.mapLanes fun k l =>
    if set.has k then
      match o.get k with
      | .done l1 x npc => endWord l1 x npc pos last
      | _ => endWord l none none pos last
    else l
  { f1 with run := if last then none else f.run }

/-- The flight after a word at which lanes parked (R129). -/
def wordCut (f : Flight) (set : LaneSet) (now : Nat) (o : Vector LaneOut 32) : Flight :=
  let f1 := f.mapLanes fun k l =>
    if set.has k then
      match o.get k with
      | .done l1 x npc => cutWord l1 x npc
      | .park l1 c => parkLane l1 c false
      | _ => cutWord l none none
    else l
  { f1 with run := none, since := now }

/-- The flight after a word that trapped in some lanes: the others have its full effect, and their latch values wait with
the trap, as the partial values of the lanes that trapped do (R26, R31). -/
def wordTrapped (f : Flight) (set : LaneSet) (o : Vector LaneOut 32) : Flight :=
  f.mapLanes fun k l =>
    if set.has k then
      match o.get k with
      | .done l1 x _ => { l1 with pend := x, part := none }
      | .park l1 c => parkLane l1 c false
      | .trap l1 x _ => { l1 with pend := none, part := x }
      | .idle => { l with pend := none, part := none }
    else l

/-- One repeat counted in a lane that it was issued to (R29). -/
def Lane.countRepeat (l : Lane) (x : Option LatchVal) : Lane :=
  { l with done := l.done + 1, remain := l.remain - 1, pend := x }

/-- A lane after the repeat now issued, before the repetition goes on or ends: the count, and the latch value of the last
repeat executed (R27, R88). -/
def afterRepeat (l : Lane) (takes : Bool) (o : LaneOut) : Lane :=
  match o with
  | .done l1 x _ => l1.countRepeat x
  | .trap l1 x _ => { l1 with part := x }
  | .park l1 _ => l1
  | .idle => if takes then l.countRepeat l.pend else l

/-- The lane leaves a repetition. One in which the REP word did not execute (`inn` false) keeps its REPCNT (R9, R29). -/
def Lane.quitRep (l : Lane) (inn : Bool) : Lane :=
  if inn then l.endRep else { l with repCont := false, repFin := false, pend := none }

/-- The lane after the last repeat, at the word after the target (R27). `last`: the target ended the run; `inn`: the REP word
executed in the lane. -/
def leaveRep (l : Lane) (inn : Bool) (pos : Nat) (last : Bool) : Lane :=
  (endWord { l with pc := l.pc + 8 } l.pend none pos last).quitRep inn

/-- A lane whose repetition a trap or a stop interrupts (R29); one in which the REP word did not execute keeps its REPCNT. -/
def holdRep (l : Lane) (inn : Bool) : Lane :=
  if !inn then { l with repCont := true }
  else if l.remain = 0 then { l with done := 0, repInt := false, repCont := true, repFin := true }
  else { l with repInt := true, repCont := true }

/-- The flight after one repeat of a repetition. -/
def repeatDone (f : Flight) (set : LaneSet) (rp : RepRun) (e : Bool) (takes : LaneId → Bool) (o : Vector LaneOut 32) :
    Flight :=
  let f1 := f.mapLanes fun k l => if set.has k then afterRepeat l (takes k) (o.get k) else l
  if rp.i + 1 < rp.last then { f1 with run := some { set := set, rep := some { rp with i := rp.i + 1 } } }
  else
    let pos := runPos f set
    let last := e || decide (pos + 1 ≥ 24)
    let f2 := f1.mapLanes fun k l => if set.has k then leaveRep l (rp.lanes.has k) pos last else l
    { f2 with run := if last then none else some { set := set, rep := none } }

/-- The flight after a repeat at which lanes parked: the repetition is cut at the repeat (R25, R29, R129). A lane in which
the REP word did not execute resumes at the REP word too while repeats are left. -/
def repeatCut (f : Flight) (set : LaneSet) (rp : RepRun) (now : Nat) (takes : LaneId → Bool) (o : Vector LaneOut 32) :
    Flight :=
  let f1 := f.mapLanes fun k l =>
    if set.has k then
      match o.get k with
      | .park l1 c => parkLane l1 c true
      | r =>
        let l1 := afterRepeat l (takes k) r
        let inn := rp.lanes.has k
        if (if inn then decide (l1.remain = 0) else decide (rp.i + 1 ≥ rp.last)) then
          (cutWord { l1 with pc := l.pc + 8 } l1.pend none).quitRep inn
        else { l1.staleLat with pos := 0, repInt := if inn then decide (l1.remain ≠ 0) else l1.repInt, repCont := false }
    else l
  { f1 with run := none, since := now }

/-- The flight after a repeat that trapped: every lane of the issuing set keeps its progress (R29). -/
def repeatTrapped (f : Flight) (set : LaneSet) (rp : RepRun) (takes : LaneId → Bool) (o : Vector LaneOut 32) : Flight :=
  f.mapLanes fun k l =>
    if set.has k then
      match o.get k with
      | .park l1 c => parkLane l1 c true
      | r => holdRep (afterRepeat l (takes k) r) (rp.lanes.has k)
    else l

/-- DPHASE after an instruction with .ADV that completed in at least one lane without a trap (R106). -/
def advance (f : Flight) (adv : Bool) (o : Vector LaneOut 32) : Flight :=
  if adv && doneOf o != 0 then { f with dphase := f.dphase + 1 } else f

/-- The end of a word (R22, R25, R29, R31, R106, R129), from its outcomes in the lanes: `e` is the word's E, `adv` its
ADV, `slot` the slot that a dual word reports. -/
def finish (s : State) (e adv slot : Bool) (o : Vector LaneOut 32) : State :=
  match s.fl.run with
  | none => s
  | some r =>
    let now := (ccountOf s s.fl.id.die).toNat
    let parked := parkedOf o
    let info : TrapInfo :=
      { issue := r.set, set := r.set &&& ~~~parked &&& ~~~exitedOf o, traps := trapsOf o, slot := slot, rep := r.rep.isSome, word := s.iw }
    match r.rep with
    | none =>
      if trapsOf o ≠ [] then takeTrap { s with fl := wordTrapped s.fl r.set o } info
      else if parked ≠ 0 then { s with fl := wordCut s.fl r.set now o }
      else { s with fl := wordDone (advance s.fl adv o) r.set e o }
    | some rp =>
      let takes := fun k => repTakes s k
      if trapsOf o ≠ [] then takeTrap { s with fl := repeatTrapped s.fl r.set rp takes o } info
      else if parked ≠ 0 then { s with fl := repeatCut s.fl r.set rp now takes o }
      else { s with fl := repeatDone (advance s.fl adv o) r.set rp e takes o }

/-- A trap of steps 1 to 3, which belongs to the word: every lane of the issuing set traps (R31, R54). -/
def wordTrap (s : State) (step : Nat) (cause : Cause) (tval : Word) (slot : Bool) : State :=
  let set := issuing s
  finish s false false slot (tab fun k =>
    if set.has k then .trap (s.fl.lane k) none ⟨step, 0, cause, tval, 1⟩ else .idle)

/-- Logging one error in RFLAT (R336). -/
def logRflat (r : Word) (k : LaneId) (x : Gran) : Word :=
  let count := r.extractLsb' 48 8
  if r.getLsbD 63 then
    .cast (by rfl) (3#2 ++ 0#6 ++ (if count = 0xFF#8 then count else count + 1) ++ r.extractLsb' 0 48)
  else .cast (by rfl) (2#2 ++ 0#6 ++ 1#8 ++ 0#8 ++ x.sel ++ 0#9 ++ BitVec.ofNat 7 k.val ++ 0#13 ++ x.gran)

/-- The granules of a lane that belong to a source (R335). -/
def Lane.granules (l : Lane) (src : Src) : List Gran :=
  match src with
  | .p i => l.faulty.filter (fun x => decide (i ≠ 0 ∧ x.sel = 0x60#8))
  | _ => l.faulty.filter (fun x => decide (x.sel = src.bits))

/-- RFLAT after a word (R335): the faulting granules of its operands `all`, in lanes of the issuing set, that it does not
read there. -/
def logUnreadBy (s : State) (all : List Src) (reads : LaneId → Lane → Src → BitVec 3 → Bool) : Word :=
  allLanes.foldl (fun r k =>
    let l := s.fl.lane k
    if (issuing s).has k && !l.faulty.isEmpty then
      ((all.flatMap l.granules).dedup.filter fun x =>
          !(all.any fun src => (l.granules src).contains x && reads k l src x.gran)).foldl
        (fun r x => logRflat r k x) r
    else r) s.fl.rflat

/-- As `logUnreadBy` for a full-form word, whose lanes outside Active read nothing. -/
def logUnread (s : State) (h : Hdr) (srcs : List Src) (reads : Lane → Src → BitVec 3 → Bool) : Word :=
  logUnreadBy s ((Src.p h.pg) :: srcs) fun k l src g => isActive s h k && reads l src g

/-- A word whose outcome each lane computes from its own state and the state at issue; `srcs` are the registers that it
names as operands and `reads` the granules that it reads of them (R335). -/
def perLaneReads (s : State) (h : Hdr) (srcs : List Src) (reads : Lane → Src → BitVec 3 → Bool)
    (f : LaneId → Lane → LaneOut) : State :=
  finish { s with fl := { s.fl with rflat := logUnread s h srcs reads } } h.e false false (laneOuts s h f)

/-- As `perLaneReads` for a word that reads its operands whole. -/
def perLane (s : State) (h : Hdr) (srcs : List Src) (f : LaneId → Lane → LaneOut) : State :=
  perLaneReads s h srcs (fun _ _ _ => true) f

/-! Returning from a trap (R331), also as service does it (R328). -/

/-- The lane regains its shadow (R331 step 1). -/
def Lane.restoreShadow (l : Lane) : Lane :=
  { l.staleLat with lat := l.shadow, pend := l.shPend, part := none, pos := l.shPos, repCont := l.shCont, repFin := l.shFin,
                    faulty := l.staleLat.faulty ++ l.shFaulty, shadow := .stale, shPend := none, shPart := none, shFix := none,
                    shFaulty := [], shPos := 0, shCont := false, shFin := false, inS := false }

/-- A lane of the trap set after RTE.RETRY (R331 step 3). -/
def Lane.retry (l : Lane) (tpc : Pc) : Lane :=
  { l.restoreShadow with st := .ready, pc := tpc, crossed := false }

/-- The latch value of a skipped word in a lane of the trap set (R26): what the lane completed with, or, where it trapped,
what TFIX wrote; stale without either. -/
def Lane.skipLatch (l : Lane) (trapped : Bool) : Option LatchVal := if trapped then l.shFix else l.shPend

/-- A lane of the trap set after RTE.SKIP of a full-form word that is no REP target (R26, R331 step 4). -/
def Lane.skipWord (l : Lane) (tpc : Pc) (e trapped : Bool) : Lane :=
  let l1 := l.restoreShadow
  { endWord { l1 with st := .ready } (l.skipLatch trapped) (some (tpc + 8)) l1.pos (e || decide (l1.pos + 1 ≥ 24)) with
    pend := none }

/-- A lane of the trap set after RTE.SKIP of a repeat (R29): in the lanes of TMASK the repeat counts as completed, and its latch
value is what TFIX wrote, or stale (R26, R27; log entry 25: the skipped repeat is the last that the lane executed so far). -/
def Lane.skipRepeat (l : Lane) (tpc : Pc) (trapped : Bool) : Lane :=
  let l1 := { l.restoreShadow with st := .ready, pc := tpc, crossed := false }
  if trapped && l1.remain != 0 then
    holdRep { l1 with done := l1.done + 1, remain := l1.remain - 1, pend := l.skipLatch true } true
  else l1

/-- The flight after its trap set has returned (R331). Lanes of the set that have exited stay so. -/
def returned (f : Flight) (skip : Bool) : Flight :=
  let dual := f.tinsn.getLsbD 62
  let e := f.tinsn.getLsbD 63
  let f1 := f.mapLanes fun k l =>
    if !l.inS then l
    else if l.exited then { l with inS := false }
    else if !skip then l.retry f.tpc
    else if f.trapRep then l.skipRepeat f.tpc (f.tmask.has k)
    else if dual then
      { l.retry f.tpc with slotSkip := if f.tmask.has k then some (f.tcause.getLsbD 8) else none }
    else l.skipWord f.tpc e (f.tmask.has k)
  { f1 with hnd := false, service := false }

/-- The flight once every lane of the trap set has exited (R326): HND is 0 and the shadow is discarded. -/
def leaveIfEmpty (f : Flight) : Flight :=
  if f.hnd && allLanes.all (fun k => !(f.lane k).inS || (f.lane k).exited) then
    { f.mapLanes (fun _ l => { l with inS := false, shadow := .stale, shPend := none, shPart := none, shFix := none,
                                      shFaulty := [], shPos := 0, shCont := false, shFin := false }) with hnd := false, service := false }
  else f

/-- The slot of a store address is PRESENT (R18, R19). -/
def slotPresent (s : State) (core : Nat) (pc : Pc) : Bool :=
  decide ((coreOf s core).slots.get (Fin.ofNat 32 (pc.toNat / 4096)) = .present)

/-- The word at a store address (R17, R33). -/
def codeWord (s : State) (core : Nat) (pc : Pc) : Word := readWord s (storeKey core pc.toNat)

end Sys2Proof.Machine
end

