-- ==== Sys2Proof/Machine/Operands.lean ====
section
/-! DEFINITION. Reading sources and writing destinations in one lane: R23, R24, R45, R46, R335, R336. -/

namespace Sys2Proof

/-- The general register that DST names. -/
def Dst.gReg : Dst → BitVec 6
  | .g i => i
  | _ => 0

/-- The predicate that DST names. -/
def Dst.pReg : Dst → BitVec 3
  | .p i => i
  | _ => 0

/-- The vector register that DST names. -/
def Dst.vReg : Dst → BitVec 5
  | .v i => i
  | _ => 0

/-- The rejoin mask or queue register that DST names. -/
def Dst.num3 : Dst → BitVec 3
  | .j i => i
  | .q i => i
  | _ => 0

/-- DST as a register that the word reads (R75, R76, R93). -/
def Dst.asSrc : Dst → Src
  | .g i => .g i
  | .v i => .v i
  | .p i => .p i
  | .q i => .q i
  | .j i => .j i

end Sys2Proof

namespace Sys2Proof.Machine

/-- What reading an operand gives: its value, or the trap of step 4 of R31. -/
abbrev Rd (α : Type) : Type := Except LTrap α

/-- The trap of a faulting granule (R336): TVAL names the granule and the selector; `sub` are the sub-elements of the
operation that read it (R335). -/
def rfTrap (src : Src) (gran : BitVec 3) (sub : Word) : LTrap :=
  ⟨4, 0, .rfUncorrectable, .cast (by rfl) (0#53 ++ gran ++ src.bits), sub⟩

/-- The check of a scalar operand's granule (R335): GRAN is zero (R336). -/
def checkGran (l : Lane) (src : Src) : Rd Unit :=
  match l.granules src with
  | [] => .ok ()
  | _ :: _ => .error (rfTrap src 0 1)

/-- A latch entry (R22). -/
def Lane.latch (l : Lane) (k : BitVec 2) : Option LatchVal :=
  match k.toNat with
  | 0 => l.lat.l0
  | 1 => l.lat.l1
  | 2 => l.lat.l2
  | _ => l.lat.l3

/-- Reading latch entry k (R23): a stale entry is LATCH_STALE with TVAL k. -/
def readLatch (l : Lane) (k : BitVec 2) : Rd LatchVal :=
  match l.latch k with
  | none => .error (lt4 .latchStale (k.setWidth 64))
  | some x => .ok x

/-- The latch entry holds another class than the operand requires (R23). -/
def wrongClass {α : Type} : Rd α := .error (lt4 .illegal 0)

/-- The 64-bit value of an immediate (R45). -/
def immG (s : BitVec 7) : Word := s.signExtend 64

/-- A general source: register, latch or immediate (R62). -/
def srcG (l : Lane) (src : Src) : Rd Word :=
  match src with
  | .g i => (checkGran l src).map fun _ => l.getG i
  | .latch k =>
    match readLatch l k with
    | .ok (.gen x) => (checkGran l src).map fun _ => x
    | .ok _ => wrongClass
    | .error t => .error t
  | .imm s => .ok (immG s)
  | _ => wrongClass

/-- A predicate source: predicate or latch (R78). -/
def srcP (l : Lane) (src : Src) : Rd Bool :=
  match src with
  | .p i => (checkGran l src).map fun _ => l.getP i
  | .latch k =>
    match readLatch l k with
    | .ok (.pred x) => (checkGran l src).map fun _ => x
    | .ok _ => wrongClass
    | .error t => .error t
  | _ => wrongClass

/-- A predicate destination that is written reads its byte, which is one granule (R335). -/
def checkDstP (l : Lane) (d : Dst) (w : Bool) : Rd Unit := if w then checkGran l d.asSrc else .ok ()

/-- Completion with a general result (R22, R24). -/
def retG (l : Lane) (d : Dst) (w : Bool) (x : Word) : LaneOut :=
  .done (if w then l.setG d.gReg x else l) (some (.gen x)) none

/-- Completion with a predicate result (R22, R24). -/
def retP (l : Lane) (d : Dst) (w : Bool) (b : Bool) : LaneOut :=
  .done (if w then l.setP d.pReg b else l) (some (.pred b)) none

/-- Completion with a vector result (R22, R24). -/
def retV (l : Lane) (d : Dst) (w : Bool) (x : VWord) : LaneOut :=
  .done (if w then l.setV d.vReg x else l) (some (.vec x)) none

/-- Completion without a register result. -/
def retNone (l : Lane) : LaneOut := .done l none none

/-- A lane's outcome from its reads. -/
def ofRd (l : Lane) (r : Rd LaneOut) : LaneOut :=
  match r with
  | .ok o => o
  | .error t => .trap l none t

end Sys2Proof.Machine
end

