-- ==== Sys2Proof/Machine/Flags.lean ====
section
/-! DEFINITION. Integer range and flag computations: R62 to R70, R150; the flags of ISTAT. -/

namespace Sys2Proof.Machine

/-- ISTAT flags (R69). -/
def istatIdz : BitVec 3 := 1
def istatIov : BitVec 3 := 2
def istatSat : BitVec 3 := 4

/-- The sticky flags of ISTAT with more of them set (R69). -/
def Lane.raiseI (l : Lane) (f : BitVec 3) : Lane := { l with istat := l.istat ||| f }

/-- The exact integer `x` in `w` bits: wrapped, or clamped to the range of a type with `sat`; and whether it was clamped
(R64, R150). -/
def fitInt (w : Nat) (sgn sat : Bool) (x : Int) : BitVec w × Bool :=
  let hi : Int := if sgn then 2 ^ (w - 1) - 1 else 2 ^ w - 1
  let lo : Int := if sgn then - 2 ^ (w - 1) else 0
  if sat && decide (x > hi) then (BitVec.ofInt w hi, true)
  else if sat && decide (x < lo) then (BitVec.ofInt w lo, true)
  else (BitVec.ofInt w x, false)

/-- FitInt64 (R64): the result, and the lane with ISTAT.SAT set when it was clamped. -/
def fitInt64 (l : Lane) (sat : Bool) (x : Int) : Lane × Word :=
  let r := fitInt 64 true sat x
  (if r.2 then l.raiseI istatSat else l, r.1)

/-- ICTL.DZE and ICTL.OVE (R69). -/
def ictlDze (f : Flight) : Bool := f.ictl.getLsbD 0
def ictlOve (f : Flight) : Bool := f.ictl.getLsbD 1

/-- What a division gives in a lane (R68, R70): the quotient, the remainder and the flags raised, or a trap; an enabled
zero divisor outranks an enabled overflow. -/
def divide (f : Flight) (sgn : Bool) (a b : Word) : Rd (Word × Word × BitVec 3) :=
  if b = 0 then
    if ictlDze f then .error ⟨5, 0, .intDivzero, 0, 1⟩ else .ok (BitVec.allOnes 64, a, istatIdz)
  else if sgn && decide (a = 0x8000000000000000#64) && decide (b = BitVec.allOnes 64) then
    if ictlOve f then .error ⟨5, 1, .intOverflow, 1, 1⟩ else .ok (a, 0, istatIov)
  else if sgn then .ok (BitVec.ofInt 64 (a.toInt.tdiv b.toInt), BitVec.ofInt 64 (a.toInt.tmod b.toInt), 0)
  else .ok (BitVec.ofNat 64 (a.toNat / b.toNat), BitVec.ofNat 64 (a.toNat % b.toNat), 0)

/-- The truth of a condition code 0 to 5 (R77), from "less" and "equal". -/
def condInt (cc : BitVec 4) (lt eq : Bool) : Bool :=
  match cc.toNat with
  | 0 => eq
  | 1 => !eq
  | 2 => lt
  | 3 => lt || eq
  | 4 => !(lt || eq)
  | _ => !lt

end Sys2Proof.Machine
end

