-- ==== Sys2Proof/Machine/Issue.lean ====
section
/-! DEFINITION. Issuing a word: fetch and decode (steps 1 and 2 of R31), REP and its repeats (R27 to R29, R37, R87, R88), the
issuing lane of format X (R43), and arbitration (R128, R133). -/

namespace Sys2Proof

/-- Whether the instruction may be a REP target (R28, R63, R111, R140, R148, R210, R233 and the definitions of the others). -/
def Instr.repOk : Instr → Bool
  | .bra _ _ | .brx _ _ | .call _ _ | .callx _ _ | .ret _ _ | .jf _ _ | .cfetch _ _ | .exit _ _ | .rep _ _ => false
  | .mts _ _ | .trap _ _ | .rjw _ _ | .mmodeOn _ _ | .mmodeOff _ _ | .fence _ _ => false
  | .movQueueMarker _ _ | .movQueuePop _ _ | .dualWord _ _ _ => false
  | .qbind _ _ | .copy _ _ | .mcast _ _ | .reduce _ _ | .gemv _ _ | .foot _ _ | .migr _ _ => false
  | .launch _ _ | .cancel _ _ | .finit _ _ | .fres _ _ | .freg _ _ | .fwait _ _ | .fpoll _ _ | .ffail _ _ => false
  | .phreg _ _ | .phdrop _ _ | .pharr _ _ | .phwait _ _ | .phnext _ _ | .phset _ _ | .phexp _ _ | .bar _ _ => false
  | .rteRetry _ _ | .rteSkip _ _ | .tfix _ _ | .errqpop _ _ => false
  | .ctxsvSave _ _ | .ctxsvRestore _ _ | .ctxsvSaveFree _ _ | .ctxsvResume _ _ => false
  | _ => true

/-- How far a selector may step within its register class (R28); `none` for a latch, an immediate or a reserved
pattern. -/
def Src.room : Src → Option Nat
  | .g i => some (63 - i.toNat)
  | .v i => some (31 - i.toNat)
  | .p i | .q i | .j i => some (7 - i.toNat)
  | .latch _ | .imm _ => none

/-- As `Src.room` for a destination. -/
def Dst.room : Dst → Nat
  | .g i => 63 - i.toNat
  | .v i => 31 - i.toNat
  | .p i | .q i | .j i => 7 - i.toNat

/-- The number of selectors of the instruction's format, of DST, SA, SB and SC (R35 to R43). -/
def Instr.selectors (i : Instr) : Nat :=
  match i.parts with
  | some (.b _ _ _) | some (.c _ _ _) => 2
  | some (.m _ _ _) | some (.x _ _ _) => 3
  | some (.dual _ _ _) | none => 0
  | _ => 4

/-- A source field may be stepped n − 1 times (R28). -/
def srcSteps (b : BitVec 8) (n : Nat) : Bool :=
  match (srcOf b).bind Src.room with
  | some r => decide (n ≤ r + 1)
  | none => false

/-- A destination field may be stepped n − 1 times (R28). -/
def dstSteps (b : BitVec 7) (n : Nat) : Bool :=
  match dstOf b with
  | some d => decide (n ≤ d.room + 1)
  | none => false

/-- Every stepped field of the target names a register that stays in its class (R28). `step` is STC, STB, STA, STD from
bit 0, and `k` the number of selectors of the target's format. -/
def stepsOk (w : Word) (step : BitVec 4) (k n : Nat) : Bool :=
  (!step.getLsbD 3 || (decide (1 ≤ k) && dstSteps (w.extractLsb' 40 7) n)) &&
  (!step.getLsbD 2 || (decide (2 ≤ k) && srcSteps (w.extractLsb' 32 8) n)) &&
  (!step.getLsbD 1 || (decide (3 ≤ k) && srcSteps (w.extractLsb' 24 8) n)) &&
  (!step.getLsbD 0 || (decide (4 ≤ k) && srcSteps (w.extractLsb' 16 8) n))

/-- The target word with every stepped field advanced by i (R27). -/
def stepWord (w : Word) (step : BitVec 4) (i : Nat) : Word :=
  let at_ (bit pos : Nat) : Word := if step.getLsbD bit then BitVec.ofNat 64 (i <<< pos) else 0
  w + at_ 3 40 + at_ 2 32 + at_ 1 24 + at_ 0 16

end Sys2Proof

namespace Sys2Proof.Machine

/-- The lowest lane of a set. -/
def lowest (m : LaneSet) : Option LaneId := allLanes.find? (fun k => m.has k)

/-- The highest lane of a set. -/
def highest (m : LaneSet) : Option LaneId := allLanes.reverse.find? (fun k => m.has k)

/-- The issuing lane of a format X word (R43). -/
def issuingLane (s : State) (h : Hdr) (ls : Bool) (lane : BitVec 7) : Option LaneId :=
  if ls then some (Fin.ofNat 32 lane.toNat) else lowest (active s h)

/-- The general register that a source names. -/
def srcReg : Src → BitVec 6
  | .g i => i
  | _ => 0

/-- CTXSV by the operation that its issuing lane's g[SA] holds (R341). -/
def refine (s : State) (i : Instr) : Instr :=
  match i with
  | .ctxsvSave h o =>
    match issuingLane s h o.ls o.lane with
    | none => i
    | some k =>
      match (((s.fl.lane k).getG (srcReg o.sa)).extractLsb' 8 2).toNat with
      | 0 => .ctxsvSave h o
      | 1 => .ctxsvRestore h o
      | 2 => .ctxsvSaveFree h o
      | _ => .ctxsvResume h o
  | _ => i

/-- The instruction of the word at issue, or the trap of its fate (R54), taken in every lane of the issuing set. -/
def decodeIssue (s : State) : Option Instr × State :=
  match decode s.iw with
  | .ok i => (some (refine s i), s)
  | .error (.pair n) => (none, wordTrap s 2 .illegalPair (BitVec.ofNat 64 n) false)
  | .error (.illegal slot) => (none, wordTrap s 2 .illegal 0 slot)
  | .error .short => (none, wordTrap s 2 .illegal 0 false)

/-- The pc of the issuing set. -/
def issuePc (s : State) : Pc :=
  match lowest (issuing s) with
  | some k => (s.fl.lane k).pc
  | none => 0

/-- A lane of the issuing set came past the last word of a slot (R19). -/
def hasCrossed (s : State) : Bool := allLanes.any (fun k => (issuing s).has k && (s.fl.lane k).crossed)

/-- Fetch and decode of the flight at issue (R19, R27, R31): the instruction to execute, or the state after the trap. -/
def issue (s : State) : Option Instr × State :=
  match s.fl.run with
  | none => (none, s)
  | some r =>
    match r.rep with
    | some rp => decodeIssue { s with iw := stepWord rp.word rp.step rp.i }
    | none =>
      let pc := issuePc s
      if hasCrossed s then
        (none, wordTrap { s with iw := 0 } 1 .codeAbsent (if pc = 0 then 0x20000 else pc.setWidth 64) false)
      else if !slotPresent s s.fl.id.coreNo pc then
        (none, wordTrap { s with iw := 0 } 1 .codeAbsent (pc.setWidth 64) false)
      else decodeIssue { s with iw := codeWord s s.fl.id.coreNo pc }

/-! REP. -/

/-- A lane at the REP word (R27, R29): the REP word is a word of the run with a stale latch value, unless its repetition
goes on after an interruption. A lane without progress starts afresh, and one in which the REP word does not execute keeps its
REPCNT (R9). -/
def Lane.enterRep (l : Lane) (inE : Bool) (n : Nat) : Lane :=
  let l1 := if l.repCont then l else { l.shiftLat none with pos := l.pos + 1 }
  let l2 := { l1 with repCont := false }
  if !inE then { l2 with pend := none }
  else if l2.remain = 0 ∧ !l2.repFin then { l2 with repInt := false, done := 0, remain := BitVec.ofNat 7 n, pend := none }
  else { l2 with repInt := false }

/-- The count of the run that the REP word has (R20, R87). -/
def repPos (f : Flight) (set : LaneSet) : Nat :=
  allLanes.foldl (fun n k =>
    if set.has k then max n ((f.lane k).pos + (if (f.lane k).repCont then 0 else 1)) else n) 0

/-- The lanes whose progress a REP of n repeats cannot hold (R29). -/
def repOver (s : State) (h : Hdr) (n : Nat) : LaneSet :=
  laneSetOf fun k => isActive s h k && decide ((s.fl.lane k).remain ≠ 0) &&
    decide (n < (s.fl.lane k).done.toNat + (s.fl.lane k).remain.toNat)

/-- The state in which the repetition's first repeat issues, or after the target when no repeat is left (R29). -/
def startRep (s : State) (h : Hdr) (set : LaneSet) (n : Nat) (word : Word) (step : BitVec 4) (e : Bool) : State :=
  let inE := active s h
  let f1 := s.fl.mapLanes fun k l => if set.has k then l.enterRep (inE.has k) n else l
  let going := laneSetOf fun k => inE.has k && decide ((f1.lane k).remain ≠ 0)
  let m := allLanes.foldl (fun a k => if going.has k then Nat.min a (f1.lane k).done.toNat else a) 64
  let last := allLanes.foldl (fun a k =>
    if going.has k then Nat.max a ((f1.lane k).done.toNat + (f1.lane k).remain.toNat) else a) 0
  if going = 0 then
    let pos := runPos f1 set
    let ended := e || decide (pos + 1 ≥ 24)
    { s with fl := { f1.mapLanes (fun k l => if set.has k then leaveRep l (inE.has k) pos ended else l) with
                     run := if ended then none else some { set := set, rep := none } } }
  else { s with fl := { f1 with run := some { set := set, rep := some { i := m, last := last, word := word,
                                                                         step := step, lanes := inE } } } }

/-- REP n, fields (R27 to R29, R37, R87). -/
def execRep (h : Hdr) (o : OpsB) (s : State) : Host.Outcome State Fault Refusal :=
  let set := issuing s
  let n := (o.imm.extractLsb' 0 6).toNat + 1
  let step := o.imm.extractLsb' 6 4
  let pc := issuePc s + 8
  if h.e || decide (repPos s.fl set ≥ 24) then .next (wordTrap s 2 .illegal 0 false)
  else if pc.toNat % 4096 = 0 then
    .next (wordTrap s 1 .codeAbsent (if pc = 0 then 0x20000 else pc.setWidth 64) false)
  else
    let w := codeWord s s.fl.id.coreNo pc
    match decode w with
    | .error _ => .next (wordTrap s 2 .illegal 0 false)
    | .ok t =>
      if !t.repOk || !stepsOk w step t.selectors n then .next (wordTrap s 2 .illegal 0 false)
      else
        match lowest (repOver s h n) with
        | some b =>
          .next (finish s false false false (tab fun k =>
            let l := s.fl.lane k
            if (repOver s h n).has k then .trap l l.pend ⟨5, 0, .illegal, (s.fl.lane b).repcnt, 1⟩
            else .done l l.pend none))
        | none => .next (startRep s h set n w step (w.getLsbD 63))

/-! Arbitration (R132, R133). -/

/-- A lane of a flight that may issue (R127, R326). -/
def mayIssue (f : Flight) (k : LaneId) : Bool := (f.lane k).ready && (!f.hnd || (f.lane k).inS)

/-- The flight takes part in arbitration (R133, R338): resident, not STOPPED, not held for service, with a lane that may
issue, no trap waiting for its grid, its image loaded (R275), and no stop asked of it (R337). -/
def candidate (f : Flight) : Bool :=
  f.live && f.slot.isSome && !f.stopped && !f.service && f.pendTrap.isNone && f.awaitImage.isNone && f.ending.isNone &&
    f.preempt.isNone && (f.halted.isSome || allLanes.any (mayIssue f))

/-- The flights resident on an engine of a core. -/
def residents (s : State) (core eng : Nat) : List Flight :=
  (allFlights s).filter (fun f => decide (f.id.coreNo = core) && (match f.slot with | some k => decide (k / 2 = eng) | none => false))

/-- The engine is in the middle of a run (R132), or stalled after one (R208). A run that a stop interrupted does not hold it
(R337). -/
def busyEngine (s : State) (core eng : Nat) : Bool := (residents s core eng).any (fun f => f.run.isSome || f.stall.isSome)

/-- The issuing set of a flight that wins: its lanes at the smallest pc (R128). -/
def issueSet (f : Flight) : LaneSet :=
  let m := allLanes.foldl (fun a k => if mayIssue f k then Nat.min a (f.lane k).pc.toNat else a) 0x20000
  laneSetOf fun k => mayIssue f k && decide ((f.lane k).pc.toNat = m)

/-- The winner among the candidates (R133). -/
def winner (cand : List Flight) (last : Bool) : Option Flight :=
  let c := cand.foldl (fun a f => Nat.max a f.eclass) 0
  let top := cand.filter (fun f => decide (f.eclass = c))
  match top with
  | [] => none
  | [f] => some f
  | f :: rest => some (((f :: rest).find? (fun x => decide (x.slot.map (· % 2) ≠ some last.toNat))).getD f)

/-- A candidate that is passed (R133). -/
def Flight.pass (f : Flight) : Flight :=
  if f.passed + 1 = 64 then { f with passed := 0, eclass := Nat.min (f.eclass + 1) 3 }
  else { f with passed := f.passed + 1 }

/-- A flight that has won (R133): a new run begins, in which it sees TVEC as it now stands (R90), or the run that a stop
interrupted goes on (R337). -/
def Flight.win (f : Flight) (tvec : Word) : Flight :=
  match f.halted with
  | some r => { f with passed := 0, eclass := f.lclass, run := some r, halted := none }
  | none => { f with passed := 0, eclass := f.lclass, tvec := tvec, run := some { set := issueSet f, rep := none } }

/-- ARBITRATE (R133): the engine's next run begins; the winner is the flight at issue. -/
def execArbitrate (core eng : Nat) (s : State) : Host.Outcome State Fault Refusal :=
  let cand := (residents s core eng).filter candidate
  if busyEngine s core eng then .next s
  else
    match winner cand ((coreOf s core).last.get (Fin.ofNat 4 eng)) with
    | none => .next s
    | some f =>
      let won := f.win (ctxOf s f.ctx).tvec
      let s1 := mapFlights s fun g =>
        if g.id = f.id then won else if cand.any (fun x => decide (x.id = g.id)) then g.pass else g
      let k := coreOf s1 core
      let s2 := setCore s1 core { k with last := k.last.set (Fin.ofNat 4 eng) (f.slot.getD 0 % 2 == 1) }
      .next (focus s2 f.id)

end Sys2Proof.Machine
end

