-- ==== Sys2Proof/Machine/Int.lean ====
section
/-! DEFINITION. Scalar integer instructions: R62 to R75. -/

namespace Sys2Proof.Machine

/-- The outcome of a step of the machine. -/
abbrev Res : Type := Host.Outcome State Fault Refusal

/-- A word that combines SA and SB into a general result (R62). -/
def scalar2 (s : State) (h : Hdr) (o : OpsA) (f : Word → Word → Word) : State :=
  perLane s h [o.sa, o.sb] fun _ l => ofRd l do
    let a ← srcG l o.sa
    let b ← srcG l o.sb
    pure (retG l o.dst h.w (f a b))

/-- A word that computes a general result from SA (R62). -/
def scalar1 (s : State) (h : Hdr) (o : OpsA) (f : Word → Word) : State :=
  perLane s h [o.sa] fun _ l => ofRd l do
    let a ← srcG l o.sa
    pure (retG l o.dst h.w (f a))

/-- A word that combines SA and the sign-extended IMM24 (R37). -/
def scalarImm (s : State) (h : Hdr) (o : OpsB) (f : Word → Word → Word) : State :=
  perLane s h [o.sa] fun _ l => ofRd l do
    let a ← srcG l o.sa
    pure (retG l o.dst h.w (f a (o.imm.signExtend 64)))

/-- A word whose exact integer result passes through FitInt64 (R64, R65). -/
def scalarFit (s : State) (h : Hdr) (o : OpsA) (f : Int → Int → Int) : State :=
  perLane s h [o.sa, o.sb] fun _ l => ofRd l do
    let a ← srcG l o.sa
    let b ← srcG l o.sb
    let r := fitInt64 l o.sat (f a.toInt b.toInt)
    pure (retG r.1 o.dst h.w r.2)

/-- A division (R68): quotient or remainder, with its flags. -/
def scalarDiv (s : State) (h : Hdr) (o : OpsA) (sgn quot : Bool) : State :=
  perLane s h [o.sa, o.sb] fun _ l => ofRd l do
    let a ← srcG l o.sa
    let b ← srcG l o.sb
    let r ← divide s.fl sgn a b
    pure (retG (l.raiseI r.2.2) o.dst h.w (if quot then r.1 else r.2.1))

/-- A word that computes a general result from SA, SB and SC (R62). -/
def scalar3 (s : State) (h : Hdr) (o : OpsA) (f : Word → Word → Word → Word) : State :=
  perLane s h [o.sa, o.sb, o.sc] fun _ l => ofRd l do
    let a ← srcG l o.sa
    let b ← srcG l o.sb
    let c ← srcG l o.sc
    pure (retG l o.dst h.w (f a b c))

/-- Bits [127:64] of an exact product (R66). -/
def highHalf (x : Int) : Word := BitVec.ofInt 64 (x / 2 ^ 64)

/-- Leading zeros among the `n` low bits (R74). -/
def clzFrom (a : Word) : Nat → Nat
  | 0 => 0
  | n + 1 => if a.getLsbD n then 0 else 1 + clzFrom a n

/-- Set bits among the `n` low bits (R74). -/
def popFrom (a : Word) : Nat → Nat
  | 0 => 0
  | n + 1 => (if a.getLsbD n then 1 else 0) + popFrom a n

/-- The 64 bits in reverse order (R74). -/
def reverseBits (a : Word) : Word := BitVec.ofFnLE fun i : Fin 64 => a.getLsbD (63 - i.val)

/-- The eight bytes in reverse order (R74). -/
def reverseBytes (a : Word) : Word :=
  BitVec.ofFnLE fun i : Fin 64 => a.getLsbD (8 * (7 - i.val / 8) + i.val % 8)

/-- The low `n` bits set (R64). -/
def lowMask (n : Nat) : Word := BitVec.ofNat 64 (2 ^ n - 1)

/-- Position and length of a bit field (R75). -/
def fieldPos (b : Word) : Nat := (b.extractLsb' 0 6).toNat
def fieldLen (b c : Word) : Nat := Nat.min (c.extractLsb' 0 7).toNat (64 - fieldPos b)

/-- BFX (R75). -/
def bitField (a b c : Word) : Word := (a >>> fieldPos b) &&& lowMask (fieldLen b c)

/-- BFXS (R75). -/
def bitFieldSigned (a b c : Word) : Word :=
  let n := fieldLen b c
  let x := bitField a b c
  if n = 0 then 0 else if x.getLsbD (n - 1) then x ||| ~~~lowMask n else x

/-- BFI (R75). -/
def bitFieldInsert (old a b c : Word) : Word :=
  let m := lowMask (fieldLen b c)
  (old &&& ~~~(m <<< fieldPos b)) ||| ((a &&& m) <<< fieldPos b)

/-- SHL, SHR and SAR by an unsigned count (R72). -/
def shlWord (a n : Word) : Word := if n.toNat ≥ 64 then 0 else a <<< n.toNat
def shrWord (a n : Word) : Word := if n.toNat ≥ 64 then 0 else a >>> n.toNat
def sarWord (a n : Word) : Word := a.sshiftRight (Nat.min n.toNat 63)

/-- ADD (R65). -/
def execAdd (h : Hdr) (o : OpsA) (s : State) : Res := .next (scalarFit s h o fun a b => a + b)

/-- ADDI (R65). -/
def execAddi (h : Hdr) (o : OpsB) (s : State) : Res := .next (scalarImm s h o fun a b => a + b)

/-- SUB (R65). -/
def execSub (h : Hdr) (o : OpsA) (s : State) : Res := .next (scalarFit s h o fun a b => a - b)

/-- NEG (R65). -/
def execNeg (h : Hdr) (o : OpsA) (s : State) : Res := .next (scalarFit s h o fun a _ => -a)

/-- MUL (R65). -/
def execMul (h : Hdr) (o : OpsA) (s : State) : Res := .next (scalarFit s h o fun a b => a * b)

/-- MULH (R66). -/
def execMulh (h : Hdr) (o : OpsA) (s : State) : Res := .next (scalar2 s h o fun a b => highHalf (a.toInt * b.toInt))

/-- MULHU (R66). -/
def execMulhu (h : Hdr) (o : OpsA) (s : State) : Res := .next (scalar2 s h o fun a b => highHalf ((a.toNat : Int) * (b.toNat : Int)))

/-- DIV (R68, R70). -/
def execDiv (h : Hdr) (o : OpsA) (s : State) : Res := .next (scalarDiv s h o true true)

/-- DIVU (R68, R70). -/
def execDivu (h : Hdr) (o : OpsA) (s : State) : Res := .next (scalarDiv s h o false true)

/-- REM (R68, R70). -/
def execRem (h : Hdr) (o : OpsA) (s : State) : Res := .next (scalarDiv s h o true false)

/-- REMU (R68, R70). -/
def execRemu (h : Hdr) (o : OpsA) (s : State) : Res := .next (scalarDiv s h o false false)

/-- MIN (R67). -/
def execMin (h : Hdr) (o : OpsA) (s : State) : Res := .next (scalar2 s h o fun a b => if b.slt a then b else a)

/-- MAX (R67). -/
def execMax (h : Hdr) (o : OpsA) (s : State) : Res := .next (scalar2 s h o fun a b => if a.slt b then b else a)

/-- MINU (R67). -/
def execMinu (h : Hdr) (o : OpsA) (s : State) : Res := .next (scalar2 s h o fun a b => if b.ult a then b else a)

/-- MAXU (R67). -/
def execMaxu (h : Hdr) (o : OpsA) (s : State) : Res := .next (scalar2 s h o fun a b => if a.ult b then b else a)

/-- ABS (R65). -/
def execAbs (h : Hdr) (o : OpsA) (s : State) : Res := .next (scalarFit s h o fun a _ => (a.natAbs : Int))

/-- AND (R71). -/
def execAnd (h : Hdr) (o : OpsA) (s : State) : Res := .next (scalar2 s h o fun a b => a &&& b)

/-- ANDI (R71). -/
def execAndi (h : Hdr) (o : OpsB) (s : State) : Res := .next (scalarImm s h o fun a b => a &&& b)

/-- OR (R71). -/
def execOr (h : Hdr) (o : OpsA) (s : State) : Res := .next (scalar2 s h o fun a b => a ||| b)

/-- ORI (R71). -/
def execOri (h : Hdr) (o : OpsB) (s : State) : Res := .next (scalarImm s h o fun a b => a ||| b)

/-- XOR (R71). -/
def execXor (h : Hdr) (o : OpsA) (s : State) : Res := .next (scalar2 s h o fun a b => a ^^^ b)

/-- XORI (R71). -/
def execXori (h : Hdr) (o : OpsB) (s : State) : Res := .next (scalarImm s h o fun a b => a ^^^ b)

/-- ANDN (R71). -/
def execAndn (h : Hdr) (o : OpsA) (s : State) : Res := .next (scalar2 s h o fun a b => a &&& ~~~b)

/-- NOT (R71). -/
def execNot (h : Hdr) (o : OpsA) (s : State) : Res := .next (scalar1 s h o fun a => ~~~a)

/-- SHL (R72). -/
def execShl (h : Hdr) (o : OpsA) (s : State) : Res := .next (scalar2 s h o fun a b => shlWord a b)

/-- SHLI (R73). -/
def execShli (h : Hdr) (o : OpsB) (s : State) : Res := .next (scalarImm s h o fun a b => shlWord a (b &&& 0x3F))

/-- SHR (R72). -/
def execShr (h : Hdr) (o : OpsA) (s : State) : Res := .next (scalar2 s h o fun a b => shrWord a b)

/-- SHRI (R73). -/
def execShri (h : Hdr) (o : OpsB) (s : State) : Res := .next (scalarImm s h o fun a b => shrWord a (b &&& 0x3F))

/-- SAR (R72). -/
def execSar (h : Hdr) (o : OpsA) (s : State) : Res := .next (scalar2 s h o fun a b => sarWord a b)

/-- SARI (R73). -/
def execSari (h : Hdr) (o : OpsB) (s : State) : Res := .next (scalarImm s h o fun a b => sarWord a (b &&& 0x3F))

/-- ROL (R72). -/
def execRol (h : Hdr) (o : OpsA) (s : State) : Res := .next (scalar2 s h o fun a b => a.rotateLeft (b.toNat % 64))

/-- ROR (R72). -/
def execRor (h : Hdr) (o : OpsA) (s : State) : Res := .next (scalar2 s h o fun a b => a.rotateRight (b.toNat % 64))

/-- CLZ (R74). -/
def execClz (h : Hdr) (o : OpsA) (s : State) : Res := .next (scalar1 s h o fun a => BitVec.ofNat 64 (clzFrom a 64))

/-- CTZ (R74). -/
def execCtz (h : Hdr) (o : OpsA) (s : State) : Res := .next (scalar1 s h o fun a => BitVec.ofNat 64 (clzFrom (reverseBits a) 64))

/-- POPC (R74). -/
def execPopc (h : Hdr) (o : OpsA) (s : State) : Res := .next (scalar1 s h o fun a => BitVec.ofNat 64 (popFrom a 64))

/-- BREV (R74). -/
def execBrev (h : Hdr) (o : OpsA) (s : State) : Res := .next (scalar1 s h o reverseBits)

/-- BSWAP (R74). -/
def execBswap (h : Hdr) (o : OpsA) (s : State) : Res := .next (scalar1 s h o reverseBytes)

/-- BFX (R75). -/
def execBfx (h : Hdr) (o : OpsA) (s : State) : Res := .next (scalar3 s h o bitField)

/-- BFXS (R75). -/
def execBfxs (h : Hdr) (o : OpsA) (s : State) : Res := .next (scalar3 s h o bitFieldSigned)

/-- BFI (R75): DST is read before it is written. -/
def execBfi (h : Hdr) (o : OpsA) (s : State) : Res :=
  .next (perLane s h [o.sa, o.sb, o.sc, o.dst.asSrc] fun _ l => ofRd l do
    let a ← srcG l o.sa
    let b ← srcG l o.sb
    let c ← srcG l o.sc
    let old ← srcG l o.dst.asSrc
    pure (retG l o.dst h.w (bitFieldInsert old a b c)))

end Sys2Proof.Machine
end

