-- ==== Sys2Proof/Machine/Rejoin.lean ====
section
/-! DEFINITION. Rejoin masks: R138 to R143. -/

namespace Sys2Proof.Machine

/-- A rejoin mask of a flight (R138). -/
def Flight.mask (f : Flight) (j : BitVec 3) : RMask := f.rejoin.get j.toFin

/-- The flight with a rejoin mask replaced. -/
def Flight.setMask (f : Flight) (j : BitVec 3) (m : RMask) : Flight := { f with rejoin := f.rejoin.set j.toFin m }

/-- The mask is released (R138). -/
def RMask.released (m : RMask) : Bool := m.arrived != 0 && m.enrolled == m.arrived

/-- A lane parked at the RJW of a mask completes it (R138). -/
def Lane.completeRjw (l : Lane) (j : BitVec 3) : Lane :=
  match l.st with
  | .parked (.rejoin k) => if k = j then l.complete none else l
  | _ => l

/-- A change of a mask, with the release that it completes (R138). -/
def Flight.changeMask (f : Flight) (j : BitVec 3) (m : RMask) : Flight :=
  if m.released then
    (f.setMask j ⟨0, 0⟩).mapLanes fun k l => if m.arrived.has k then l.completeRjw j else l
  else f.setMask j m

/-- The mask that SA names (R140). -/
def maskOf : Src → BitVec 3
  | .j i => i
  | _ => 0

/-- A word without register result that acts once for the whole of Active (R32): the outcomes of its lanes. -/
def plainOuts (s : State) (h : Hdr) : Vector LaneOut 32 := laneOuts s h fun _ l => retNone l

/-- RJE (R141). -/
def execRje (h : Hdr) (o : OpsA) (s : State) : Res :=
  let outs := plainOuts s h
  let act := doneOf outs
  let m := s.fl.mask (maskOf o.sa)
  let f := if act = 0 then s.fl else s.fl.changeMask (maskOf o.sa) { m with enrolled := m.enrolled ||| act }
  .next (finish { s with fl := f } h.e false false outs)

/-- RJX (R141). -/
def execRjx (h : Hdr) (o : OpsA) (s : State) : Res :=
  let outs := plainOuts s h
  let act := doneOf outs
  let m := s.fl.mask (maskOf o.sa)
  let f := if act = 0 then s.fl else s.fl.changeMask (maskOf o.sa) { m with enrolled := m.enrolled &&& ~~~act }
  .next (finish { s with fl := f } h.e false false outs)

/-- RJW (R141): lanes that do not complete the set park on it. -/
def execRjw (h : Hdr) (o : OpsA) (s : State) : Res :=
  let j := maskOf o.sa
  let outs := plainOuts s h
  let act := doneOf outs
  let m := s.fl.mask j
  let m1 : RMask := ⟨m.enrolled ||| act, m.arrived ||| act⟩
  if act = 0 then .next (finish s h.e false false outs)
  else if m1.released then .next (finish { s with fl := s.fl.changeMask j m1 } h.e false false outs)
  else
    .next (finish { s with fl := s.fl.setMask j m1 } h.e false false (tab fun k =>
      if act.has k then .park (s.fl.lane k) (.rejoin j) else outs.get k))

/-- The masks of a flight after lanes have exited (R142). -/
def strikeExited (f : Flight) (gone : LaneSet) : Flight :=
  (List.finRange 8).foldl (fun f j =>
    let m := f.mask (BitVec.ofFin j)
    f.changeMask (BitVec.ofFin j) { m with enrolled := m.enrolled &&& ~~~gone }) f

end Sys2Proof.Machine
end

