-- ==== Sys2Proof/Machine/Move.lean ====
section
/-! DEFINITION. Moves, selection, comparison and predicate logic: R76 to R78, R139. -/

namespace Sys2Proof.Machine

/-- The value that MOV reads (R76, R139): a general value, or ENROLLED of a rejoin mask. -/
def srcMov (f : Flight) (l : Lane) (src : Src) : Rd Word :=
  match src with
  | .j i => .ok ((f.mask i).enrolled.setWidth 64)
  | _ => srcG l src

/-- The value that a MOV into a rejoin mask reads; a latch may hold one of that class too (R139). -/
def srcMovMask (f : Flight) (l : Lane) (src : Src) : Rd Word :=
  match src with
  | .j i => .ok ((f.mask i).enrolled.setWidth 64)
  | .latch k =>
    match readLatch l k with
    | .ok (.mask m) => (checkGran l src).map fun _ => m.setWidth 64
    | _ => srcG l src
  | _ => srcG l src

/-- The value of the highest-numbered lane that completes (R139); log entry 7. -/
def highestValue (outs : Vector LaneOut 32) (value : LaneId → Rd Word) : Option Word :=
  match highest (doneOf outs) with
  | none => none
  | some k => (value k).toOption

/-- MOV into a rejoin mask (R139). The latch value of each lane is the low 32 bits of its own source: DESIGN CHOICE, R139 gives the
latch entry a mask and does not say which (log entry 7). Unsafe. -/
def movMask (s : State) (h : Hdr) (o : OpsA) (j : BitVec 3) : State :=
  let outs := laneOuts s h fun _ l => ofRd l do
    let a ← srcMovMask s.fl l o.sa
    pure (.done l (some (.mask (a.setWidth 32))) none)
  let m := s.fl.mask j
  let f :=
    match highestValue outs (fun k => srcMovMask s.fl (s.fl.lane k) o.sa) with
    | some v => if h.w then s.fl.changeMask j { m with enrolled := (v.setWidth 32 &&& s.fl.alive) ||| m.arrived } else s.fl
    | none => s.fl
  finish { s with fl := { f with rflat := logUnread s h [o.sa] (fun _ _ _ => true) } } h.e false false outs

/-- MOV of general registers and rejoin masks (R76, R139). -/
def execMov (h : Hdr) (o : OpsA) (s : State) : Res :=
  match o.dst with
  | .j j => .next (movMask s h o j)
  | _ => .next (perLane s h [o.sa] fun _ l => ofRd l do
      let a ← srcMov s.fl l o.sa
      pure (retG l o.dst h.w a))

/-- MOVI (R76). -/
def execMovi (h : Hdr) (o : OpsC) (s : State) : Res :=
  .next (perLane s h [] fun _ l => retG l o.dst h.w (o.imm.signExtend 64))

/-- MOVHI (R76): DST is read. -/
def execMovhi (h : Hdr) (o : OpsC) (s : State) : Res :=
  .next (perLane s h [o.dst.asSrc] fun _ l => ofRd l do
    let old ← srcG l o.dst.asSrc
    pure (retG l o.dst h.w (.cast (by rfl) (o.imm ++ old.extractLsb' 0 32))))

/-- SEL (R76). -/
def execSel (h : Hdr) (o : OpsA) (s : State) : Res :=
  .next (perLane s h [o.sa, o.sb, o.sc] fun _ l => ofRd l do
    let a ← srcG l o.sa
    let b ← srcG l o.sb
    let p ← srcP l o.sc
    pure (retG l o.dst h.w (if p then a else b)))

/-- LEA (R76). -/
def execLea (h : Hdr) (o : OpsA) (s : State) : Res := .next (scalar2 s h o fun a b => a + (b <<< o.is.toNat))

/-- A comparison of two general operands into a predicate (R77). -/
def compare2 (s : State) (h : Hdr) (o : OpsA) (lt : Word → Word → Bool) : State :=
  perLane s h [o.sa, o.sb, o.dst.asSrc] fun _ l => ofRd l do
    let a ← srcG l o.sa
    let b ← srcG l o.sb
    checkDstP l o.dst h.w
    pure (retP l o.dst h.w (condInt o.cc (lt a b) (a == b)))

/-- CMP (R77). -/
def execCmp (h : Hdr) (o : OpsA) (s : State) : Res := .next (compare2 s h o fun a b => a.slt b)

/-- CMPU (R77). -/
def execCmpu (h : Hdr) (o : OpsA) (s : State) : Res := .next (compare2 s h o fun a b => a.ult b)

/-- CMPI (R77): the condition is in BM[3:0]. -/
def execCmpi (h : Hdr) (o : OpsB) (s : State) : Res :=
  .next (perLane s h [o.sa, o.dst.asSrc] fun _ l => ofRd l do
    let a ← srcG l o.sa
    checkDstP l o.dst h.w
    let b := o.imm.signExtend 64
    pure (retP l o.dst h.w (condInt (o.bm.extractLsb' 0 4) (a.slt b) (a == b))))

/-- A predicate operation of two sources (R78). -/
def pred2 (s : State) (h : Hdr) (o : OpsA) (f : Bool → Bool → Bool) : State :=
  perLane s h [o.sa, o.sb, o.dst.asSrc] fun _ l => ofRd l do
    let a ← srcP l o.sa
    let b ← srcP l o.sb
    checkDstP l o.dst h.w
    pure (retP l o.dst h.w (f a b))

/-- A predicate operation of one source (R78). -/
def pred1 (s : State) (h : Hdr) (o : OpsA) (f : Bool → Bool) : State :=
  perLane s h [o.sa, o.dst.asSrc] fun _ l => ofRd l do
    let a ← srcP l o.sa
    checkDstP l o.dst h.w
    pure (retP l o.dst h.w (f a))

/-- PAND (R78). -/
def execPand (h : Hdr) (o : OpsA) (s : State) : Res := .next (pred2 s h o fun a b => a && b)
/-- POR (R78). -/
def execPor (h : Hdr) (o : OpsA) (s : State) : Res := .next (pred2 s h o fun a b => a || b)
/-- PXOR (R78). -/
def execPxor (h : Hdr) (o : OpsA) (s : State) : Res := .next (pred2 s h o fun a b => a != b)
/-- PNOT (R78). -/
def execPnot (h : Hdr) (o : OpsA) (s : State) : Res := .next (pred1 s h o fun a => !a)
/-- PMOV (R78). -/
def execPmov (h : Hdr) (o : OpsA) (s : State) : Res := .next (pred1 s h o fun a => a)

end Sys2Proof.Machine
end

