-- ==== Sys2Proof/Machine/Control.lean ====
section
/-! DEFINITION. Control transfer, EXIT, NOP and TRAP: R79 to R84, R91, R127, R142, R326. -/

namespace Sys2Proof.Machine

/-- The checks of a target address (R79, R19): alignment, the store's end, and the slot. `sameSlot`: the target must lie
in the slot of the branch; otherwise its slot must be PRESENT. -/
def checkTarget (s : State) (pc : Pc) (t : Word) (sameSlot : Bool) : Rd Pc :=
  if t.extractLsb' 0 3 ≠ 0 then .error (lt5 .align t)
  else if 0x20000 ≤ t.toNat then .error (lt5 .codeAbsent t)
  else
    let p : Pc := t.setWidth 17
    if sameSlot then
      if p.toNat / 4096 = pc.toNat / 4096 then .ok p else .error (lt5 .codeAbsent t)
    else if slotPresent s s.fl.id.coreNo p then .ok p
    else .error (lt5 .codeAbsent t)

/-- The link value pc + 8 (R79). -/
def linkOf (pc : Pc) : Word := pc.setWidth 64 + 8

/-- The target of BRA and CALL (R80). -/
def relTarget (pc : Pc) (imm : BitVec 32) : Word := pc.setWidth 64 + 8 * imm.signExtend 64

/-- BRA (R80). -/
def execBra (h : Hdr) (o : OpsC) (s : State) : Res :=
  .next (perLane s h [] fun _ l => ofRd l do
    let t ← checkTarget s l.pc (relTarget l.pc o.imm) true
    pure (.done l none (some t)))

/-- BRX (R81). -/
def execBrx (h : Hdr) (o : OpsA) (s : State) : Res :=
  .next (perLane s h [o.sa] fun _ l => ofRd l do
    let a ← srcG l o.sa
    let t ← checkTarget s l.pc a true
    pure (.done l none (some t)))

/-- A jump that writes the link (R79). -/
def withLink (l : Lane) (d : Dst) (w : Bool) (t : Pc) : LaneOut :=
  .done (if w then l.setG d.gReg (linkOf l.pc) else l) (some (.gen (linkOf l.pc))) (some t)

/-- CALL (R80). -/
def execCall (h : Hdr) (o : OpsC) (s : State) : Res :=
  .next (perLane s h [] fun _ l => ofRd l do
    let t ← checkTarget s l.pc (relTarget l.pc o.imm) true
    pure (withLink l o.dst h.w t))

/-- CALLX (R81). -/
def execCallx (h : Hdr) (o : OpsA) (s : State) : Res :=
  .next (perLane s h [o.sa] fun _ l => ofRd l do
    let a ← srcG l o.sa
    let t ← checkTarget s l.pc a true
    pure (withLink l o.dst h.w t))

/-- RET (R81). -/
def execRet (h : Hdr) (o : OpsA) (s : State) : Res :=
  .next (perLane s h [o.sa] fun _ l => ofRd l do
    let a ← srcG l o.sa
    let t ← checkTarget s l.pc a false
    pure (.done l none (some t)))

/-- The target of JF (R38, R82). -/
def jfTarget (imm : BitVec 32) : Word := .cast (by rfl) (0#47 ++ imm.extractLsb' 3 14 ++ 0#3)

/-- JF, with a link where W = 1 (R82). -/
def execJf (h : Hdr) (o : OpsC) (s : State) : Res :=
  .next (perLane s h [] fun _ l => ofRd l do
    let t ← checkTarget s l.pc (jfTarget o.imm) false
    pure (withLink l o.dst h.w t))

/-- A flight whose every lane has exited leaves its slot (R127). -/
def leaveSlot (f : Flight) : Flight := if f.alive = 0 then { f with slot := none, run := none } else f

/-- The flight after lanes of it have exited (R83, R127, R135, R142, R326). -/
def afterExit (f : Flight) (gone : LaneSet) (now : Nat) : Flight :=
  leaveSlot ((leaveIfEmpty (strikeExited f gone)).settled now)

/-- EXIT (R83). -/
def execExit (h : Hdr) (_ : OpsA) (s : State) : Res :=
  let outs := laneOuts s h fun _ l => .done { l with st := .exited } none none
  let s1 := finish s h.e false false outs
  .next { s1 with fl := afterExit s1.fl (doneOf outs) (ccountOf s s.fl.id.die).toNat }

/-- NOP (R84). -/
def execNop (h : Hdr) (_ : OpsA) (s : State) : Res := .next (perLane s h [] fun _ l => retNone l)

/-- TRAP n (R91). -/
def execTrap (h : Hdr) (o : OpsB) (s : State) : Res :=
  .next (perLane s h [] fun _ l => .trap l none (lt5 .softwareTrap ((o.imm.extractLsb' 0 12).setWidth 64)))

end Sys2Proof.Machine
end

