-- ==== Sys2Proof/Machine/System.lean ====
section
/-! DEFINITION. System registers and their reads and writes: R10 to R14, R89, R90, R126, R273, R323, R353, R366, R374. -/

namespace Sys2Proof.Machine

/-- MODE (R12). -/
def modeWord (f : Flight) : Word :=
  .cast (by rfl) (0#61 ++ BitVec.ofBool f.hnd ++ BitVec.ofBool f.priv ++ BitVec.ofBool f.mm)

/-- Lines of main memory after `a` retirements (R354). -/
def lineCapacity (a : Nat) : Nat := (8 - a) * 0x180000000 / 8

/-- Retirements as the line capacity counts them: one in progress counts (R355). -/
def retirements (s : State) : Nat := s.anneal.count.toNat + s.anneal.act.toNat

/-- MCAP (R353). -/
def mcapWord (s : State) : Word := BitVec.ofNat 64 (64 * lineCapacity (retirements s))

/-- A stack field of APHASE (R353): zero while it is not valid, as the reads of the example of R355 and of its programming note
show (0x50 with RET1 and RET2 not valid, 0x201 with STK and RET2 not valid). -/
def aphaseField (valid : Bool) (x : BitVec 3) : BitVec 3 := if valid then x else 0

/-- APHASE (R353). -/
def aphaseWord (s : State) : Word :=
  let a := s.anneal
  .cast (by rfl) (0#50 ++ aphaseField (decide (2 ≤ a.count.toNat)) a.ret2 ++
    aphaseField (decide (1 ≤ a.count.toNat)) a.ret1 ++ aphaseField a.act a.stk ++ BitVec.ofBool a.act ++ 0#2 ++ a.count)

/-- ASWEEP (R353). -/
def asweepWord (s : State) : Word := .cast (by rfl) (s.anneal.total ++ s.anneal.next)

/-- An entry of the group table in force (R367). -/
def groupEntry (s : State) (p : Nat) : Word := assocGet 0 s.group p

/-- The packages of the connected group, in ascending order (R366, R367). -/
def groupMembers (s : State) : List Nat := (List.range 1024).filter (fun p => (groupEntry s p).getLsbD 63)

/-- PODGEN (R366). -/
def podgenWord (s : State) : Word := .cast (by rfl) (0#21 ++ BitVec.ofNat 11 (groupMembers s).length ++ s.podgen)

/-- ERRQHEAD (R374). -/
def errqheadWord (c : Context) : Word := .cast (by rfl) (0#15 ++ c.eqCount ++ c.eqDrops ++ c.eqHead)

/-- The value of a system register as a lane reads it (R10, R89). -/
def sysRead (s : State) (k : LaneId) (l : Lane) (n : Nat) : Word :=
  let f := s.fl
  match n with
  | 0x000 => 32
  | 0x001 => 5
  | 0x002 => BitVec.ofNat 64 k.val
  | 0x003 => BitVec.ofNat 64 f.id.fnum
  | 0x004 => BitVec.ofNat 64 f.id.core
  | 0x005 => BitVec.ofNat 64 (f.id.core / 8)
  | 0x006 => BitVec.ofNat 64 f.id.die
  | 0x007 => s.host.pkgnum.setWidth 64
  | 0x008 => f.ctx.setWidth 64
  | 0x010 => f.level.setWidth 64
  | 0x011 => f.rootlvl.setWidth 64
  | 0x012 => f.teamidx
  | 0x013 => f.teamcnt
  | 0x014 => f.ginst.setWidth 64
  | 0x020 => modeWord f
  | 0x021 => l.repcnt
  | 0x022 => f.dphase.setWidth 64
  | 0x023 => ccountOf s f.id.die
  | 0x030 => f.fpctl.setWidth 64
  | 0x031 => l.fpstat.setWidth 64
  | 0x032 => f.ictl.setWidth 64
  | 0x033 => l.istat.setWidth 64
  | 0x040 => f.tcause.setWidth 64
  | 0x041 => f.tmask.setWidth 64
  | 0x042 => l.temask
  | 0x043 => f.tpc.setWidth 64
  | 0x044 => f.tinsn
  | 0x045 => l.tval
  | 0x046 => f.tvec
  | 0x050 => f.merr
  | 0x051 => f.merrxy
  | 0x060 => mcapWord s
  | 0x061 => aphaseWord s
  | 0x062 => asweepWord s
  | 0x070 => podgenWord s
  | 0x080 => errqheadWord (ctxOf s f.ctx)
  | 0x081 => f.rflat
  | _ => 0

/-- MFS (R89). -/
def execMfs (h : Hdr) (o : OpsB) (s : State) : Res :=
  .next (perLane s h [] fun k l => retG l o.dst h.w (sysRead s k l (o.imm.extractLsb' 0 12).toNat))

/-- A class S register (R10). -/
def sysPrivileged (n : Nat) : Bool := decide (n = 0x021) || (decide (0x040 ≤ n) && decide (n ≤ 0x045))

/-- A register held per lane that MTS may write (R10). -/
def sysPerLane (n : Nat) : Bool := [0x021, 0x031, 0x033, 0x042, 0x045].contains n

/-- A class C register (R10). -/
def sysClears (n : Nat) : Bool := [0x050, 0x051, 0x081].contains n

/-- Bits of the value at or above `n` are zero. -/
def below (v : Word) (n : Nat) : Bool := decide (v.toNat < 2 ^ n)

/-- The value is one that the register allows (R29, R69, R90, R106, R107, R323). -/
def sysAllowed (n : Nat) (v : Word) : Bool :=
  match n with
  | 0x021 =>
    let done := (v.extractLsb' 8 7).toNat
    let remain := (v.extractLsb' 0 7).toNat
    below v 15 && !v.getLsbD 7 && decide (done ≤ 63) && decide (done + remain ≤ 64) && (remain != 0 || done == 0)
  | 0x022 => below v 6
  | 0x030 => below v 8 && decide ((v.extractLsb' 0 3).toNat ≤ 4)
  | 0x031 => below v 5
  | 0x032 => below v 2
  | 0x033 => below v 3
  | 0x040 => below v 10 && (v.extractLsb' 0 8 == 0 || (Cause.ofCode (v.extractLsb' 0 8)).isSome)
  | 0x041 => below v 32
  | 0x043 => below v 17 && v.extractLsb' 0 3 == 0
  | 0x046 => below v 48 && v.extractLsb' 17 15 == 0 && v.extractLsb' 1 2 == 0
  | _ => true

/-- A lane after MTS of a register held per lane (R29, R90). -/
def sysWriteLane (l : Lane) (n : Nat) (v : Word) : Lane :=
  match n with
  | 0x021 => { l with done := v.extractLsb' 8 7, remain := v.extractLsb' 0 7,
                      repInt := v.extractLsb' 0 7 != 0, repCont := false, repFin := false }
  | 0x031 => { l with fpstat := v.extractLsb' 0 5 }
  | 0x033 => { l with istat := v.extractLsb' 0 3 }
  | 0x042 => { l with temask := v }
  | 0x045 => { l with tval := v }
  | _ => l

/-- The state after MTS of a register with another holder (R90). -/
def sysWrite (s : State) (n : Nat) (v : Word) : State :=
  let f := s.fl
  match n with
  | 0x022 => { s with fl := { f with dphase := v.extractLsb' 0 6 } }
  | 0x030 => { s with fl := { f with fpctl := v.extractLsb' 0 8 } }
  | 0x032 => { s with fl := { f with ictl := v.extractLsb' 0 2 } }
  | 0x040 => { s with fl := { f with tcause := v.extractLsb' 0 10 } }
  | 0x041 => { s with fl := { f with tmask := v.extractLsb' 0 32 } }
  | 0x043 => { s with fl := { f with tpc := v.extractLsb' 0 17 } }
  | 0x044 => { s with fl := { f with tinsn := v } }
  | 0x046 => setCtx { s with fl := { f with tvec := v } } f.ctx { ctxOf s f.ctx with tvec := v }
  | 0x050 => { s with fl := { f with merr := 0 } }
  | 0x051 => { s with fl := { f with merrxy := 0 } }
  | 0x081 => { s with fl := { f with rflat := 0 } }
  | _ => s

/-- MTS of a register held per lane: each executing lane writes its own value (R90). -/
def mtsLanes (s : State) (h : Hdr) (o : OpsB) (n : Nat) : State :=
  perLane s h [o.sa] fun _ l => ofRd l do
    let a ← srcG l o.sa
    if sysAllowed n a then pure (retNone (sysWriteLane l n a)) else .error (lt5 .illegal 0)

/-- The value that MTS checks and writes (R90): that of the highest-numbered lane of Active, where that lane reads it. -/
def mtsValue (outs : Vector LaneOut 32) (a : LaneSet) (read : LaneId → Rd Word) : Option Word :=
  match highest a with
  | none => none
  | some k =>
    match outs.get k, read k with
    | .done _ _ _, .ok v => some v
    | _, _ => none

/-- MTS of a register with another holder: the value of the highest-numbered lane of Active is checked and written, and no
other lane's is (R90). -/
def mtsShared (s : State) (h : Hdr) (o : OpsB) (n : Nat) : State :=
  let outs := laneOuts s h fun _ l => ofRd l do
    let _ ← srcG l o.sa
    pure (retNone l)
  let s1 := { s with fl := { s.fl with rflat := logUnread s h [o.sa] (fun _ _ _ => true) } }
  match mtsValue outs (active s h) (fun k => srcG (s.fl.lane k) o.sa) with
  | none => finish s1 h.e false false outs
  | some v =>
    if sysClears n || sysAllowed n v then finish (sysWrite s1 n v) h.e false false outs
    else
      finish s1 h.e false false (tab fun k =>
        match outs.get k with
        | .done l x _ => .trap l x (lt5 .illegal 0)
        | r => r)

/-- MTS (R11, R90). -/
def execMts (h : Hdr) (o : OpsB) (s : State) : Res :=
  let n := (o.imm.extractLsb' 0 12).toNat
  if sysPrivileged n && !s.fl.priv then .next (wordTrap s 3 .priv 0 false)
  else if sysPerLane n then .next (mtsLanes s h o n)
  else .next (mtsShared s h o n)

end Sys2Proof.Machine
end

