-- ==== Sys2Proof/Machine/Memory.lean ====
section
/-! DEFINITION. Addresses, owner tags, buffers and translation: R15, R39, R194, R195, R201 to R206, R211 to R213, R220,
R221, R235, R237. -/

namespace Sys2Proof.Machine

/-! On-chip spaces. -/

/-- The flat address of byte 0 of a space as a flight reaches it (R193). -/
def spaceBase (f : FlightId) (sp : MSpace) : Nat :=
  match sp with
  | .h => hallKey f.coreNo 0
  | .g => galleryKey f.clusterNo 0
  | .z => mezzKey f.die 0
  | _ => 0

/-- The end of the range that a flight may address in an on-chip space (R15, R194). -/
def spaceEnd (priv : Bool) (sp : MSpace) : Nat :=
  match sp with
  | .h => 0x60000
  | .g => 0x600000
  | _ => if priv then 0xA000000 else 0x8000000

/-- What the checks of one element of an access give: the flat address of its bytes, the trap's cause and TVAL, a failed
translation (R205), a line whose data is absent (R198), or a peer's bytes (R370). -/
inductive Probe where
  | at_ (key : Nat)
  | trap (c : Cause) (v : Word)
  | fault (kind : Nat) (va : BitVec 48)
  | absent (line : Nat)
  | far (peer : BitVec 10) (pctx : BitVec 6) (pbuf : BitVec 12) (off : Nat)
deriving DecidableEq, Repr

/-- One element of an access: its place in the value, its bytes, its address or handle, and whether its offset left the
handle's 52 bits (R39). -/
structure Elem where
  pos : Nat
  len : Nat
  addr : Word
  out : Bool
deriving DecidableEq, Repr

/-- The first byte of an access at or above a bound (R15, R194). -/
def firstOut (addr : Word) (bound : Nat) : Word := if bound ≤ addr.toNat then addr else BitVec.ofNat 64 bound

/-- A line is tagged with another context (R195). -/
def foreign (s : State) (f : Flight) (line : Nat) : Bool :=
  !f.priv && (match (lineSt s line).owner with | some c => decide (c ≠ f.ctx) | none => false)

/-- The checks of an on-chip element (R15, R194, R195, R211): bounds, alignment, owner tag. `present`: the element waits
for its line (R198). -/
def probeChip (s : State) (f : Flight) (sp : MSpace) (e : Elem) (present : Bool) : Probe :=
  let bound := spaceEnd f.priv sp
  if bound < e.addr.toNat + e.len then .trap .bounds (firstOut e.addr bound)
  else if e.addr.toNat % e.len ≠ 0 then .trap .align e.addr
  else
    let key := spaceBase f.id sp + e.addr.toNat
    if foreign s f (lineOf key) then .trap .owner (e.addr &&& ~~~0x3F#64)
    else if present && !(lineSt s (lineOf key)).p then .absent (lineOf key)
    else .at_ key

/-- The checks of a space-N address (R235): bounds, alignment, the owner tag of the peer's line. -/
def probePeer (s : State) (f : Flight) (e : Elem) : Probe :=
  let core := (e.addr.extractLsb' 48 8).toNat
  let a := (e.addr.extractLsb' 0 19).toNat
  if e.addr.extractLsb' 56 8 ≠ 0 ∨ e.addr.extractLsb' 19 29 ≠ 0 ∨ 48 ≤ core ∨ 0x60000 ≤ a then .trap .bounds e.addr
  else if 0x60000 < a + e.len then .trap .bounds (e.addr - BitVec.ofNat 64 a + 0x60000)
  else if a % e.len ≠ 0 then .trap .align e.addr
  else
    let key := hallKey (f.id.die * 48 + core) a
    if foreign s f (lineOf key) then .trap .owner (e.addr &&& ~~~0x3F#64) else .at_ key

/-! Tables in main memory. -/

/-- The old or the new copy of a table word list (R203): where the cached copy differs from memory, either; log entry 4. -/
def eitherCopy (s : State) (key : Nat) (cached : Option (List Word)) (now : List Word) : List Word :=
  match cached with
  | none => now
  | some old => if old = now then now else if Config.cachedOld s.fresh key then old else now

/-- A line of main memory or the cellar is poisoned (R215). -/
def poisoned (s : State) (key : Nat) : Bool := s.poison.contains (lineOf key)

/-- Address of a context's table (R380): PTROOT, BTAB, STAB. -/
def ptRoot (c : Context) : Nat := ((c.word 0).extractLsb' 0 48).toNat
def bufTable (c : Context) : Nat := ((c.word 1).extractLsb' 0 48).toNat
def scopeTable (c : Context) : Nat := ((c.word 2).extractLsb' 0 48).toNat

/-- A buffer entry (R201). -/
structure BufEntry where
  v : Bool
  rd : Bool
  wr : Bool
  at_ : Bool
  rem : Bool
  il : BitVec 3
  stk : BitVec 3
  vbase : Nat
  owner : BitVec 6
  len : Nat
  peer : BitVec 10
  pctx : BitVec 6
  pbuf : BitVec 12
deriving DecidableEq, Repr

/-- The four words of a buffer entry, and what makes it count as having V = 0 (R201). -/
def BufEntry.ofWords (w0 w1 w2 w3 : Word) : BufEntry :=
  let rem := w0.getLsbD 59
  let il := w0.extractLsb' 56 3
  let vbase := (w0.extractLsb' 0 48).toNat
  let len := (w1.extractLsb' 0 48).toNat
  let bad := w0.extractLsb' 48 5 ≠ 0 ∨ w1.extractLsb' 48 10 ≠ 0 ∨ w2.extractLsb' 48 16 ≠ 0 ∨ w2.extractLsb' 0 20 ≠ 0 ∨
    w3 ≠ 0 ∨ 2 ^ 48 < vbase + len ∨ 4 ≤ il.toNat ∨ (w0.extractLsb' 53 3 ≠ 0 ∧ il ≠ 3) ∨ vbase % 64 ≠ 0 ∨
    (vbase ≠ 0 ∧ rem = true) ∨ (w2.extractLsb' 38 10 ≠ 0 ∧ rem = false)
  { v := w0.getLsbD 63 && !decide bad, rd := w0.getLsbD 62, wr := w0.getLsbD 61, at_ := w0.getLsbD 60, rem := rem,
    il := il, stk := w0.extractLsb' 53 3, vbase := vbase, owner := w1.extractLsb' 58 6, len := len,
    peer := w2.extractLsb' 38 10, pctx := w2.extractLsb' 32 6, pbuf := w2.extractLsb' 20 12 }

/-- Flat address of a buffer entry (R201). -/
def bufKey (s : State) (ctx : BitVec 6) (i : Nat) : Nat := mainKey (bufTable (ctxOf s ctx) + 32 * i)

/-- A buffer entry of a context (R201, R203). -/
def bufEntry (s : State) (ctx : BitVec 6) (i : Nat) : BufEntry :=
  let key := bufKey s ctx i
  match eitherCopy s key ((ctxOf s ctx).bufCache.lookup i) (readWords s key 4) with
  | [w0, w1, w2, w3] => BufEntry.ofWords w0 w1 w2 w3
  | _ => BufEntry.ofWords 0 0 0 0

/-- The buffer index and the offset of a handle (R39). -/
def handleBuf (h : Word) : Nat := (h.extractLsb' 52 12).toNat
def handleOff (h : Word) : Nat := (h.extractLsb' 0 52).toNat

/-- A handle with an amount added to its offset, and whether the sum left the 52 bits (R39). -/
def handleAdd (h : Word) (d : Int) : Word × Bool :=
  let sum : Int := (handleOff h : Int) + d
  (.cast (by rfl) (h.extractLsb' 52 12 ++ BitVec.ofInt 52 sum), decide (sum < 0) || decide (2 ^ 52 ≤ sum))

/-! Translation (R204 to R206). -/

/-- The levels of the walk (R204): number, lowest VA bit, bits of the index, bytes of the next table. -/
def walkLevels : List (Nat × Nat × Nat × Nat) := [(1, 39, 9, 4096), (2, 30, 9, 4096), (3, 21, 9, 256), (4, 16, 5, 1)]

/-- What a walk ends in: the leaf's level, address and entry, or the fault kind (R205). -/
inductive Walk where
  | leaf (lvl at_ : Nat) (e : Word)
  | fail (kind : Nat)
deriving DecidableEq, Repr

/-- A page-table entry at a byte address (R203, R204). -/
def pteAt (s : State) (ctx : BitVec 6) (a : Nat) : Word :=
  match eitherCopy s (mainKey a) (((ctxOf s ctx).pteCache.lookup a).map fun w => [w]) [readWord s (mainKey a)] with
  | [w] => w
  | _ => 0

/-- The walk from a table (R204, R205): the kinds of one entry, the lowest first. -/
def walkFrom (s : State) (ctx : BitVec 6) (va : Nat) (table : Nat) : List (Nat × Nat × Nat × Nat) → Walk
  | [] => .fail 1
  | (lvl, lo, bits, next) :: rest =>
    let a := table + 8 * (va / 2 ^ lo % 2 ^ bits)
    let e := pteAt s ctx a
    if lineCapacity (retirements s) ≤ a / 64 then .fail 6
    else if poisoned s (mainKey a) then .fail 9
    else if !pteV e then .fail 1
    else if pteLf e && lvl != 1 then .leaf lvl a e
    else if lvl = 4 then .fail 1
    else if e.extractLsb' 48 9 ≠ 0 ∨ pteCl e = 3 then .fail 2
    else if pteLf e then .fail 8
    else if pteAddr e % next ≠ 0 then .fail 2
    else walkFrom s ctx va (pteAddr e) rest

/-- Capacity of a cellar device in frames (R3, R389). -/
def cellarFrames (s : State) (cl : Nat) : Nat :=
  match cl with
  | 0 => 0x1000000
  | 1 => (s.expanders.get 0).units.toNat
  | 2 => (s.expanders.get 1).units.toNat
  | _ => 0

/-- The expander port behind a cellar device is lost (R390). -/
def portLost (s : State) (cl : Nat) : Bool :=
  match cl with
  | 1 => (s.expanders.get 0).lost
  | 2 => (s.expanders.get 1).lost
  | _ => false

/-- The fault kind of a leaf, 0 when it has none (R205). `F` is the frame that the access reaches. -/
def leafKind (s : State) (b : BufEntry) (lvl : Nat) (e : Word) (frame : Nat) : Nat :=
  if e.extractLsb' 48 9 ≠ 0 ∨ pteCl e = 3 ∨ pteAddr e % 65536 ≠ 0 ∨ pteFrame e % leafFrames lvl ≠ 0 ∨
      (pteCl e ≠ 0 ∧ pteTr e = false) then 2
  else if lvl ≠ 4 ∧ b.il = 3 then 3
  else if b.il = 3 ∧ pteFrame e % 8 ≠ b.stk.toNat then 4
  else if pteTr e = false ∧ pteKnd e ≠ decide (2 ≤ b.il.toNat) then 5
  else if pteTr e = false ∧ lineCapacity (retirements s) / 1024 ≤ frame then 6
  else if pteTr e = true ∧ cellarFrames s (pteCl e) ≤ frame then 6
  else if pteTr e = true ∧ b.il = 3 then 7
  else 0

/-- A translated byte: its flat address, or why not (R204 to R206); `true` marks a page that is unavailable (R202). -/
inductive Trans where
  | fail (kind : Nat)
  | page (key : Nat) (ua : Bool) (tier : Option Nat) (leaf : Nat)
deriving DecidableEq, Repr

/-- The translation of a byte of a buffer (R204 to R206, R390). -/
def translate (s : State) (ctx : BitVec 6) (b : BufEntry) (va : Nat) : Trans :=
  match walkFrom s ctx va (ptRoot (ctxOf s ctx)) walkLevels with
  | .fail k => .fail k
  | .leaf lvl a e =>
    let frame := pteFrame e + va / 65536 % leafFrames lvl
    let k := leafKind s b lvl e frame
    if k ≠ 0 then .fail k
    else if pteTr e then .page (cellarKey (pteCl e) (65536 * frame + va % 65536)) (pteUa e || portLost s (pteCl e))
        (some (pteCl e)) a
    else .page (mainKey (64 * placeLine frame (va % 65536) b.il + va % 64)) (pteUa e) none a

/-- The rights of a buffer (R201). -/
inductive Right where
  | rd | wr | at_
deriving DecidableEq, Repr

/-- The entry has a right. -/
def BufEntry.allows (b : BufEntry) : Right → Bool
  | .rd => b.rd
  | .wr => b.wr
  | .at_ => b.at_

/-- The first faulting byte of a buffer access that fails check 1 (R202). -/
def firstBeyond (b : BufEntry) (h : Word) : Word :=
  if !b.v || decide (b.len ≤ handleOff h) then h else .cast (by rfl) (h.extractLsb' 52 12 ++ BitVec.ofNat 52 b.len)

/-- Checks 1 to 5 of R202 of one element for a context; `none` when they pass. `far`: space X. -/
def bufChecks (b : BufEntry) (ctx : BitVec 6) (far : Bool) (r : Right) (e : Elem) (aligned : Bool) :
    Option (Cause × Word) :=
  if e.out then some (.bounds, e.addr)
  else if !b.v || decide (b.len < handleOff e.addr + e.len) then some (.bounds, firstBeyond b e.addr)
  else if !aligned then some (.align, e.addr)
  else if b.owner ≠ ctx then some (.owner, e.addr)
  else if b.rem ≠ far then some (.space, e.addr)
  else if !b.allows r then some (.rights, e.addr)
  else none

/-- The checks of one element of an access to space M for a context, up to check 7 (R202). -/
def probeMain (s : State) (ctx : BitVec 6) (r : Right) (e : Elem) (aligned : Bool) : Probe :=
  if poisoned s (bufKey s ctx (handleBuf e.addr)) then .trap .memPoison e.addr
  else
    let b := bufEntry s ctx (handleBuf e.addr)
    match bufChecks b ctx false r e aligned with
    | some (c, v) => .trap c v
    | none =>
      let va := b.vbase + handleOff e.addr
      match translate s ctx b va with
      | .fail k => .fault k (BitVec.ofNat 48 va)
      | .page key ua _ _ => if ua then .trap .memPathLost e.addr else .at_ key

/-- The checks of one element of an access to space X at the issuer (R202, R370, R371). A peer that is not in the group or
is marked LOST is unreachable. -/
def probeFar (s : State) (ctx : BitVec 6) (r : Right) (e : Elem) (aligned : Bool) : Probe :=
  if poisoned s (bufKey s ctx (handleBuf e.addr)) then .trap .memPoison e.addr
  else
    let b := bufEntry s ctx (handleBuf e.addr)
    match bufChecks b ctx true r e aligned with
    | some (c, v) => .trap c v
    | none =>
      let g := groupEntry s b.peer.toNat
      if !g.getLsbD 63 || g.getLsbD 62 then .trap .peerUnreachable e.addr
      else .far b.peer b.pctx b.pbuf (handleOff e.addr)

/-- Sub-element j of width w bits of a vector value (R144). -/
def subWord (v : VWord) (w j : Nat) : Nat := v.toNat / 2 ^ (w * j) % 2 ^ w

/-- The bytes that an access moves in all. -/
def Acc.isVector (a : Acc) : Bool := match a.dst with | .v _ => true | _ => false

/-- The elements of an access (R93, R169, R170, R211 to R213, R235). -/
def Acc.elems (a : Acc) : List Elem :=
  match a.sp, a.kind with
  | .m, .gather | .x, .gather =>
    (List.range (64 / a.size)).map fun j =>
      let h := handleAdd a.addr ((subWord a.idx (8 * a.size) j * a.size : Nat) : Int)
      ⟨j * a.size, a.size, h.1, h.2⟩
  | _, .gather =>
    (List.range (64 / a.size)).map fun j =>
      ⟨j * a.size, a.size, a.addr + BitVec.ofNat 64 (subWord a.idx (8 * a.size) j * a.size), false⟩
  | .m, _ | .x, _ =>
    let h := handleAdd a.addr a.disp
    let first := 64 - handleOff h.1 % 64
    if a.size = 64 ∧ first < 64 then
      let h2 := handleAdd h.1 first
      [⟨0, first, h.1, h.2⟩, ⟨first, 64 - first, h2.1, h.2 || h2.2⟩]
    else [⟨0, a.size, h.1, h.2⟩]
  | _, _ => [⟨0, a.size, a.addr + BitVec.ofInt 64 a.disp, false⟩]

/-- The alignment that an element of a buffer access must have (R211 to R213): its size, or 8 bytes for a whole vector. -/
def Acc.alignedAt (a : Acc) (e : Elem) : Bool :=
  match a.kind with
  | .gather => handleOff e.addr % a.size == 0
  | _ => handleOff (handleAdd a.addr a.disp).1 % (if a.size = 64 then 8 else a.size) == 0

/-- The right that an access needs (R210, R235). -/
def Acc.right (a : Acc) (store : Bool) : Right :=
  match a.kind with
  | .atomic _ _ _ => .at_
  | _ => if store then .wr else .rd

/-- The checks of one element of an access of a flight. Loads and gathers wait for absent lines of H and G (R198). -/
def probe (s : State) (f : Flight) (a : Acc) (store : Bool) (e : Elem) : Probe :=
  match a.sp with
  | .m => probeMain s f.ctx (a.right store) e (a.alignedAt e)
  | .x => probeFar s f.ctx (a.right store) e (a.alignedAt e)
  | .n => probePeer s f e
  | sp =>
    let waits := !store && (match a.kind with | .load | .gather => true | _ => false)
    probeChip s f sp e (waits && (sp == .h || sp == .g))

/-! Scopes (R219 to R221). -/

/-- A level code resolved against LEVEL and ROOTLVL (R44, R272): `none` outside 0 to 5. -/
def resolveLevel (f : Flight) (code : BitVec 4) : Option Nat :=
  let n : Int := match code.toNat with
    | 8 => f.level.toNat
    | 9 => f.level.toNat + 1
    | 10 => f.rootlvl.toNat
    | 11 => f.level.toNat - 1
    | c => c
  if 0 ≤ n ∧ n ≤ 5 then some n.toNat else none

/-- The scope is the pod (R219). -/
def scopeIsPod (f : Flight) (scope : BitVec 6) : Bool :=
  decide (scope.toNat < 32) && resolveLevel f (scope.extractLsb' 0 4) == some 5

/-- The words of the scope-table entry that a scope code selects (R203, R220). -/
def scopeEntry (s : State) (ctx : BitVec 6) (scope : BitVec 6) : List Word :=
  let i := scope.toNat - 32
  let key := mainKey (scopeTable (ctxOf s ctx) + 32 * i)
  eitherCopy s key ((ctxOf s ctx).scopeCache.lookup i) (readWords s key 4)

/-- The mask of a scope-table entry names a core of a die (R220). -/
def scopeNames (ws : List Word) (die : Nat) : Bool :=
  let mask : Nat := (ws.getD 1 0).toNat + 2 ^ 64 * ((ws.getD 2 0).toNat + 2 ^ 64 * (ws.getD 3 0).toNat)
  mask / 2 ^ (48 * die) % 2 ^ 48 != 0

/-- A scope code selects an entry whose mask names a die that is absent (R352). -/
def scopeAbsent (s : State) (ctx : BitVec 6) (scope : BitVec 6) : Bool :=
  decide (32 ≤ scope.toNat) &&
    (List.range 4).any fun d => !(dieOf s d).present && scopeNames (scopeEntry s ctx scope) d

/-- A relative scope code that resolves outside the levels traps (R272), and so does one that selects a scope-table entry
which is not valid (R221). -/
def scopeCheck (s : State) (f : Flight) (scope : BitVec 6) : Rd Unit :=
  if scope.toNat < 32 then
    match resolveLevel f (scope.extractLsb' 0 4) with
    | some _ => .ok ()
    | none => .error (lt5 .illegal (scope.setWidth 64))
  else
    match scopeEntry s f.ctx scope with
    | w0 :: _ => if w0 = 0x8000000000000000#64 then .ok () else .error (lt5 .illegal (scope.setWidth 64))
    | [] => .error (lt5 .illegal (scope.setWidth 64))

/-! What reading a table leaves behind: cached copies (R203), storage reports (R202, R205), UA marks (R390). -/

/-- A context with a copy of a table entry, unless it holds one. -/
def noteCopy {β : Type} (k : Nat) (v : β) (m : List (Nat × β)) : List (Nat × β) :=
  if (m.lookup k).isSome then m else (k, v) :: m

/-- The state after an instruction of a flight has read its scope-table entry (R203, R220). -/
def noteScope (s : State) (f : Flight) (scope : BitVec 6) : State :=
  if scope.toNat < 32 then s
  else
    let i := scope.toNat - 32
    let c := ctxOf s f.ctx
    let words := readWords s (mainKey (scopeTable c + 32 * i)) 4
    setCtx { s with fresh := s.fresh + 1 } f.ctx { c with scopeCache := noteCopy i words c.scopeCache }

/-- Addresses of the page-table entries that a walk reads. -/
def walkReads (s : State) (ctx : BitVec 6) (va : Nat) (table : Nat) : List (Nat × Nat × Nat × Nat) → List Nat
  | [] => []
  | (lvl, lo, bits, _) :: rest =>
    let a := table + 8 * (va / 2 ^ lo % 2 ^ bits)
    let e := pteAt s ctx a
    if lineCapacity (retirements s) ≤ a / 64 then []
    else if poisoned s (mainKey a) || !pteV e || (pteLf e && lvl != 1) || lvl == 4 then [a]
    else a :: walkReads s ctx va (pteAddr e) rest

/-- A storage error reported to the host (R333, R388): die, address and space. -/
def storageEvent (s : State) (die : Nat) (addr space : Nat) : State :=
  pushEvent s (eventRecord evStorage Cause.memPoison.code 0 ⟨die, 0, 0⟩ (BitVec.ofNat 64 addr) (BitVec.ofNat 64 space)
    (ccountOf s die))

/-- The state `t` after the walk for a byte of a buffer, by the tables and the free choices of `s`: every entry read is
cached, a poisoned one is reported, and a leaf of a lost port is marked UA (R203, R205, R390). -/
def noteWalk (s t : State) (die : Nat) (ctx : BitVec 6) (b : BufEntry) (va : Nat) : State :=
  let s2 := (walkReads s ctx va (ptRoot (ctxOf s ctx)) walkLevels).foldl (fun t a =>
    if poisoned t (mainKey a) then storageEvent t die a 3
    else
      let c := ctxOf t ctx
      setCtx t ctx { c with pteCache := noteCopy a (readWord t (mainKey a)) c.pteCache }) t
  match translate s ctx b va with
  | .page _ _ (some cl) a =>
    if portLost s cl then writeWord s2 (mainKey a) (readWord s (mainKey a) ||| 0x0400000000000000#64) else s2
  | _ => s2

/-- The state after the tables of one handle have been read for a context on a die, by the free choices of R203 that stand:
the buffer entry, and the page table where the checks before translation let the access come to it (R202). -/
def noteTables (s : State) (die : Nat) (ctx : BitVec 6) (comes : BufEntry → Bool) (h : Word) : State :=
  let i := handleBuf h
  let key := bufKey s ctx i
  if poisoned s key then storageEvent s die key 3
  else
    let b := bufEntry s ctx i
    let c := ctxOf s ctx
    let s1 := setCtx s ctx { c with bufCache := noteCopy i (readWords s key 4) c.bufCache }
    if comes b then noteWalk s s1 die ctx b (b.vbase + handleOff h) else s1

/-- An element of an access to space M passes checks 1 to 5 of R202. -/
def passes (ctx : BitVec 6) (r : Right) (e : Elem) (aligned : Bool) (b : BufEntry) : Bool :=
  (bufChecks b ctx false r e aligned).isNone

/-- As `noteTables` of one element; the free choices of R203 move on. -/
def noteHandle (s : State) (die : Nat) (ctx : BitVec 6) (r : Right) (e : Elem) (aligned : Bool) : State :=
  { noteTables s die ctx (passes ctx r e aligned) e.addr with fresh := s.fresh + 1 }

/-- Offsets that touch every 64 KiB unit of `len` bytes from an offset on. -/
def unitOffs (d len : Nat) : List Nat :=
  if len = 0 then [] else (List.range (len / 65536 + 1)).map (fun i => d + Nat.min (65536 * i) (len - 1)) ++ [d + (len - 1)]

/-- A range of a buffer of space M or X that an agent of a context reads or writes. -/
structure BufRange where
  right : Right
  far : Bool
  h : Word
  off : Nat
  len : Nat
deriving DecidableEq, Repr

/-- The state after the tables of ranges of buffers have been read; one set of free choices stands for all of them. -/
def noteRanges (s : State) (die : Nat) (ctx : BitVec 6) (rs : List BufRange) : State :=
  if rs.isEmpty then s
  else
    { rs.foldl (fun s r =>
        (unitOffs r.off r.len).foldl (fun s d =>
          let x := handleAdd r.h (d : Int)
          noteTables s die ctx (fun b => !r.far && passes ctx r.right ⟨0, 1, x.1, x.2⟩ true b) x.1) s) s
      with fresh := s.fresh + 1 }

/-- An access reads tables (R201, R204). -/
def Acc.tabled (a : Acc) : Bool := a.sp == .m || a.sp == .x

/-- The state after an access of a flight has read the tables of its elements: the page table for those of space M that pass
checks 1 to 5 (R202). -/
def noteElems (s : State) (f : Flight) (store : Bool) (a : Acc) : State :=
  if a.tabled then
    a.elems.foldl (fun s e =>
      noteTables s f.id.die f.ctx (fun b => a.sp == .m && passes f.ctx (a.right store) e (a.alignedAt e) b) e.addr) s
  else s

/-- The state after accesses of a flight have read their tables: the free choices of R203 move on. -/
def noteAccs (s : State) (f : Flight) (store : Bool) (as : List Acc) : State :=
  if as.any Acc.tabled then { as.foldl (fun s a => noteElems s f store a) s with fresh := s.fresh + 1 } else s

/-- As `noteAccs`, of one load or atomic. -/
def noteAcc (s : State) (f : Flight) (a : Acc) : State := noteAccs s f false [a]

end Sys2Proof.Machine
end

