-- ==== Sys2Proof/Machine/FpNum.lean ====
section
/-! DEFINITION. Number formats, exact results and rounding: R94 to R105, R109, R110. -/

namespace Sys2Proof.Machine

/-- A value of a floating format (R95 to R97): NaN, signaling or quiet; infinity; or (−1)^neg × m × 2^e. -/
inductive Num where
  | nan (sig : Bool)
  | inf (neg : Bool)
  | fin (neg : Bool) (m : Nat) (e : Int)
deriving DecidableEq, Repr

/-- A floating format (R95, R97, R98): width, sign bit, significand bits with the implicit one, bias, infinities, the
magnitude codes of the largest finite value and of infinity, the canonical NaN. -/
structure Fmt where
  w : Nat
  sgn : Bool
  p : Nat
  bias : Int
  inf : Bool
  ieee : Bool
  top : Nat
  infCode : Nat
  nan : Nat
deriving DecidableEq, Repr

/-- The flags in FPSTAT's bit positions (R107). -/
def flIV : BitVec 5 := 1
def flDZ : BitVec 5 := 2
def flOF : BitVec 5 := 4
def flUF : BitVec 5 := 8
def flIX : BitVec 5 := 16

/-- The format of a type code, with the precision of a binary8 type (R95, R97, R98). -/
def fmtOf (ty : Ty) (p : Nat) : Fmt :=
  match ty with
  | .fp64 => ⟨64, true, 53, 1023, true, true, 0x7FEFFFFFFFFFFFFF, 0x7FF0000000000000, 0x7FF8000000000000⟩
  | .fp32 => ⟨32, true, 24, 127, true, true, 0x7F7FFFFF, 0x7F800000, 0x7FC00000⟩
  | .fp16 => ⟨16, true, 11, 15, true, true, 0x7BFF, 0x7C00, 0x7E00⟩
  | .bf16 => ⟨16, true, 8, 127, true, true, 0x7F7F, 0x7F80, 0x7FC0⟩
  | .b8s => ⟨8, true, p, 2 ^ (7 - p), true, false, 0x7E, 0x7F, 0x80⟩
  | .b8sf => ⟨8, true, p, 2 ^ (7 - p), false, false, 0x7F, 0x80, 0x80⟩
  | .b8u => ⟨8, false, p, 2 ^ (8 - p), true, false, 0xFD, 0xFE, 0xFF⟩
  | _ => ⟨8, false, p, 2 ^ (8 - p), false, false, 0xFE, 0xFF, 0xFF⟩

/-- The value of a magnitude code (R95, R97): m × 2^e. -/
def Fmt.mag (f : Fmt) (code : Nat) : Nat × Int :=
  let fb := f.p - 1
  let field := code / 2 ^ fb
  let frac := code % 2 ^ fb
  if field = 0 then (frac, 1 - f.bias - fb) else (2 ^ fb + frac, field - f.bias - fb)

/-- The value of a code (R95 to R97). -/
def Fmt.decode (f : Fmt) (bits : Nat) : Num :=
  let c := bits % 2 ^ f.w
  let neg := f.sgn && decide (2 ^ (f.w - 1) ≤ c)
  let code := if f.sgn then c % 2 ^ (f.w - 1) else c
  if f.ieee then
    if f.infCode < code then .nan (decide (code / 2 ^ (f.p - 2) % 2 = 0))
    else if code = f.infCode then .inf neg
    else .fin neg (f.mag code).1 (f.mag code).2
  else if c = f.nan then .nan false
  else if f.inf && decide (code = f.infCode) then .inf neg
  else .fin neg (f.mag code).1 (f.mag code).2

/-- The code of a sign and a magnitude code (R95, R97). -/
def Fmt.encode (f : Fmt) (neg : Bool) (code : Nat) : Nat :=
  if f.sgn && neg then (if code = 0 && !f.ieee then 0 else 2 ^ (f.w - 1) + code) else code

/-- The exact result of an operation (R101, R109): the canonical NaN and whether IV is raised; infinity and whether DZ is;
a zero; the zero of a sum whose sign the rounding decides; or (−1)^neg × n / d, or its root. -/
inductive Val where
  | nan (iv : Bool)
  | inf (neg dz : Bool)
  | zero (neg : Bool)
  | cancel
  | real (neg : Bool) (n d : Nat) (root : Bool)
deriving DecidableEq, Repr

/-- The exact value (−1)^neg × m × 2^e. -/
def Val.dyadic (neg : Bool) (m : Nat) (e : Int) : Val :=
  if m = 0 then .zero neg
  else if 0 ≤ e then .real neg (m * 2 ^ e.toNat) 1 false else .real neg m (2 ^ (-e).toNat) false

/-- A decoded value as an exact one: a NaN is canonical, with IV if signaling (R109, R119). -/
def Num.val : Num → Val
  | .nan sig => .nan sig
  | .inf neg => .inf neg false
  | .fin neg m e => .dyadic neg m e

/-- The roundings of R104: FPCTL.RND codes 0 to 4. -/
inductive Rnd where
  | rne | rtz | rdn | rup | dith
deriving DecidableEq, Repr

/-- The rounding of an FPCTL.RND code (R107). -/
def Rnd.ofCode (c : Nat) : Rnd :=
  match c with
  | 0 => .rne | 1 => .rtz | 2 => .rdn | 3 => .rup | _ => .dith

/-- The rounding of an RM field (R36, R104). -/
def roundingOf (f : Flight) (rm : BitVec 3) : Rnd :=
  if rm = 0 then .ofCode (f.fpctl.extractLsb' 0 3).toNat else .ofCode (rm.toNat - 1)

/-- The dither matrix D (R105). -/
def ditherRow (r : Nat) : List Nat :=
  match r % 8 with
  | 0 => [0, 32, 8, 40, 2, 34, 10, 42]
  | 1 => [48, 16, 56, 24, 50, 18, 58, 26]
  | 2 => [12, 44, 4, 36, 14, 46, 6, 38]
  | 3 => [60, 28, 52, 20, 62, 30, 54, 22]
  | 4 => [3, 35, 11, 43, 1, 33, 9, 41]
  | 5 => [51, 19, 59, 27, 49, 17, 57, 25]
  | 6 => [15, 47, 7, 39, 13, 45, 5, 37]
  | _ => [63, 31, 55, 23, 61, 29, 53, 21]

/-- The dither threshold (D[r mod 8][c mod 8] + φ) mod 64 (R105). -/
def ditherAt (phase : BitVec 6) (r c : Nat) : Nat := ((ditherRow r).getD (c % 8) 0 + phase.toNat) % 64

/-- The integer root, bit by bit from bit `k` − 1 down; `r` is what the higher bits give. -/
def rootFrom (n : Nat) : Nat → Nat → Nat
  | 0, r => r
  | k + 1, r => rootFrom n k (if (r + 2 ^ k) * (r + 2 ^ k) ≤ n then r + 2 ^ k else r)

/-- The floor of the square root. -/
def intRoot (n : Nat) : Nat := rootFrom n (n.log2 / 2 + 1) 0

/-- Floor of (n / d) × 2^s, or of its root times 2^s, and whether that is not exact. -/
def scaledFloor (n d : Nat) (root : Bool) (s : Int) : Nat × Bool :=
  let s2 : Int := if root then 2 * s else s
  let a := if 0 ≤ s2 then n * 2 ^ s2.toNat else n
  let b := if 0 ≤ s2 then d else d * 2 ^ (-s2).toNat
  let q := a / b
  if root then (intRoot q, decide (a % b ≠ 0) || decide (intRoot q * intRoot q ≠ q)) else (q, decide (a % b ≠ 0))

/-- Floor of the base-2 logarithm of n / d, or of its root. -/
def log2Floor (n d : Nat) (root : Bool) : Int :=
  let k : Int := (n.log2 : Int) - d.log2
  let below := if 0 ≤ k then decide (n < d * 2 ^ k.toNat) else decide (n * 2 ^ (-k).toNat < d)
  let l := if below then k - 1 else k
  if root then l / 2 else l

/-- Whether a magnitude between grid points rounds away from zero (R101, R105): `q` is the floor of 128 times its place
between them, `more` says that it lies above q / 128, and `odd` is the parity of the lower point. -/
def roundsUp (rm : Rnd) (neg : Bool) (q : Nat) (more odd : Bool) (t : Nat) : Bool :=
  match rm with
  | .rne => decide (64 < q) || (decide (q = 64) && (more || odd))
  | .rtz => false
  | .rdn => neg
  | .rup => !neg
  | .dith => if neg then !(decide (q + 2 * t + 1 < 128) || (decide (q + 2 * t + 1 = 128) && !more))
             else decide (2 * t + 1 ≤ q)

/-- An overflow (R102, R103). -/
def Fmt.overflow (f : Fmt) (neg : Bool) (rm : Rnd) (sat : Bool) : Nat × BitVec 5 :=
  if !f.sgn && neg then (if sat then (0, flIX) else (f.nan, flIV))
  else if sat then (f.encode neg f.top, flOF ||| flIX)
  else if !f.inf then (f.nan, flOF ||| flIX)
  else
    let big := match rm with
      | .rne | .dith => true
      | .rtz => false
      | .rdn => neg
      | .rup => !neg
    (f.encode neg (if big then f.infCode else f.top), flOF ||| flIX)

/-- RoundTo of (−1)^neg × n / d, or of its root, n > 0 (R101): the code and the flags. A value that lies on the grid and is no value of
the format (2^128 toward FP32) rounds to itself, and then overflows or is invalid: DESIGN CHOICE, the prose takes lo 'not above' x and
the pseudocode takes it below x (log entry 8). Unsafe. -/
def Fmt.roundReal (f : Fmt) (neg : Bool) (n d : Nat) (root : Bool) (rm : Rnd) (t : Nat) (sat : Bool) : Nat × BitVec 5 :=
  let e := log2Floor n d root
  let field := max (e + f.bias) 1
  let ulp := field - f.bias - (f.p - 1 : Nat)
  let x := scaledFloor n d root (7 - ulp)
  let lo := (field - 1).toNat * 2 ^ (f.p - 1) + x.1 / 128
  let q := x.1 % 128
  let inexact := decide (q ≠ 0) || x.2
  let code := if inexact && roundsUp rm neg q x.2 (decide (lo % 2 = 1)) t then lo + 1 else lo
  let tiny := decide (e < 1 - f.bias)
  if f.top < code then f.overflow neg rm sat
  else if !f.sgn && neg && decide (code ≠ 0) then (if sat then (0, flIX) else (f.nan, flIV))
  else (f.encode neg code, if inexact then (if tiny then flIX ||| flUF else flIX) else 0)

/-- RoundTo of an exact result (R101 to R103, R109). -/
def Fmt.round (f : Fmt) (v : Val) (rm : Rnd) (t : Nat) (sat : Bool) : Nat × BitVec 5 :=
  match v with
  | .nan iv => (f.nan, if iv then flIV else 0)
  | .inf neg dz =>
    let dzf := if dz then flDZ else 0
    if !f.sgn && neg then (if sat then (0, flIX) else (f.nan, flIV))
    else if f.inf then (f.encode neg f.infCode, dzf)
    else if sat then (f.encode neg f.top, flIX) else (f.nan, flIV)
  | .zero neg => (f.encode neg 0, 0)
  | .cancel => (f.encode (rm == .rdn) 0, 0)
  | .real neg n d root => f.roundReal neg n d root rm t sat

/-- The NaN result of operands (R109), if one is a NaN. -/
def nanOf : List Num → Option Val
  | [] => none
  | .nan sig :: rest =>
    match nanOf rest with
    | some (.nan iv) => some (.nan (sig || iv))
    | _ => some (.nan sig)
  | _ :: rest => nanOf rest

/-- The signed integer of a sign and a magnitude. -/
def signedMag (neg : Bool) (m : Nat) : Int := if neg then -(m : Int) else m

/-- The exact sum of two finite values (R109). -/
def addFin (n1 : Bool) (m1 : Nat) (e1 : Int) (n2 : Bool) (m2 : Nat) (e2 : Int) : Val :=
  if m1 = 0 ∧ m2 = 0 then (if n1 = n2 then .zero n1 else .cancel)
  else
    let e := min e1 e2
    let sum := signedMag n1 (m1 * 2 ^ (e1 - e).toNat) + signedMag n2 (m2 * 2 ^ (e2 - e).toNat)
    if sum = 0 then .cancel else .dyadic (decide (sum < 0)) sum.natAbs e

/-- A + B (R109, R113). -/
def addNum (a b : Num) : Val :=
  match nanOf [a, b], a, b with
  | some v, _, _ => v
  | none, .inf n1, .inf n2 => if n1 = n2 then .inf n1 false else .nan true
  | none, .inf n1, _ => .inf n1 false
  | none, _, .inf n2 => .inf n2 false
  | none, .fin n1 m1 e1, .fin n2 m2 e2 => addFin n1 m1 e1 n2 m2 e2
  | none, _, _ => .nan true

/-- The value with its sign inverted. -/
def Num.negate : Num → Num
  | .nan sig => .nan sig
  | .inf neg => .inf !neg
  | .fin neg m e => .fin (!neg) m e

/-- A × B (R109, R113). -/
def mulNum (a b : Num) : Val :=
  match nanOf [a, b], a, b with
  | some v, _, _ => v
  | none, .inf n1, .inf n2 => .inf (n1 != n2) false
  | none, .inf n1, .fin n2 m _ => if m = 0 then .nan true else .inf (n1 != n2) false
  | none, .fin n1 m _, .inf n2 => if m = 0 then .nan true else .inf (n1 != n2) false
  | none, .fin n1 m1 e1, .fin n2 m2 e2 => .dyadic (n1 != n2) (m1 * m2) (e1 + e2)
  | none, _, _ => .nan true

/-- The product of an infinity and a zero. -/
def infTimesZero (a b : Num) : Bool :=
  match a, b with
  | .inf _, .fin _ m _ => decide (m = 0)
  | .fin _ m _, .inf _ => decide (m = 0)
  | _, _ => false

/-- A × B + C (R109, R113): ∞ × 0 is invalid also when the addend is a NaN. -/
def fmaNum (a b c : Num) : Val :=
  if infTimesZero a b then .nan true
  else
    match nanOf [a, b, c], a, b, c with
    | some v, _, _, _ => v
    | none, .fin n1 m1 e1, .fin n2 m2 e2, .fin n3 m3 e3 => addFin (n1 != n2) (m1 * m2) (e1 + e2) n3 m3 e3
    | none, .fin _ _ _, .fin _ _ _, .inf n3 => .inf n3 false
    | none, a, b, c =>
      match mulNum a b, c with
      | .inf n1 _, .inf n3 => if n1 = n3 then .inf n1 false else .nan true
      | v, _ => v

/-- A / B (R109, R113). -/
def divNum (a b : Num) : Val :=
  match nanOf [a, b], a, b with
  | some v, _, _ => v
  | none, .inf _, .inf _ => .nan true
  | none, .inf n1, .fin n2 _ _ => .inf (n1 != n2) false
  | none, .fin n1 _ _, .inf n2 => .zero (n1 != n2)
  | none, .fin n1 m1 e1, .fin n2 m2 e2 =>
    if m1 = 0 ∧ m2 = 0 then .nan true
    else if m2 = 0 then .inf (n1 != n2) true
    else if m1 = 0 then .zero (n1 != n2)
    else
      let e := e1 - e2
      if 0 ≤ e then .real (n1 != n2) (m1 * 2 ^ e.toNat) m2 false else .real (n1 != n2) m1 (m2 * 2 ^ (-e).toNat) false
  | none, _, _ => .nan true

/-- √A (R109, R113): of −0 it is −0. -/
def sqrtNum (a : Num) : Val :=
  match a with
  | .nan sig => .nan sig
  | .inf neg => if neg then .nan true else .inf false false
  | .fin neg m e =>
    if m = 0 then .zero neg
    else if neg then .nan true
    else if 0 ≤ e then .real false (m * 2 ^ e.toNat) 1 true else .real false m (2 ^ (-e).toNat) true

/-- A × 2^k (R122 to R124). Beyond 2^13 every amount overflows or underflows alike. -/
def scaleNum (a : Num) (k : Int) : Val :=
  match a with
  | .fin neg m e => .dyadic neg m (e + max (-8192) (min 8192 k))
  | _ => a.val

/-- The order of two values that are not NaN: `lt` and `eq`; −0 equals +0 (R116). -/
def Num.cmp (a b : Num) : Bool × Bool :=
  let key (x : Num) (lo : Int) : Int :=
    match x with
    | .fin neg m e => signedMag neg (m * 2 ^ (e - lo).toNat)
    | _ => 0
  match a, b with
  | .inf n1, .inf n2 => (n1 && !n2, n1 == n2)
  | .inf n1, _ => (n1, false)
  | _, .inf n2 => (!n2, false)
  | .fin n1 m1 e1, .fin n2 m2 e2 =>
    let lo := min e1 e2
    let x := key (.fin n1 m1 e1) lo
    let y := key (.fin n2 m2 e2) lo
    (decide (x < y), decide (x = y))
  | _, _ => (false, false)

/-- A value is a NaN; a signaling one. -/
def Num.isNan : Num → Bool
  | .nan _ => true
  | _ => false
def Num.isSnan : Num → Bool
  | .nan sig => sig
  | _ => false
/-- The sign of a value. -/
def Num.sign : Num → Bool
  | .inf neg => neg
  | .fin neg _ _ => neg
  | .nan _ => false

/-- A magnitude n / d rounded to an integer (R118, R120): the integer and whether it differs. -/
def roundInteger (neg : Bool) (n d : Nat) (rm : Rnd) (t : Nat) : Nat × Bool :=
  let x := scaledFloor n d false 7
  let k := x.1 / 128
  let q := x.1 % 128
  let inexact := decide (q ≠ 0) || x.2
  (if inexact && roundsUp rm neg q x.2 (decide (k % 2 = 1)) t then k + 1 else k, inexact)

/-- An integer as an exact value. -/
def intVal (x : Int) : Val := .dyadic (decide (x < 0)) x.natAbs 0

end Sys2Proof.Machine
end

