-- ==== Sys2Proof/Machine/Fp.lean ====
section
/-! DEFINITION. Floating-point flags and traps, and the scalar floating-point instructions: R106 to R108, R111 to R125. -/

namespace Sys2Proof.Machine

/-- The enable bits of FPCTL in FPSTAT's positions (R107). -/
def fpEnables (f : Flight) : BitVec 5 := f.fpctl.extractLsb' 3 5

/-- The cause and its rank for raised and enabled flags (R108). -/
def fpCause (x : BitVec 5) : Nat × Cause :=
  if x.getLsbD 0 then (0, .fpInvalid) else if x.getLsbD 1 then (1, .fpDivzero)
  else if x.getLsbD 2 then (2, .fpOverflow) else if x.getLsbD 3 then (3, .fpUnderflow) else (4, .fpInexact)

/-- The trap of a scalar result that raises flags, if one of them is enabled (R108). -/
def fpTrap (f : Flight) (fl : BitVec 5) : Option LTrap :=
  let x := fl &&& fpEnables f
  if x = 0 then none else some ⟨5, (fpCause x).1, (fpCause x).2, x.setWidth 64, 1⟩

/-- A lane with more sticky flags (R107, R108). -/
def Lane.raiseF (l : Lane) (fl : BitVec 5) : Lane := { l with fpstat := l.fpstat ||| fl }

/-- A result and its flags, in a lane (R108): FpRaise, then the general result. -/
def fpRetG (f : Flight) (l : Lane) (d : Dst) (w : Bool) (r : Nat × BitVec 5) : LaneOut :=
  match fpTrap f r.2 with
  | some t => .trap l none t
  | none => retG (l.raiseF r.2) d w (BitVec.ofNat 64 r.1)

/-- The rounding operation of a lane's scalar result (R104, R105, R112): the rounding and the dither threshold. -/
def laneRounding (s : State) (rm : BitVec 3) (k : LaneId) : Rnd × Nat := (roundingOf s.fl rm, ditherAt s.fl.dphase k.val 0)

/-- A scalar floating-point word of one source (R112). -/
def fp1 (s : State) (h : Hdr) (o : OpsA) (f : Rnd × Nat → Word → Nat × BitVec 5) : State :=
  finish { s with fl := { s.fl with rflat := logUnread s h [o.sa] (fun _ _ _ => true) } } h.e o.adv false
    (laneOuts s h fun k l => ofRd l do
      let a ← srcG l o.sa
      pure (fpRetG s.fl l o.dst h.w (f (laneRounding s o.rm k) a)))

/-- A scalar floating-point word of two sources (R112). -/
def fp2 (s : State) (h : Hdr) (o : OpsA) (f : Rnd × Nat → Word → Word → Nat × BitVec 5) : State :=
  finish { s with fl := { s.fl with rflat := logUnread s h [o.sa, o.sb] (fun _ _ _ => true) } } h.e o.adv false
    (laneOuts s h fun k l => ofRd l do
      let a ← srcG l o.sa
      let b ← srcG l o.sb
      pure (fpRetG s.fl l o.dst h.w (f (laneRounding s o.rm k) a b)))

/-- The rounded result of an operation on two values of one format. -/
def fpBin (f : Fmt) (op : Num → Num → Val) (r : Rnd × Nat) (a b : Nat) : Nat × BitVec 5 :=
  f.round (op (f.decode a) (f.decode b)) r.1 r.2 false

/-- A − B (R113). -/
def subNum (a b : Num) : Val := addNum a b.negate

/-- The value of A that compares below (R114): −0 below +0. -/
def numBelow (a b : Num) : Bool :=
  let c := a.cmp b
  c.1 || (c.2 && a.sign && !b.sign)

/-- FMIN and FMAX (R114). -/
def fpMinMax (f : Fmt) (wantMax : Bool) (a b : Nat) : Nat × BitVec 5 :=
  let x := f.decode a
  let y := f.decode b
  let fl := if x.isSnan || y.isSnan then flIV else 0
  let lowA := a % 2 ^ f.w
  let lowB := b % 2 ^ f.w
  if x.isNan && y.isNan then (f.nan, fl)
  else if x.isNan then (lowB, fl)
  else if y.isNan then (lowA, fl)
  else if wantMax then (if numBelow x y then lowB else lowA, fl)
  else (if numBelow y x then lowB else lowA, fl)

/-- FABS (R115). -/
def fpAbs (f : Fmt) (a : Nat) : Nat := a % 2 ^ (f.w - 1)

/-- FNEG (R115). -/
def fpNeg (f : Fmt) (a : Nat) : Nat := if 2 ^ (f.w - 1) ≤ a % 2 ^ f.w then a % 2 ^ (f.w - 1) else 2 ^ (f.w - 1) + a % 2 ^ f.w

/-- The truth of a condition and the flags of the comparison (R116). -/
def fpCompare (cc : BitVec 4) (x y : Num) : Bool × BitVec 5 :=
  let un := x.isNan || y.isNan
  let sn := x.isSnan || y.isSnan
  let c := x.cmp y
  match cc.toNat with
  | 0 => (!un && c.2, if sn then flIV else 0)
  | 1 => (un || !c.2, if sn then flIV else 0)
  | 2 => (!un && c.1, if un then flIV else 0)
  | 3 => (!un && (c.1 || c.2), if un then flIV else 0)
  | 4 => (!un && !(c.1 || c.2), if un then flIV else 0)
  | 5 => (!un && !c.1, if un then flIV else 0)
  | 6 => (un, if sn then flIV else 0)
  | _ => (!un, if sn then flIV else 0)

/-- A finite value is subnormal in a format. -/
def Fmt.subnormal (f : Fmt) (bits : Nat) : Bool :=
  let code := if f.sgn then bits % 2 ^ (f.w - 1) else bits % 2 ^ f.w
  decide (code < 2 ^ (f.p - 1))

/-- FCLASS (R117). -/
def fpClass (f : Fmt) (bits : Nat) : Nat :=
  match f.decode bits with
  | .nan sig => if sig then 2 ^ 8 else 2 ^ 9
  | .inf neg => if neg then 2 ^ 0 else 2 ^ 7
  | .fin neg m _ =>
    if m = 0 then (if neg then 2 ^ 3 else 2 ^ 4)
    else if f.subnormal bits then (if neg then 2 ^ 2 else 2 ^ 5) else (if neg then 2 ^ 1 else 2 ^ 6)

/-- A finite magnitude as a fraction. -/
def fraction (m : Nat) (e : Int) : Nat × Nat := if 0 ≤ e then (m * 2 ^ e.toNat, 1) else (m, 2 ^ (-e).toNat)

/-- FRND (R118). -/
def fpIntegral (f : Fmt) (r : Rnd × Nat) (bits : Nat) : Nat × BitVec 5 :=
  match f.decode bits with
  | .fin neg m e =>
    let q := fraction m e
    let i := roundInteger neg q.1 q.2 r.1 r.2
    ((f.round (.dyadic neg i.1 0) .rtz 0 false).1, if i.2 then flIX else 0)
  | x => f.round x.val .rne 0 false

/-- The range of an integer type (R94). -/
def Ty.signedInt : Ty → Bool
  | .int8 | .int16 | .int32 | .int64 => true
  | _ => false
def intMax (t : Ty) : Int := if Ty.signedInt t then 2 ^ (t.width - 1) - 1 else 2 ^ t.width - 1
def intMin (t : Ty) : Int := if Ty.signedInt t then -2 ^ (t.width - 1) else 0

/-- FCVTI as an integer of the type (R120). -/
def fpToInt (t : Ty) (r : Rnd × Nat) (x : Num) : Int × BitVec 5 :=
  match x with
  | .nan _ => (0, flIV)
  | .inf neg => (if neg then intMin t else intMax t, flIV)
  | .fin neg m e =>
    let q := fraction m e
    let i := roundInteger neg q.1 q.2 r.1 r.2
    let v := signedMag neg i.1
    if intMax t < v then (intMax t, flIV) else if v < intMin t then (intMin t, flIV) else (v, if i.2 then flIX else 0)

/-- The low bits of a value read as an integer of a type (R94). -/
def readInt (t : Ty) (x : Nat) : Int :=
  if Ty.signedInt t then (BitVec.ofNat t.width x).toInt else ((x % 2 ^ t.width : Nat) : Int)

/-- The block-scale shift of a byte (R100): `none` for 0xFF. -/
def scaleOf (b : Nat) : Option Int := if b % 256 = 255 then none else some ((b % 256 : Nat) - 127)

/-- CVT8 (R122). `e` is the scale byte, `none` where SB names g0. -/
def fpCvt8 (src dst : Fmt) (r : Rnd × Nat) (sat : Bool) (a : Nat) (e : Option Nat) : Nat × BitVec 5 :=
  let x := src.decode a
  match e with
  | none => dst.round x.val r.1 r.2 sat
  | some b =>
    match scaleOf b with
    | none => (dst.nan, flIV)
    | some k => dst.round (scaleNum x (-k)) r.1 r.2 sat

/-- CVT8X (R123). -/
def fpCvt8x (src dst : Fmt) (r : Rnd × Nat) (a : Nat) (e : Option Nat) : Nat × BitVec 5 :=
  let x := src.decode a
  if x.isNan then (dst.nan, flIV)
  else
    match e with
    | none => dst.round x.val r.1 r.2 false
    | some b =>
      match scaleOf b with
      | none => (dst.nan, flIV)
      | some k => dst.round (scaleNum x k) r.1 r.2 false

/-- A magnitude m × 2^e is at most the format's largest finite value times 2^(b − 127) (R125). -/
def fitsScale (dst : Fmt) (m : Nat) (e : Int) (b : Nat) : Bool :=
  let top := dst.mag dst.top
  let te := top.2 + b - 127
  let lo := min e te
  decide (m * 2 ^ (e - lo).toNat ≤ top.1 * 2 ^ (te - lo).toNat)

/-- SCLX (R125). -/
def fpScaleByte (src dst : Fmt) (a : Nat) : Nat × BitVec 5 :=
  match src.decode a with
  | .nan sig => (255, if sig then flIV else 0)
  | .inf _ => (255, 0)
  | .fin _ m e =>
    match (List.range 255).find? (fitsScale dst m e) with
    | some b => (b, 0)
    | none => (254, flOF)

/-- The format of TY and of CC, with a binary8 precision in IS (R99, R112). -/
def tyFmt (o : OpsA) : Fmt := fmtOf o.ty o.is.toNat
def ccFmt (o : OpsA) : Fmt := fmtOf (Ty.ofCode o.cc) o.is.toNat

/-- FADD (R113). -/
def execFadd (h : Hdr) (o : OpsA) (s : State) : Res :=
  .next (fp2 s h o fun r a b => fpBin (tyFmt o) addNum r a.toNat b.toNat)
/-- FSUB (R113). -/
def execFsub (h : Hdr) (o : OpsA) (s : State) : Res :=
  .next (fp2 s h o fun r a b => fpBin (tyFmt o) subNum r a.toNat b.toNat)
/-- FMUL (R113). -/
def execFmul (h : Hdr) (o : OpsA) (s : State) : Res :=
  .next (fp2 s h o fun r a b => fpBin (tyFmt o) mulNum r a.toNat b.toNat)
/-- FDIV (R113). -/
def execFdiv (h : Hdr) (o : OpsA) (s : State) : Res :=
  .next (fp2 s h o fun r a b => fpBin (tyFmt o) divNum r a.toNat b.toNat)
/-- FSQRT (R113). -/
def execFsqrt (h : Hdr) (o : OpsA) (s : State) : Res :=
  .next (fp1 s h o fun r a => (tyFmt o).round (sqrtNum ((tyFmt o).decode a.toNat)) r.1 r.2 false)

/-- FFMA (R113): SC is the addend. -/
def execFfma (h : Hdr) (o : OpsA) (s : State) : Res :=
  .next (perLane s h [o.sa, o.sb, o.sc] fun k l => ofRd l do
    let a ← srcG l o.sa
    let b ← srcG l o.sb
    let c ← srcG l o.sc
    let r := laneRounding s o.rm k
    let x := fmaNum ((tyFmt o).decode a.toNat) ((tyFmt o).decode b.toNat) ((tyFmt o).decode c.toNat)
    pure (fpRetG s.fl l o.dst h.w ((tyFmt o).round x r.1 r.2 false)))

/-- FMIN (R114). -/
def execFmin (h : Hdr) (o : OpsA) (s : State) : Res :=
  .next (fp2 s h o fun _ a b => fpMinMax (tyFmt o) false a.toNat b.toNat)
/-- FMAX (R114). -/
def execFmax (h : Hdr) (o : OpsA) (s : State) : Res :=
  .next (fp2 s h o fun _ a b => fpMinMax (tyFmt o) true a.toNat b.toNat)
/-- FABS (R115). -/
def execFabs (h : Hdr) (o : OpsA) (s : State) : Res := .next (fp1 s h o fun _ a => (fpAbs (tyFmt o) a.toNat, 0))
/-- FNEG (R115). -/
def execFneg (h : Hdr) (o : OpsA) (s : State) : Res := .next (fp1 s h o fun _ a => (fpNeg (tyFmt o) a.toNat, 0))

/-- FCMP (R116). -/
def execFcmp (h : Hdr) (o : OpsA) (s : State) : Res :=
  .next (perLane s h [o.sa, o.sb, o.dst.asSrc] fun _ l => ofRd l do
    let a ← srcG l o.sa
    let b ← srcG l o.sb
    checkDstP l o.dst h.w
    let r := fpCompare o.cc ((tyFmt o).decode a.toNat) ((tyFmt o).decode b.toNat)
    match fpTrap s.fl r.2 with
    | some t => .error t
    | none => pure (retP (l.raiseF r.2) o.dst h.w r.1))

/-- FCLASS (R117). -/
def execFclass (h : Hdr) (o : OpsA) (s : State) : Res := .next (fp1 s h o fun _ a => (fpClass (tyFmt o) a.toNat, 0))
/-- FRND (R118). -/
def execFrnd (h : Hdr) (o : OpsA) (s : State) : Res := .next (fp1 s h o fun r a => fpIntegral (tyFmt o) r a.toNat)

/-- FCVT (R119). -/
def execFcvt (h : Hdr) (o : OpsA) (s : State) : Res :=
  .next (fp1 s h o fun r a => (tyFmt o).round ((ccFmt o).decode a.toNat).val r.1 r.2 false)

/-- An integer extended to 64 bits (R94): the 64-bit pattern. -/
def extendInt (x : Int) : Nat := (BitVec.ofInt 64 x).toNat

/-- FCVTI (R120). -/
def execFcvti (h : Hdr) (o : OpsA) (s : State) : Res :=
  .next (fp1 s h o fun r a =>
    let x := fpToInt o.ty r ((ccFmt o).decode a.toNat)
    (extendInt x.1, x.2))

/-- ICVTF (R121). Every pair whose value lies above the format's largest overflows (INT32, UINT16, UINT32 and INT64 toward FP16 too):
DESIGN CHOICE, R121 says that UINT64 to FP16 is the only such pair, which RoundTo and R102 contradict (log entry 8). Unsafe. -/
def execIcvtf (h : Hdr) (o : OpsA) (s : State) : Res :=
  .next (fp1 s h o fun r a => (tyFmt o).round (intVal (readInt (Ty.ofCode o.cc) a.toNat)) r.1 r.2 false)

/-- The scale byte that SB gives: none where it names g0 (R122). -/
def scaleByte (sb : Src) (b : Word) : Option Nat := if sb = .g 0 then none else some (b.toNat % 256)

/-- CVT8 (R122). -/
def execCvt8 (h : Hdr) (o : OpsA) (s : State) : Res :=
  .next (fp2 s h o fun r a b => fpCvt8 (ccFmt o) (tyFmt o) r o.sat a.toNat (scaleByte o.sb b))
/-- CVT8X (R123). -/
def execCvt8x (h : Hdr) (o : OpsA) (s : State) : Res :=
  .next (fp2 s h o fun r a b => fpCvt8x (ccFmt o) (tyFmt o) r a.toNat (scaleByte o.sb b))
/-- FSCALE (R124). -/
def execFscale (h : Hdr) (o : OpsA) (s : State) : Res :=
  .next (fp2 s h o fun r a b => (tyFmt o).round (scaleNum ((tyFmt o).decode a.toNat) b.toInt) r.1 r.2 false)
/-- SCLX (R125). -/
def execSclx (h : Hdr) (o : OpsA) (s : State) : Res :=
  .next (fp1 s h o fun _ a => fpScaleByte (ccFmt o) (tyFmt o) a.toNat)

end Sys2Proof.Machine
end

