-- ==== Sys2Proof/Machine/Access.lean ====
section
/-! DEFINITION. Performing loads, stores, gathers, scatters and atomics, with their parks, held stores and remote requests:
R93, R195, R198, R207 to R216, R233 to R237, R370, R371. -/

namespace Sys2Proof.Machine

/-! Writing. -/

/-- On-chip bytes written for a flight: a FREE line takes the tag of its context first (R195). -/
def writeChip (s : State) (priv : Bool) (ctx : BitVec 6) (key : Nat) (bs : List Byte) : State :=
  let l := lineSt s (lineOf key)
  let s1 := if !priv && l.owner.isNone then setLine s (lineOf key) { l with owner := some ctx } else s
  writeBytes s1 key bs

/-- Main-memory bytes within one line written; `none` when the line is poisoned and the write does not cover
it (R215). -/
def writeMain (s : State) (key : Nat) (bs : List Byte) : Option State :=
  if poisoned s key then
    if bs.length = 64 then
      some (markDirty { writeBytes s key bs with poison := s.poison.filter (fun l => decide (l ≠ lineOf key)) } key)
    else none
  else some (markDirty (writeBytes s key bs) key)

/-- A report about a store of a lane that was dropped (R208, R215, R371, R373), and its mark for FENCE (R230). -/
def dropStore (s : State) (f : FlightId) (ctx : BitVec 6) (k : LaneId) (src : Nat) (peer : BitVec 10) (cause : BitVec 8)
    (handle : Word) : State :=
  let s1 := errReport s ctx cause { src := src, flight := f, lane := k.val, peer := peer, tag := 0 } handle 0
  updFlight s1 f fun x => { x with dropped := x.dropped ||| (1#32 <<< k.val) }

/-! Stores of a lane that are not performed yet: held ones (R208), and stores to the own package that wait there for
translation (R370, R371). -/

/-- A range of flat addresses covers a byte. -/
def covers (key : Nat) (r : Nat × Nat) : Bool := decide (r.1 ≤ key) && decide (key < r.1 + r.2)

/-- Where the first byte of a part would go now (R204); the rest of a part lies in the same line. -/
def heldKey (s : State) (ctx : BitVec 6) (h : Word) : Option Nat :=
  match probeMain s ctx .wr ⟨0, 1, h, false⟩ true with
  | .at_ k => some k
  | _ => none

/-- The bytes that a part writes at a flat address: where a later write has come, what that one left (R216). -/
def HeldPart.fill (s : State) (p : HeldPart) (key : Nat) : List Byte :=
  p.bytes.mapIdx fun i b => if p.later.any (covers (key + i)) then readByte s (key + i) else b

/-- The byte that a part has for an address, where no later write has come (R216). -/
def partByte (s : State) (ctx : BitVec 6) (p : HeldPart) (key : Nat) : Option Byte :=
  match heldKey s ctx p.h with
  | some k => if decide (k ≤ key) && !p.later.any (covers key) then p.bytes[key - k]? else none
  | none => none

/-- The store of a lane that a request to the own package performs (R370). -/
def ownStore (s : State) (f : FlightId) (k : LaneId) (x : Inbound) : Bool :=
  decide (x.req.pkg = s.host.pkgnum) &&
    s.outstanding.any fun o => decide (o.id = x.req.id) && (match o.owner with | .store g j => decide (g = f ∧ j = k) | _ => false)

/-- A waiting store as a part. -/
def Inbound.part (x : Inbound) : HeldPart :=
  { h := .cast (by rfl) (x.req.pbuf ++ BitVec.ofNat 52 x.req.off), bytes := (match x.req.op with | .store bs => bs | _ => []),
    later := x.later }

/-- The bytes that the stores of a lane which are not performed yet have for an address, each with its word's number. -/
def pendingBytes (s : State) (f : Flight) (k : LaneId) (key : Nat) : List (Nat × Byte) :=
  ((f.held.filter fun h => decide (h.lane = k)).filterMap fun h =>
    (h.parts.reverse.findSome? fun p => partByte s f.ctx p key).map fun b => (h.seq, b)) ++
  (s.inbound.filter (ownStore s f.id k)).filterMap fun x => (partByte s x.req.pctx x.part key).map fun b => (x.req.id, b)

/-- The byte of the latest of them (R216). -/
def heldByte (s : State) (f : Flight) (k : LaneId) (key : Nat) : Option Byte :=
  ((pendingBytes s f k key).foldl (fun (m : Option (Nat × Byte)) x =>
    match m with
    | some y => if x.1 < y.1 then m else some x
    | none => some x) none).map (·.2)

/-- Word `q` of lane `k` comes after a held store: a later word of the lane, or a higher lane of one word (R171, R216). -/
def HeldStore.before (h : HeldStore) (k : LaneId) (q : Nat) : Bool :=
  (decide (h.lane = k) && decide (h.seq < q)) || (decide (h.seq = q) && decide (h.lane < k))

/-- A part after a write that is ordered after it. -/
def HeldPart.cover (p : HeldPart) (r : Nat × Nat) : HeldPart := { p with later := p.later ++ [r] }

/-- The state after word `q` of a lane has written main memory: the stores of the lane that come before it and are not
performed yet will leave those bytes as they are (R171, R216, R226). -/
def coverHeld (s : State) (f : FlightId) (k : LaneId) (q key n : Nat) : State :=
  let s1 := updFlight s f fun x =>
    { x with held := x.held.map fun h => if h.before k q then { h with parts := h.parts.map (·.cover (key, n)) } else h }
  { s1 with inbound := s1.inbound.map fun x =>
      if ownStore s f k x && decide (x.req.id < q) then { x with later := x.later ++ [(key, n)] } else x }

/-! Attempting an access. -/

/-- What the checks of a whole access give: a trap with the elements that passed (R170, R213), failed translations, a line
that is absent, requests to a peer, or every element's flat address. -/
inductive Attempt where
  | trap (t : LTrap) (ok : List (Elem × Nat))
  | fault (recs : List (Nat × BitVec 48 × Word))
  | absent
  | far (parts : List (Elem × BitVec 10 × BitVec 6 × BitVec 12 × Nat))
  | ready (ok : List (Elem × Nat))

/-- The class of an atomic as an expander path carries it (R237): the bit of ATC. -/
def atomClass (op : AtomOp) (size : Nat) : Nat :=
  match op with
  | .fadd => 2
  | _ => if size = 4 then 0 else 1

/-- The path to an address carries an atomic's class (R236, R237): everything but an expander's page carries all. -/
def pathCarries (s : State) (key cls : Nat) : Bool :=
  if cellarKey 2 0 ≤ key then (s.expanders.get 1).atc.getLsbD cls
  else if cellarKey 1 0 ≤ key then (s.expanders.get 0).atc.getLsbD cls
  else true

/-- Check 8 of R202 and the path check of R237, for an element that is read. -/
def probeData (s : State) (a : Acc) (e : Elem) (p : Probe) : Probe :=
  match p with
  | .at_ key =>
    let path := match a.kind with
      | .atomic op _ _ => pathCarries s key (atomClass op a.size)
      | .fwait => pathCarries s key 1
      | _ => true
    if !path then .trap .atomicPath e.addr
    else if poisoned s key then .trap .memPoison e.addr
    else p
  | _ => p

/-- One probe for every element of an access (R202, R213). -/
def probes (s : State) (f : Flight) (a : Acc) (store : Bool) : List (Elem × Probe) :=
  a.elems.map fun e =>
    let p := probe s f a store e
    (e, if store || a.sp != .m then p else probeData s a e p)

/-- The trap of a probe. -/
def Probe.isTrap : Probe → Bool
  | .trap _ _ => true
  | _ => false

/-- TEMASK of an access with failing elements (R170, R213): one bit an element of a gather, bit 0 otherwise. -/
def failMask (a : Acc) (ps : List (Elem × Probe)) : Word :=
  match a.kind with
  | .gather => ps.foldl (fun m x => if x.2.isTrap then m ||| (1#64 <<< (x.1.pos / a.size)) else m) 0
  | _ => 1

/-- The place of a cause in the order of R202, the check of the peer (R370) standing in that of translation. -/
def checkRank (c : Cause) : Nat :=
  match c with
  | .bounds => 1 | .align => 2 | .owner => 3 | .space => 4 | .rights => 5 | .peerUnreachable => 6 | .memPathLost => 7
  | _ => 8

/-- The check that an element fails: a translation is check 6. -/
def Probe.failAt (p : Probe) : Option Nat :=
  match p with
  | .trap c _ => some (checkRank c)
  | .fault _ _ => some 6
  | _ => none

/-- The probe that decides an access (R202, R213): of a gather or scatter and of a store, the first element that traps; of
the pieces of a load, the one that fails the earliest check, where a failed translation comes before checks 7 and 8. -/
def leadProbe (a : Acc) (store : Bool) (ps : List (Elem × Probe)) : Option Probe :=
  let traps := (ps.find? (fun x => x.2.isTrap)).map (·.2)
  match a.kind, store with
  | .gather, _ | _, true => traps
  | _, false =>
    ps.foldl (fun m x =>
      match m, x.2.failAt with
      | none, some _ => some x.2
      | some y, some n => if n < y.failAt.getD 9 then some x.2 else m
      | _, none => m) none

/-- The outcome of the checks of an access (R170, R202, R212, R213). -/
def attempt (s : State) (f : Flight) (a : Acc) (store : Bool) : Attempt :=
  let ps := probes s f a store
  let ok := ps.filterMap fun x => match x.2 with | .at_ k => some (x.1, k) | _ => none
  match leadProbe a store ps with
  | some (.trap c v) => .trap ⟨5, 0, c, v, failMask a ps⟩ ok
  | _ =>
    let faults := ps.filterMap fun x => match x.2 with | .fault k va => some (k, va, x.1.addr) | _ => none
    let far := ps.filterMap fun x => match x.2 with | .far p c b off => some (x.1, p, c, b, off) | _ => none
    if !store && !faults.isEmpty then .fault faults
    else if store && ok.isEmpty && !faults.isEmpty then .fault faults
    else if ps.any (fun x => match x.2 with | .absent _ => true | _ => false) then .absent
    else if !far.isEmpty then .far far
    else .ready ok

/-- The failed translations of a store's elements (R208). -/
def storeFaults (s : State) (f : Flight) (a : Acc) : List (Elem × Nat × BitVec 48) :=
  (probes s f a true).filterMap fun x => match x.2 with | .fault k va => some (x.1, k, va) | _ => none

/-- The 64 KiB unit of a virtual address (R383). -/
def vpnOf (va : BitVec 48) : BitVec 32 := va.extractLsb' 16 32

/-- The distinct units that an access waits on, unanswered (R209). -/
def waitsOf (vas : List (BitVec 48)) : List Wait :=
  (vas.map vpnOf).dedup.map fun v => { vpn := v, answer := none }

/-! Reading. -/

/-- One byte as a flight's lane reads it (R195, R216): a FREE line reads zero; a held store of the lane shows. -/
def readLaneByte (s : State) (f : Flight) (k : LaneId) (sp : MSpace) (key : Nat) : Byte :=
  match sp with
  | .m => (heldByte s f k key).getD (readByte s key)
  | .x => readByte s key
  | _ => if !f.priv && (lineSt s (lineOf key)).owner.isNone then 0 else readByte s key

/-- The bytes of an element as a lane reads them. -/
def readLane (s : State) (f : Flight) (k : LaneId) (sp : MSpace) (key : Nat) : Nat → List Byte
  | 0 => []
  | n + 1 => readLaneByte s f k sp key :: readLane s f k sp (key + 1) n

/-- A value with the bytes of an element put in its place. -/
def putElem (v : Nat) (pos len x : Nat) : Nat := v - v / 2 ^ (8 * pos) % 2 ^ (8 * len) * 2 ^ (8 * pos) + x * 2 ^ (8 * pos)

/-- The value of the elements that passed, over an old one. -/
def assemble (old : Nat) (parts : List (Elem × List Byte)) : Nat :=
  parts.foldl (fun v p => putElem v p.1.pos p.1.len (bytesToNat p.2)) old

/-- A loaded value extended to 64 bits (R93). -/
def extendLoad (a : Acc) (x : Nat) : Word :=
  if a.sgn then
    match a.size with
    | 1 => (BitVec.ofNat 8 x).signExtend 64
    | 2 => (BitVec.ofNat 16 x).signExtend 64
    | 4 => (BitVec.ofNat 32 x).signExtend 64
    | _ => BitVec.ofNat 64 x
  else BitVec.ofNat 64 x

/-- The lane and the latch value of a completed load whose bytes have the given value (R22, R24, R93). -/
def takeLoad (l : Lane) (a : Acc) (x : Nat) : Lane × Option LatchVal :=
  match a.dst with
  | .v i =>
    let v := BitVec.ofNat 512 x
    (if a.w then l.setV i v else l, some (.vec v))
  | d =>
    let v := extendLoad a x
    (if a.w then l.setG d.gReg v else l, some (.gen v))

/-- The lane and the latch value of a gather that traps: the elements that passed, at the places `ok`, are written (R170, R213,
R335). -/
def takePartial (l : Lane) (a : Acc) (ok : List Nat) (x : Nat) : Lane × Option LatchVal :=
  match a.kind, a.dst with
  | .gather, .v i =>
    let v := BitVec.ofNat 512 x
    (if a.w then l.setVPart i (8 * a.size) (fun j => ok.contains (j * a.size)) v else l, some (.vec v))
  | _, _ => (l, none)

/-- The old value that a gather leaves in the elements that failed. -/
def oldOf (l : Lane) (a : Acc) : Nat := match a.dst with | .v i => (l.getV i).toNat | _ => 0

/-- The bytes of the elements that passed. -/
def readParts (s : State) (f : Flight) (k : LaneId) (a : Acc) (ok : List (Elem × Nat)) : List (Elem × List Byte) :=
  ok.map fun p => (p.1, readLane s f k a.sp p.2 p.1.len)

/-! Loads as words. -/

/-- The outcome of a load or gather in a lane at issue (R93, R198, R207, R210): hall data is taken at once, data of the
other spaces when the lane resumes. -/
def loadOut (s : State) (k : LaneId) (l : Lane) (a : Acc) : LaneOut :=
  match attempt s s.fl a false with
  | .trap t ok =>
    let r := takePartial l a (ok.map (·.1.pos)) (assemble (oldOf l a) (readParts s s.fl k a ok))
    .trap r.1 r.2 t
  | .fault recs => .park l (.fault a (waitsOf (recs.map fun r => r.2.1)))
  | .absent => .park l (.line a)
  | .far parts => .park l (.remote a [] [] parts.length)
  | .ready ok =>
    if a.sp = .h then
      let r := takeLoad l a (assemble 0 (readParts s s.fl k a ok))
      .done r.1 r.2 none
    else .park l (.load a)

/-- The fault records of a lane's access, one a page (R209). `acc`: ACC. -/
def faultRecords (s : State) (f : Flight) (k : LaneId) (sp acc : Nat) (recs : List (Nat × BitVec 48 × Word)) : State :=
  let firsts := recs.foldl (fun (seen : List (Nat × BitVec 48 × Word)) r =>
    if seen.any (fun x => decide (vpnOf x.2.1 = vpnOf r.2.1)) then seen else seen ++ [r]) []
  firsts.foldl (fun s r => pushFault s (faultRecord s f.ctx f.id false k.val sp acc r.1 r.2.2 r.2.1 0)) s

/-- ACC of an access (R209). -/
def Acc.code (a : Acc) (store : Bool) : Nat :=
  match a.kind with
  | .atomic _ _ _ => 2
  | _ => if store then 1 else 0

/-- A request to a peer (R368, R370). -/
def sendRequest (s : State) (owner : RemOwner) (die : Nat) (ctx : BitVec 6) (handle : Word) (peer : BitVec 10)
    (pctx : BitVec 6) (pbuf : BitVec 12) (off : Nat) (op : RemOp) : State :=
  let r : RemRequest := { id := s.uid, eng := (match owner with | .piece _ _ _ => true | _ => false), pkg := s.host.pkgnum, gen := s.podgen, ctx := ctx, pctx := pctx, pbuf := pbuf,
                          off := off, op := op }
  let o : Outstanding := { id := s.uid, owner := owner, die := die, ctx := ctx, handle := handle, peer := peer, req := r,
                           start := ccountOf s die }
  { s with uid := s.uid + 1, outstanding := s.outstanding ++ [o], outbox := s.outbox ++ [.request peer r] }

/-- The requests of a lane's load or atomic to a peer, one an element (R370, R371). -/
def sendParts (s : State) (f : Flight) (k : LaneId) (a : Acc)
    (parts : List (Elem × BitVec 10 × BitVec 6 × BitVec 12 × Nat)) : State :=
  parts.foldl (fun s p =>
    let op := match a.kind with
      | .atomic op v cmp => RemOp.atomic op (a.size == 8) v cmp
      | _ => .load p.1.len
    sendRequest s (.lane f.id k p.1.pos) f.id.die f.ctx p.1.addr p.2.1 p.2.2.1 p.2.2.2.1 p.2.2.2.2 op) s

/-- What a lane's load leaves outside the lane, by the checks made in `s0`: fault records, requests to a peer. -/
def loadEffects (s0 s : State) (k : LaneId) (a : Acc) : State :=
  match attempt s0 s0.fl a false with
  | .fault recs => faultRecords s s.fl k 3 (a.code false) recs
  | .far parts => sendParts s s.fl k a parts
  | _ => s

/-- The lanes of Active that come to the word's own effect: no failed park to take, no faulting predicate byte. -/
def executing (s : State) (h : Hdr) : List LaneId :=
  allLanes.filter fun k => isActive s h k && (s.fl.lane k).fail.isNone && (pgFault (s.fl.lane k) h).isNone

/-- What those lanes capture, where their operands can be read. -/
def captured {α : Type} (s : State) (h : Hdr) (acc : Lane → Rd α) : List (LaneId × α) :=
  (executing s h).filterMap fun k =>
    match acc (s.fl.lane k) with
    | .ok a => some (k, a)
    | .error _ => none

/-- A load or gather word (R93, R169, R170, R210 to R213); `acc` captures each lane's access. -/
def loadWord (s : State) (h : Hdr) (srcs : List Src) (acc : Lane → Rd Acc) : State :=
  let outs := laneOuts s h fun k l => ofRd l do
    let a ← acc l
    pure (loadOut s k l a)
  let as := captured s h acc
  let s1 := as.foldl (fun t p => loadEffects s t p.1 p.2) (noteAccs s s.fl false (as.map (·.2)))
  finish { s1 with fl := { s.fl with rflat := logUnread s h srcs (fun _ _ _ => true) } } h.e false false outs

/-! Stores as words. -/

/-- The bytes of an element of a stored value. -/
def elemBytes (x : Nat) (e : Elem) : List Byte := natToBytes e.len (x / 2 ^ (8 * e.pos))

/-- No store of the flight and no request of a package waits to be performed. -/
def noPending (s : State) (f : Flight) : Bool := f.held.isEmpty && s.inbound.isEmpty

/-- One element of a lane's store in word `q` performed (R195, R208, R215, R216). -/
def storeElem (s : State) (f : Flight) (k : LaneId) (q : Nat) (a : Acc) (e : Elem) (key : Nat) (bs : List Byte) : State :=
  match a.sp with
  | .m =>
    match writeMain s key bs with
    | some s1 => if noPending s1 f then s1 else coverHeld s1 f.id k q key bs.length
    | none => dropStore s f.id f.ctx k 0 0 Cause.memPoison.code e.addr
  | _ => writeChip s f.priv f.ctx key bs

/-- What a lane's store of a value does, by the checks made in `s0`: the elements that passed are written, failed
translations are held with their records, a peer's bytes are sent (R208, R211 to R213, R371). -/
def storeEffects (s0 s : State) (k : LaneId) (a : Acc) (x : Nat) : State :=
  let f := s0.fl
  let put (s : State) (ok : List (Elem × Nat)) : State :=
    ok.foldl (fun s p => storeElem s s.fl k s0.uid a p.1 p.2 (elemBytes x p.1)) s
  let hold (t : State) (ok : List (Elem × Nat)) : State :=
    let fs := storeFaults s0 f a
    if fs.isEmpty then t
    else
      let t1 := faultRecords t f k 3 1 (fs.map fun p => (p.2.1, p.2.2, p.1.addr))
      let held : HeldStore :=
        { lane := k, seq := s0.uid,
          parts := fs.map (fun p =>
            { h := p.1.addr, bytes := elemBytes x p.1,
              later := (ok.filter fun y => decide (p.1.pos < y.1.pos)).map fun y => (y.2, y.1.len) }),
          waits := waitsOf (fs.map fun p => p.2.2) }
      updFlight { t1 with uid := t1.uid + 1 } f.id fun y => { y with held := y.held ++ [held] }
  match attempt s0 f a true with
  | .trap t ok =>
    if t.cause = .peerUnreachable then dropStore s f.id f.ctx k 1 (bufEntry s0 f.ctx (handleBuf t.tval)).peer t.cause.code t.tval
    else (match a.kind with | .gather => put s ok | _ => s)
  | .ready ok => hold (put s ok) ok
  | .far parts => parts.foldl (fun t p =>
      sendRequest t (.store f.id k) f.id.die f.ctx p.1.addr p.2.1 p.2.2.1 p.2.2.2.1 p.2.2.2.2 (.store (elemBytes x p.1))) s
  | _ => hold s []

/-- A lane's store outcome (R211 to R213). A store to a peer that is not reachable is dropped, not trapped (R371). -/
def storeOut (s : State) (l : Lane) (a : Acc) : LaneOut :=
  match attempt s s.fl a true with
  | .trap t _ => if t.cause = .peerUnreachable then .done l none none else .trap l none t
  | _ => .done l none none

/-- The lanes whose earlier stores are not performed: held, or sent to a peer and not answered (R208, R230, R371). -/
def unsettled (s : State) (f : Flight) : LaneSet :=
  laneSetOf fun k => f.held.any (fun h => decide (h.lane = k)) ||
    s.outstanding.any (fun o => match o.owner with | .store g j => decide (g = f.id ∧ j = k) | _ => false)

/-- A release that must follow earlier stores of its lanes waits for them (R223). `none`: it need not wait. -/
def waitRelease (s : State) (ord : BitVec 2) (lanes : LaneSet) (pod : Bool) : Option State :=
  let w := unsettled s s.fl &&& lanes
  if ord.getLsbD 1 && w != 0 then
    some { s with fl := { s.fl with stall := some (.order w (ccountOf s s.fl.id.die) pod) } }
  else none

/-- The flight's engine issues nothing more while the flight has more than 16 held stores (R208). -/
def stallHeld (s : State) : State :=
  if 16 < s.fl.held.length then { s with fl := { s.fl with stall := some .heldFull } } else s

/-- A store or scatter word (R93, R169 to R171, R208, R211 to R213); `acc` captures each lane's access and data. -/
def storeWord (s : State) (h : Hdr) (o : OpsM) (srcs : List Src) (acc : Lane → Rd (Acc × Nat)) : State :=
  match waitRelease s o.ord (active s h) false with
  | some s1 => s1
  | none =>
    let outs := laneOuts s h fun _ l => ofRd l do
      let p ← acc l
      pure (storeOut s l p.1)
    let s1 := { s with fl := { s.fl with rflat := logUnread s h srcs (fun _ _ _ => true) } }
    let as := captured s h acc
    let s2 := as.foldl (fun t p => storeEffects s t p.1 p.2.1 p.2.2) (noteAccs s1 s.fl true (as.map fun p => p.2.1))
    stallHeld (finish s2 h.e false false outs)

/-! Atomics. -/

/-- The signed value of the w low bits. -/
def signedBits (w x : Nat) : Int := (BitVec.ofNat w x).toInt

/-- The new value of an atomic (R233, R234); `none` for an ACAS that fails. -/
def atomNew (op : AtomOp) (w old v cmp : Nat) : Option Nat :=
  let f := fmtOf (if w = 32 then .fp32 else .fp64) 0
  match op with
  | .add => some ((old + v) % 2 ^ w)
  | .min => some (if signedBits w old ≤ signedBits w v then old else v)
  | .max => some (if signedBits w v ≤ signedBits w old then old else v)
  | .and => some (old &&& v)
  | .or => some (old ||| v)
  | .xor => some (old ^^^ v)
  | .xchg => some v
  | .cas => if old = cmp then some v else none
  | .fadd => some (fpBin f addNum (.rne, 0) old v).1
  | .inc => some (if v ≤ old then 0 else old + 1)

/-- An atomic performed at a flat address for a lane (R234): the state after it and the old value. -/
def performAtomic (s : State) (f : Flight) (k : LaneId) (a : Acc) (e : Elem) (key : Nat) : State × Word :=
  match a.kind with
  | .atomic op v cmp =>
    let w := 8 * a.size
    let old := bytesToNat (readLane s f k a.sp key a.size)
    let s1 := match atomNew op w old (v.toNat % 2 ^ w) (cmp.toNat % 2 ^ w) with
      | none => s
      | some x => storeElem s f k s.uid a e key (natToBytes a.size x)
    (s1, BitVec.ofNat 64 old)
  | _ => (s, 0)

/-- One lane of an atomic word, by the checks made in `s0`: the lanes' effects in ascending order, with what each lane parks
on or traps with. -/
def atomicLane (s0 : State) (x : State × List (LaneId × LaneOut)) (p : LaneId × Acc) : State × List (LaneId × LaneOut) :=
  let s := x.1
  let k := p.1
  let l := s0.fl.lane k
  match attempt s0 s0.fl p.2 false with
  | .trap t _ => (s, x.2 ++ [(k, .trap l none t)])
  | .fault recs => (faultRecords s s.fl k 3 2 recs,
      x.2 ++ [(k, .park l (.fault p.2 (waitsOf (recs.map fun r => r.2.1))))])
  | .far parts => (sendParts s s.fl k p.2 parts, x.2 ++ [(k, .park l (.remote p.2 [] [] parts.length))])
  | .ready [(e, key)] =>
    let r := performAtomic s s.fl k p.2 e key
    (r.1, x.2 ++ [(k, .park l (.atomic p.2 r.2))])
  | _ => (s, x.2 ++ [(k, .park l (.line p.2))])

/-- An atomic word (R234, R236): its lanes in ascending order; each parks until its old value returns. -/
def atomicWord (s : State) (h : Hdr) (o : OpsM) (srcs : List Src) (acc : Lane → Rd Acc) : State :=
  match waitRelease s o.ord (active s h) false with
  | some s1 => s1
  | none =>
    let as := captured s h acc
    let r := as.foldl (atomicLane s) (noteAccs s s.fl false (as.map (·.2)), [])
    let outs := laneOuts s h fun k l => ofRd l do
      let _ ← acc l
      pure ((r.2.lookup k).getD (retNone l))
    finish { r.1 with fl := { r.1.fl with rflat := logUnread s h srcs (fun _ _ _ => true) } } h.e false false outs

end Sys2Proof.Machine
end

