-- ==== Sys2Proof/Machine/Vector.lean ====
section
/-! DEFINITION. Vector registers as sub-elements, and the element operations: R144 to R157, with the register errors of
R335. -/

namespace Sys2Proof.Machine

/-! Sub-elements (R144). -/

/-- Bits [w·j + w − 1 : w·j] of a value replaced. -/
def putBits (v w j x : Nat) : Nat := v - v / 2 ^ (w * j) % 2 ^ w * 2 ^ (w * j) + x % 2 ^ w * 2 ^ (w * j)

/-- The vector of n sub-elements of width w. -/
def vecOf (w n : Nat) (f : Nat → Nat) : VWord :=
  BitVec.ofNat 512 ((List.range n).foldl (fun x j => x + f j % 2 ^ w * 2 ^ (w * j)) 0)

/-- The sub-element that an immediate becomes (R45). -/
def immSub (t : Ty) (s : BitVec 7) : Nat :=
  if t.isFp then ((fmtOf t 0).round (intVal s.toInt) .rne 0 false).1 else (s.signExtend 64).toNat

/-- A vector source without the check of its granules: register, latch or immediate (R146). -/
def vecSrc (l : Lane) (t : Ty) (src : Src) : Rd VWord :=
  match src with
  | .v i => .ok (l.getV i)
  | .latch k =>
    match readLatch l k with
    | .ok (.vec x) => .ok x
    | .ok _ => wrongClass
    | .error e => .error e
  | .imm s => .ok (vecOf t.width t.count fun _ => immSub t s)
  | _ => wrongClass

/-- TEMASK of a set of sub-elements. -/
def subMask (js : List Nat) : Word := js.foldl (fun m j => m ||| (1#64 <<< j)) 0

/-- The check of a source's granules (R335): the lowest faulting granule that a sub-element of the operation reads traps,
with TEMASK the sub-elements that read it. `reads j g`: sub-element j reads granule g. -/
def checkSub (l : Lane) (src : Src) (js : List Nat) (reads : Nat → Nat → Bool) : Rd Unit :=
  match (List.range 8).find? (fun g =>
      (l.granules src).any (fun x => decide (x.gran.toNat = g)) && js.any (fun j => reads j g)) with
  | none => .ok ()
  | some g => .error (rfTrap src (BitVec.ofNat 3 g) (subMask (js.filter fun j => reads j g)))

/-- Sub-element j of width w lies in granule g. -/
def inGran (w j g : Nat) : Bool := decide (w * j / 64 = g)

/-- A vector source that every sub-element reads at its own place (R146). -/
def vecRead (l : Lane) (t : Ty) (src : Src) : Rd VWord :=
  match vecSrc l t src with
  | .error e => .error e
  | .ok v => (checkSub l src (List.range t.count) (inGran t.width)).map fun _ => v

/-- A whole vector as one element of 512 bits: the data of a store, a source of a cross-lane word. -/
def vecWhole (l : Lane) (src : Src) : Rd VWord :=
  match vecSrc l .uint64 src with
  | .error e => .error e
  | .ok v => (checkSub l src [0] (fun _ _ => true)).map fun _ => v

/-- A general source that every given sub-element of the operation reads (R335). -/
def srcGSub (l : Lane) (src : Src) (js : List Nat) : Rd Word :=
  match srcG l src with
  | .error e => .error (if e.cause = .rfUncorrectable then { e with temask := subMask js } else e)
  | .ok x => .ok x

/-- The result of one sub-element: its bits, its flags, and whether it was clamped. -/
structure SubRes where
  bits : Nat
  fl : BitVec 5
  sat : Bool

/-- A result without flags. -/
def SubRes.plain (x : Nat) : SubRes := ⟨x, 0, false⟩

/-- The lane with the flags of a sub-element (R147, R150). -/
def Lane.raiseSub (l : Lane) (r : SubRes) : Lane :=
  let l1 := l.raiseF r.fl
  if r.sat then l1.raiseI istatSat else l1

/-- The end of an element operation in a lane (R147): sub-elements with an enabled flag keep their value and trap, the
others are written. `js` are the sub-elements written, `whole` whether they make up the register. -/
def vecRet (f : Flight) (l : Lane) (d : Dst) (w : Bool) (wd : Nat) (whole : Bool) (js : List Nat) (out : Nat → SubRes) :
    LaneOut :=
  let rs := js.map fun j => (j, out j)
  let en := fpEnables f
  let bad := rs.filter fun r => r.2.fl &&& en != 0
  let good := rs.filter fun r => r.2.fl &&& en == 0
  let v := BitVec.ofNat 512 (good.foldl (fun x r => putBits x wd r.1 r.2.bits) (l.getV d.vReg).toNat)
  let l1 := good.foldl (fun l r => l.raiseSub r.2) l
  if bad.isEmpty then
    .done (if w then (if whole then l1.setV d.vReg v else l1.setVPart d.vReg wd js.contains v) else l1) (some (.vec v)) none
  else
    let x := bad.foldl (fun m r => m ||| (r.2.fl &&& en)) 0
    .trap (if w then l1.setVPart d.vReg wd (good.map (·.1)).contains v else l1) (some (.vec v))
      ⟨5, (fpCause x).1, (fpCause x).2, x.setWidth 64, subMask (bad.map (·.1))⟩

/-- The rounding of sub-element j of lane k (R104, R147). -/
def subRounding (s : State) (rm : BitVec 3) (k : LaneId) (j : Nat) : Rnd × Nat :=
  (roundingOf s.fl rm, ditherAt s.fl.dphase k.val j)

/-- A word with .ADV whose outcome each lane computes, with the granules that it reads (R106, R335). -/
def laneWord (s : State) (h : Hdr) (adv : Bool) (srcs : List Src) (reads : Lane → Src → BitVec 3 → Bool)
    (f : LaneId → Lane → LaneOut) : State :=
  finish { s with fl := { s.fl with rflat := logUnread s h srcs reads } } h.e adv false (laneOuts s h f)

/-- An element operation on A and B (R149, R150). -/
def vecBin (s : State) (h : Hdr) (o : OpsA) (op : Rnd × Nat → Nat → Nat → SubRes) : State :=
  perLane s h [o.sa, o.sb] fun k l => ofRd l do
    let a ← vecRead l o.ty o.sa
    let b ← vecRead l o.ty o.sb
    pure (vecRet s.fl l o.dst h.w o.ty.width true (List.range o.ty.count) fun j =>
      op (subRounding s o.rm k j) (subWord a o.ty.width j) (subWord b o.ty.width j))

/-- An element operation on A. -/
def vecUn (s : State) (h : Hdr) (o : OpsA) (op : Rnd × Nat → Nat → SubRes) : State :=
  perLane s h [o.sa] fun k l => ofRd l do
    let a ← vecRead l o.ty o.sa
    pure (vecRet s.fl l o.dst h.w o.ty.width true (List.range o.ty.count) fun j =>
      op (subRounding s o.rm k j) (subWord a o.ty.width j))

/-- A floating result as that of a sub-element. -/
def subFp (r : Nat × BitVec 5) : SubRes := ⟨r.1, r.2, false⟩

/-- FitW (R150). -/
def fitW (t : Ty) (sat : Bool) (x : Int) : SubRes :=
  let r := fitInt t.width (Ty.signedInt t) sat x
  ⟨r.1.toNat, 0, r.2⟩

/-- VADD, VSUB and VMUL of a sub-element (R150). -/
def subArith (t : Ty) (sat : Bool) (fop : Num → Num → Val) (iop : Int → Int → Int) (r : Rnd × Nat) (a b : Nat) : SubRes :=
  if t.isFp then subFp (fpBin (fmtOf t 0) fop r a b) else fitW t sat (iop (readInt t a) (readInt t b))

/-- VMIN and VMAX of a sub-element (R150). -/
def subMinMax (t : Ty) (wantMax : Bool) (a b : Nat) : SubRes :=
  if t.isFp then subFp (fpMinMax (fmtOf t 0) wantMax a b)
  else if wantMax then .plain (if readInt t a < readInt t b then b else a)
  else .plain (if readInt t b < readInt t a then b else a)

/-- VADD (R150). -/
def execVadd (h : Hdr) (o : OpsA) (s : State) : Res := .next (vecBin s h o (subArith o.ty o.sat addNum (· + ·)))
/-- VSUB (R150). -/
def execVsub (h : Hdr) (o : OpsA) (s : State) : Res := .next (vecBin s h o (subArith o.ty o.sat subNum (· - ·)))
/-- VMUL (R150). -/
def execVmul (h : Hdr) (o : OpsA) (s : State) : Res := .next (vecBin s h o (subArith o.ty o.sat mulNum (· * ·)))
/-- VDIV (R150). -/
def execVdiv (h : Hdr) (o : OpsA) (s : State) : Res :=
  .next (vecBin s h o fun r a b => subFp (fpBin (fmtOf o.ty 0) divNum r a b))
/-- VSQRT (R150). -/
def execVsqrt (h : Hdr) (o : OpsA) (s : State) : Res :=
  .next (vecUn s h o fun r a => subFp ((fmtOf o.ty 0).round (sqrtNum ((fmtOf o.ty 0).decode a)) r.1 r.2 false))
/-- VMIN (R150). -/
def execVmin (h : Hdr) (o : OpsA) (s : State) : Res := .next (vecBin s h o fun _ a b => subMinMax o.ty false a b)
/-- VMAX (R150). -/
def execVmax (h : Hdr) (o : OpsA) (s : State) : Res := .next (vecBin s h o fun _ a b => subMinMax o.ty true a b)

/-! VFMA (R151). -/

/-- Products for each sub-element of the result: the ratio of the widths. -/
def fmaCount (o : OpsA) : Nat := o.ty.width / (Ty.ofCode o.cc).width

/-- One step of Vfma: the accumulator with its flags and clamps so far. -/
def fmaStep (o : OpsA) (r : Rnd × Nat) (acc : SubRes) (a b : Nat) : SubRes :=
  if o.ty.isFp then
    let f := fmtOf o.ty 0
    let x := f.round (fmaNum ((ccFmt o).decode a) ((ccFmt o).decode b) (f.decode acc.bits)) r.1 r.2 false
    ⟨x.1, acc.fl ||| x.2, acc.sat⟩
  else
    let c := Ty.ofCode o.cc
    let x := fitW o.ty o.sat (readInt c a * readInt c b + readInt o.ty acc.bits)
    ⟨x.bits, 0, acc.sat || x.sat⟩

/-- VFMA (R151). -/
def execVfma (h : Hdr) (o : OpsA) (s : State) : Res :=
  let c := Ty.ofCode o.cc
  let n := fmaCount o
  .next (perLane s h [o.sa, o.sb, o.sc] fun k l => ofRd l do
    let a ← vecSrc l c o.sa
    let b ← vecSrc l c o.sb
    let js := List.range o.ty.count
    checkSub l o.sa js (inGran o.ty.width)
    checkSub l o.sb js (inGran o.ty.width)
    let d ← vecRead l o.ty o.sc
    pure (vecRet s.fl l o.dst h.w o.ty.width true js fun j =>
      (List.range n).foldl (fun acc i =>
        fmaStep o (subRounding s o.rm k j) acc (subWord a c.width (n * j + i)) (subWord b c.width (n * j + i)))
        (.plain (subWord d o.ty.width j))))

/-! Logic and shifts (R152), comparison (R153), selection (R154). -/

/-- A shift of a sub-element by an unsigned count (R152). -/
def subShift (w : Nat) (kind : Nat) (a n : Nat) : Nat :=
  match kind with
  | 0 => if w ≤ n then 0 else a * 2 ^ n % 2 ^ w
  | 1 => if w ≤ n then 0 else a / 2 ^ n
  | _ => ((BitVec.ofNat w a).sshiftRight n).toNat

/-- VAND (R152). -/
def execVand (h : Hdr) (o : OpsA) (s : State) : Res := .next (vecBin s h o fun _ a b => .plain (a &&& b))
/-- VOR (R152). -/
def execVor (h : Hdr) (o : OpsA) (s : State) : Res := .next (vecBin s h o fun _ a b => .plain (a ||| b))
/-- VXOR (R152). -/
def execVxor (h : Hdr) (o : OpsA) (s : State) : Res := .next (vecBin s h o fun _ a b => .plain (a ^^^ b))
/-- VSHL (R152). -/
def execVshl (h : Hdr) (o : OpsA) (s : State) : Res :=
  .next (vecBin s h o fun _ a b => .plain (subShift o.ty.width 0 a b))
/-- VSHR (R152). -/
def execVshr (h : Hdr) (o : OpsA) (s : State) : Res :=
  .next (vecBin s h o fun _ a b => .plain (subShift o.ty.width 1 a b))
/-- VSAR (R152). -/
def execVsar (h : Hdr) (o : OpsA) (s : State) : Res :=
  .next (vecBin s h o fun _ a b => .plain (subShift o.ty.width 2 a b))

/-- VCMP of a sub-element (R153). -/
def subCmp (t : Ty) (cc : BitVec 4) (a b : Nat) : SubRes :=
  let r : Bool × BitVec 5 :=
    if t.isFp then fpCompare cc ((fmtOf t 0).decode a) ((fmtOf t 0).decode b)
    else (condInt cc (decide (readInt t a < readInt t b)) (decide (readInt t a = readInt t b)), 0)
  ⟨if r.1 then 2 ^ t.width - 1 else 0, r.2, false⟩

/-- VCMP (R153). -/
def execVcmp (h : Hdr) (o : OpsA) (s : State) : Res := .next (vecBin s h o fun _ a b => subCmp o.ty o.cc a b)

/-- VSEL (R154). -/
def execVsel (h : Hdr) (o : OpsA) (s : State) : Res :=
  .next (perLane s h [o.sa, o.sb, o.sc] fun _ l => ofRd l do
    let a ← vecRead l o.ty o.sa
    let b ← vecRead l o.ty o.sb
    let c ← vecRead l o.ty o.sc
    pure (retV l o.dst h.w ((c &&& a) ||| (~~~c &&& b))))

/-! Conversions (R155, R156). -/

/-- Conv: one sub-element from type c to type t (R155). -/
def subConv (t c : Ty) (sat : Bool) (r : Rnd × Nat) (a : Nat) : SubRes :=
  if t.isFp then
    if c.isFp then subFp ((fmtOf t 0).round ((fmtOf c 0).decode a).val r.1 r.2 false)
    else subFp ((fmtOf t 0).round (intVal (readInt c a)) r.1 r.2 false)
  else if c.isFp then
    let x := fpToInt t r ((fmtOf c 0).decode a)
    ⟨(BitVec.ofInt t.width x.1).toNat, x.2, false⟩
  else fitW t sat (readInt c a)

/-- A conversion that reads a part of A (`widen`) or writes a part of the destination (R155, R156): `n` sub-elements are
converted, from or to part `part`, of the widths `wt` and `wc`. `conv q r a`: with q the index in the register of the
narrow side. -/
def vecConv (s : State) (h : Hdr) (o : OpsA) (t c : Ty) (widen : Bool) (n part : Nat) (extra : List Src)
    (conv : Lane → Rd (Nat → Rnd × Nat → Nat → SubRes)) : State :=
  let js := if widen then List.range n else (List.range n).map (· + part * n)
  let from_ := fun j => if widen then part * n + j else j - part * n
  let reads : Nat → Nat → Bool := fun j g => inGran c.width (from_ j) g
  let whole := widen && decide (n = t.count)
  laneWord s h o.adv (if whole then o.sa :: extra else o.sa :: o.dst.asSrc :: extra)
    (fun _ src g =>
      (decide (src = o.sa) && js.any fun j => reads j g.toNat) ||
      (decide (src = o.dst.asSrc) && !whole && js.any fun j => inGran t.width j g.toNat) || extra.contains src)
    fun k l => ofRd l do
      let a ← vecSrc l c o.sa
      checkSub l o.sa js reads
      let f ← conv l
      if whole then pure () else checkSub l o.dst.asSrc js (inGran t.width)
      pure (vecRet s.fl l o.dst h.w t.width whole js fun j =>
        f (if widen then from_ j else j) (subRounding s o.rm k j) (subWord a c.width (from_ j)))

/-- VCVT (R155). -/
def execVcvt (h : Hdr) (o : OpsA) (s : State) : Res :=
  let c := Ty.ofCode o.cc
  let widen := decide (o.ty.count ≤ c.count)
  .next (vecConv s h o o.ty c widen (Nat.min o.ty.count c.count) o.is.toNat [] fun _ =>
    pure fun _ r a => subConv o.ty c o.sat r a)

/-- The part that SC of VCVT8 selects (R156). -/
def partOf : Src → Nat
  | .imm s => s.toNat
  | _ => 0

/-- The scale byte of binary8 sub-element q (R156): none where SB names g0. -/
def subScale (sb : Src) (b : Word) (q : Nat) : Option Nat := if sb = .g 0 then none else some (b.toNat / 2 ^ (8 * (q / 32)) % 256)

/-- VCVT8 (R156). -/
def execVcvt8 (h : Hdr) (o : OpsA) (s : State) : Res :=
  let c := Ty.ofCode o.cc
  let widen := c.isB8
  let n := Nat.min o.ty.count c.count
  .next (vecConv s h o o.ty c widen n (partOf o.sc) [o.sb] fun l => do
    let b ← srcGSub l o.sb (if widen then List.range n else (List.range n).map (· + partOf o.sc * n))
    pure fun q r a =>
      subFp (if widen then fpCvt8x (ccFmt o) (tyFmt o) r a (subScale o.sb b q)
             else fpCvt8 (ccFmt o) (tyFmt o) r o.sat a (subScale o.sb b q)))

/-! Moves (R157). -/

/-- VSPLAT (R157). -/
def execVsplat (h : Hdr) (o : OpsA) (s : State) : Res :=
  .next (perLane s h [o.sa] fun _ l => ofRd l do
    let a ← srcGSub l o.sa (List.range o.ty.count)
    pure (retV l o.dst h.w (vecOf o.ty.width o.ty.count fun _ => a.toNat)))

/-- A sub-element in a general register (R145). -/
def extendSub (t : Ty) (x : Nat) : Word :=
  if Ty.signedInt t then BitVec.ofInt 64 (readInt t x) else BitVec.ofNat 64 x

/-- The granules that VEXT reads of its vector, and VINS of its destination: that of the sub-element. -/
def readsOne (o : OpsA) (vec idx : Src) (l : Lane) (src : Src) (g : BitVec 3) : Bool :=
  if src = vec then
    match srcG l idx with
    | .ok b => decide (b.toNat < o.ty.count) && inGran o.ty.width b.toNat g.toNat
    | .error _ => false
  else true

/-- VEXT (R157). -/
def execVext (h : Hdr) (o : OpsA) (s : State) : Res :=
  .next (perLaneReads s h [o.sa, o.sb] (readsOne o o.sa o.sb) fun _ l => ofRd l do
    let a ← vecSrc l o.ty o.sa
    let b ← srcG l o.sb
    checkSub l o.sa [0] (fun _ g => decide (b.toNat < o.ty.count) && inGran o.ty.width b.toNat g)
    pure (retG l o.dst h.w (if b.toNat < o.ty.count then extendSub o.ty (subWord a o.ty.width b.toNat) else 0)))

/-- VINS (R157). -/
def execVins (h : Hdr) (o : OpsA) (s : State) : Res :=
  .next (perLaneReads s h [o.sa, o.sb, o.dst.asSrc] (readsOne o o.dst.asSrc o.sb) fun _ l => ofRd l do
    let a ← srcG l o.sa
    let b ← srcG l o.sb
    let j := b.toNat
    checkSub l o.dst.asSrc [j] (fun _ g => decide (j < o.ty.count) && inGran o.ty.width j g)
    let v := l.getV o.dst.vReg
    let x := if j < o.ty.count then BitVec.ofNat 512 (putBits v.toNat o.ty.width j a.toNat) else v
    pure (.done (if h.w then l.setVPart o.dst.vReg o.ty.width (fun i => decide (i = j)) x else l) (some (.vec x)) none))

/-- VMOV (R157). -/
def execVmov (h : Hdr) (o : OpsA) (s : State) : Res :=
  .next (perLane s h [o.sa] fun _ l => ofRd l do
    let a ← vecRead l o.ty o.sa
    pure (retV l o.dst h.w a))

end Sys2Proof.Machine
end

