-- ==== Sys2Proof/Machine/Hall.lean ====
section
/-! DEFINITION. Format M accesses as each instruction captures them, and the hall instructions: R39, R93, R168 to R171. -/

namespace Sys2Proof.Machine

/-- Bytes and sign extension of a scalar SZ code (R40). -/
def szBytes (sz : BitVec 3) : Nat :=
  match sz.toNat with
  | 0 | 4 => 1
  | 1 | 5 => 2
  | 2 | 6 => 4
  | _ => 8
def szSigned (sz : BitVec 3) : Bool := decide (4 ≤ sz.toNat)

/-- A scalar load of a lane (R93, R211). -/
def accLoad (sp : MSpace) (h : Hdr) (o : OpsM) (l : Lane) : Rd Acc := do
  let a ← srcG l o.sa
  pure { kind := .load, sp := sp, addr := a, disp := o.disp.toInt * szBytes o.sz, idx := 0, size := szBytes o.sz,
         sgn := szSigned o.sz, dst := o.dst, w := h.w }

/-- A scalar store of a lane, with its data (R93, R211). -/
def accStore (sp : MSpace) (h : Hdr) (o : OpsM) (l : Lane) : Rd (Acc × Nat) := do
  let a ← accLoad sp h o l
  let x ← srcG l o.dst.asSrc
  pure (a, x.toNat)

/-- A vector load of a lane (R169, R212). -/
def accVLoad (sp : MSpace) (h : Hdr) (o : OpsM) (l : Lane) : Rd Acc := do
  let a ← srcG l o.sa
  pure { kind := .load, sp := sp, addr := a, disp := o.disp.toInt * 64, idx := 0, size := 64, sgn := false, dst := o.dst,
         w := h.w }

/-- A vector store of a lane, with its data (R169, R212). -/
def accVStore (sp : MSpace) (h : Hdr) (o : OpsM) (l : Lane) : Rd (Acc × Nat) := do
  let a ← accVLoad sp h o l
  let x ← vecWhole l o.dst.asSrc
  pure (a, x.toNat)

/-- The type of an index vector (R170). -/
def idxType (sz : BitVec 3) : Ty :=
  match sz.toNat with
  | 0 => .uint8
  | 1 => .uint16
  | 2 => .uint32
  | _ => .uint64

/-- A gather of a lane (R170, R213). A gather that keeps some elements reads its destination only when it traps. -/
def accGather (sp : MSpace) (h : Hdr) (o : OpsM) (l : Lane) : Rd Acc := do
  let a ← srcGSub l o.sa (List.range (idxType o.sz).count)
  let i ← vecRead l (idxType o.sz) o.sb
  pure { kind := .gather, sp := sp, addr := a, disp := 0, idx := i, size := szBytes o.sz, sgn := false, dst := o.dst,
         w := h.w }

/-- A scatter of a lane, with its data (R170, R213). -/
def accScatter (sp : MSpace) (h : Hdr) (o : OpsM) (l : Lane) : Rd (Acc × Nat) := do
  let a ← accGather sp h o l
  let x ← vecRead l (idxType o.sz) o.dst.asSrc
  pure (a, x.toNat)

/-- The scope check of step 5 (R221): an invalid scope-table entry traps in every lane of Active whose operands `rd` can be
read. -/
def withScope (s : State) (h : Hdr) (scope : BitVec 6) (rd : Lane → Rd Unit) (go : State → State) : State :=
  match scopeCheck s s.fl scope with
  | .ok () => go (noteScope s s.fl scope)
  | .error t => finish (noteScope s s.fl scope) h.e false false (laneOuts s h fun _ l => ofRd l do
      rd l
      .error t)

/-- A scalar or vector load word. -/
def loadM (s : State) (h : Hdr) (o : OpsM) (srcs : List Src) (acc : Lane → Rd Acc) : State :=
  withScope s h o.scope (fun l => (acc l).map fun _ => ()) fun s => loadWord s h srcs acc

/-- A scalar or vector store word. -/
def storeM (s : State) (h : Hdr) (o : OpsM) (srcs : List Src) (acc : Lane → Rd (Acc × Nat)) : State :=
  withScope s h o.scope (fun l => (acc l).map fun _ => ()) fun s => storeWord s h o srcs acc

/-- LDH (R93). -/
def execLdh (h : Hdr) (o : OpsM) (s : State) : Res := .next (loadM s h o [o.sa] (accLoad .h h o))
/-- STH (R93). -/
def execSth (h : Hdr) (o : OpsM) (s : State) : Res := .next (storeM s h o [o.sa, o.dst.asSrc] (accStore .h h o))
/-- VLDH (R169). -/
def execVldh (h : Hdr) (o : OpsM) (s : State) : Res := .next (loadM s h o [o.sa] (accVLoad .h h o))
/-- VSTH (R169). -/
def execVsth (h : Hdr) (o : OpsM) (s : State) : Res := .next (storeM s h o [o.sa, o.dst.asSrc] (accVStore .h h o))
/-- VLDHX (R170). -/
def execVldhx (h : Hdr) (o : OpsM) (s : State) : Res := .next (loadM s h o [o.sa, o.sb] (accGather .h h o))
/-- VSTHX (R170). -/
def execVsthx (h : Hdr) (o : OpsM) (s : State) : Res :=
  .next (storeM s h o [o.sa, o.sb, o.dst.asSrc] (accScatter .h h o))

end Sys2Proof.Machine
end

