-- ==== Sys2Proof/Machine/Mem.lean ====
section
/-! DEFINITION. Loads and stores of the gallery, the mezzanine, main and remote memory, and the line-state instructions:
R197 to R200, R210 to R217. -/

namespace Sys2Proof.Machine

/-- LDG (R211). -/
def execLdg (h : Hdr) (o : OpsM) (s : State) : Res := .next (loadM s h o [o.sa] (accLoad .g h o))
/-- STG (R211). -/
def execStg (h : Hdr) (o : OpsM) (s : State) : Res := .next (storeM s h o [o.sa, o.dst.asSrc] (accStore .g h o))
/-- LDZ (R211). -/
def execLdz (h : Hdr) (o : OpsM) (s : State) : Res := .next (loadM s h o [o.sa] (accLoad .z h o))
/-- STZ (R211). -/
def execStz (h : Hdr) (o : OpsM) (s : State) : Res := .next (storeM s h o [o.sa, o.dst.asSrc] (accStore .z h o))
/-- LDM (R211). -/
def execLdm (h : Hdr) (o : OpsM) (s : State) : Res := .next (loadM s h o [o.sa] (accLoad .m h o))
/-- STM (R211). -/
def execStm (h : Hdr) (o : OpsM) (s : State) : Res := .next (storeM s h o [o.sa, o.dst.asSrc] (accStore .m h o))
/-- LDX (R211, R370). -/
def execLdx (h : Hdr) (o : OpsM) (s : State) : Res := .next (loadM s h o [o.sa] (accLoad .x h o))
/-- STX (R211, R370). -/
def execStx (h : Hdr) (o : OpsM) (s : State) : Res := .next (storeM s h o [o.sa, o.dst.asSrc] (accStore .x h o))
/-- VLDG (R212). -/
def execVldg (h : Hdr) (o : OpsM) (s : State) : Res := .next (loadM s h o [o.sa] (accVLoad .g h o))
/-- VSTG (R212). -/
def execVstg (h : Hdr) (o : OpsM) (s : State) : Res := .next (storeM s h o [o.sa, o.dst.asSrc] (accVStore .g h o))
/-- VLDZ (R212). -/
def execVldz (h : Hdr) (o : OpsM) (s : State) : Res := .next (loadM s h o [o.sa] (accVLoad .z h o))
/-- VSTZ (R212). -/
def execVstz (h : Hdr) (o : OpsM) (s : State) : Res := .next (storeM s h o [o.sa, o.dst.asSrc] (accVStore .z h o))
/-- VLDM (R212). -/
def execVldm (h : Hdr) (o : OpsM) (s : State) : Res := .next (loadM s h o [o.sa] (accVLoad .m h o))
/-- VSTM (R212). -/
def execVstm (h : Hdr) (o : OpsM) (s : State) : Res := .next (storeM s h o [o.sa, o.dst.asSrc] (accVStore .m h o))
/-- VLDX (R212, R370). -/
def execVldx (h : Hdr) (o : OpsM) (s : State) : Res := .next (loadM s h o [o.sa] (accVLoad .x h o))
/-- VSTX (R212, R370). -/
def execVstx (h : Hdr) (o : OpsM) (s : State) : Res := .next (storeM s h o [o.sa, o.dst.asSrc] (accVStore .x h o))
/-- VLDMX (R213). -/
def execVldmx (h : Hdr) (o : OpsM) (s : State) : Res := .next (loadM s h o [o.sa, o.sb] (accGather .m h o))
/-- VSTMX (R213). -/
def execVstmx (h : Hdr) (o : OpsM) (s : State) : Res :=
  .next (storeM s h o [o.sa, o.sb, o.dst.asSrc] (accScatter .m h o))

/-! Line state (R197 to R200, R217). -/

/-- The space of a line-state instruction (R210). -/
def lineSpace (sp : BitVec 3) : MSpace := if sp = 0 then .h else .g

/-- The line that a line-state instruction names, in the order of its checks (R217): its flat address. -/
def lineRead (s : State) (o : OpsM) (l : Lane) : Rd Nat := do
  let a ← srcG l o.sa
  let e : Elem := ⟨0, 64, a + BitVec.ofInt 64 (o.disp.toInt * 64), false⟩
  match probeChip s s.fl (lineSpace o.sp) e false with
  | .at_ key => pure key
  | .trap c v => .error (lt5 c v)
  | _ => pure 0

/-- A copy that has not completed has begun writing the line, and not all its bytes have landed (R217). -/
def lineFilling (s : State) (line : Nat) : Bool :=
  s.cmds.any fun c => c.result.isNone && c.begun.contains line

/-- PPROBE's result (R217). -/
def probeWord (s : State) (line : Nat) : Word :=
  let st := lineSt s line
  .cast (by rfl) (0#60 ++ BitVec.ofBool st.owner.isSome ++ BitVec.ofBool (lineFilling s line) ++ BitVec.ofBool st.c ++
    BitVec.ofBool st.p)

/-- PPROBE (R217). -/
def execPprobe (h : Hdr) (o : OpsM) (s : State) : Res :=
  .next (withScope s h o.scope (fun l => (srcG l o.sa).map fun _ => ()) fun s =>
    perLane s h [o.sa] fun _ l => ofRd l do
      let key ← lineRead s o l
      pure (retG l o.dst h.w (probeWord s (lineOf key))))

/-- A word that acts on lines of the lanes that execute it, in ascending order. -/
def lineWord (s : State) (h : Hdr) (o : OpsM) (act : State → Nat → State) : State :=
  withScope s h o.scope (fun l => (srcG l o.sa).map fun _ => ()) fun s =>
    match waitRelease s o.ord (active s h) false with
    | some s1 => s1
    | none =>
      let outs := laneOuts s h fun _ l => ofRd l do
        let _ ← lineRead s o l
        pure (retNone l)
      let s1 := { s with fl := { s.fl with rflat := logUnread s h [o.sa] (fun _ _ _ => true) } }
      finish ((executing s h).foldl (fun t k =>
        match lineRead s o (s.fl.lane k) with
        | .ok key => act t (lineOf key)
        | .error _ => t) s1) h.e false false outs

/-- PREL (R197, R200, R217): the lane's earlier loads have returned by the time that it issues, so the effect is due. -/
def execPrel (h : Hdr) (o : OpsM) (s : State) : Res :=
  let unit := if o.sp = 0 then s.fl.id.coreNo else s.fl.id.clusterNo
  let sp : Space := if o.sp = 0 then .hall else .gallery
  .next (lineWord s h o fun t line =>
    { t with prels := t.prels ++ [⟨sp, unit, line⟩], agenda := t.agenda ++ [.prelEffect] })

/-- PREL_EFFECT (R200): the oldest PREL takes effect. -/
def execPrelEffect (s : State) : Res :=
  match s.prels with
  | [] => .next s
  | p :: rest => .next (setLine { s with prels := rest } p.line { lineSt s p.line with c := true })

/-- PCLR (R195, R197, R217): P and C become 0; a FREE line takes the tag of the context. -/
def execPclr (h : Hdr) (o : OpsM) (s : State) : Res :=
  .next (lineWord s h o fun t line =>
    let l := lineSt t line
    setLine t line { owner := if l.owner.isNone && !s.fl.priv then some s.fl.ctx else l.owner, p := false, c := false })

end Sys2Proof.Machine
end

