-- ==== Sys2Proof/Machine/Atomic.lean ====
section
/-! DEFINITION. FENCE and the atomic instructions: R229 to R238. -/

namespace Sys2Proof.Machine

/-- The space of a code (R41). -/
def spaceOf (sp : BitVec 3) : MSpace :=
  match sp.toNat with
  | 0 => .h | 1 => .g | 2 => .z | 3 => .m | 4 => .x | _ => .n

/-- An atomic access of a lane (R233 to R235): the operand v, and for ACAS the comparand from DST. -/
def accAtomic (op : AtomOp) (h : Hdr) (o : OpsM) (l : Lane) : Rd Acc := do
  let a ← srcG l o.sa
  let v ← srcG l o.sb
  let cmp ← (match op with | .cas => srcG l o.dst.asSrc | _ => pure 0)
  pure { kind := .atomic op v cmp, sp := spaceOf o.sp, addr := a, disp := o.disp.toInt * szBytes o.sz, idx := 0,
         size := szBytes o.sz, sgn := false, dst := o.dst, w := h.w }

/-- An atomic word (R234, R236). -/
def atomicM (s : State) (h : Hdr) (o : OpsM) (op : AtomOp) : State :=
  let srcs := match op with | .cas => [o.sa, o.sb, o.dst.asSrc] | _ => [o.sa, o.sb]
  withScope s h o.scope (fun l => (accAtomic op h o l).map fun _ => ()) fun s =>
    atomicWord s h o srcs (accAtomic op h o)

/-- AADD (R233). -/
def execAadd (h : Hdr) (o : OpsM) (s : State) : Res := .next (atomicM s h o .add)
/-- AMIN (R233). -/
def execAmin (h : Hdr) (o : OpsM) (s : State) : Res := .next (atomicM s h o .min)
/-- AMAX (R233). -/
def execAmax (h : Hdr) (o : OpsM) (s : State) : Res := .next (atomicM s h o .max)
/-- AAND (R233). -/
def execAand (h : Hdr) (o : OpsM) (s : State) : Res := .next (atomicM s h o .and)
/-- AOR (R233). -/
def execAor (h : Hdr) (o : OpsM) (s : State) : Res := .next (atomicM s h o .or)
/-- AXOR (R233). -/
def execAxor (h : Hdr) (o : OpsM) (s : State) : Res := .next (atomicM s h o .xor)
/-- AXCHG (R233). -/
def execAxchg (h : Hdr) (o : OpsM) (s : State) : Res := .next (atomicM s h o .xchg)
/-- ACAS (R233): DST is read first, as the comparand. -/
def execAcas (h : Hdr) (o : OpsM) (s : State) : Res := .next (atomicM s h o .cas)
/-- AFADD (R233, R238). -/
def execAfadd (h : Hdr) (o : OpsM) (s : State) : Res := .next (atomicM s h o .fadd)
/-- AINC (R233). -/
def execAinc (h : Hdr) (o : OpsM) (s : State) : Res := .next (atomicM s h o .inc)

/-! FENCE (R229 to R232). -/

/-- The outcomes of a fence that has waited (R230): pD is true where no store that it waited for was dropped. A FENCE.ACQ
waits for none. -/
def fenceOuts (s : State) (h : Hdr) (o : OpsX) : Vector LaneOut 32 :=
  laneOuts s h fun k l => ofRd l do
    if h.w then
      checkDstP l o.dst h.w
      pure (retP l o.dst true (!(o.ord.getLsbD 1 && s.fl.dropped.has k)))
    else pure (retNone l)

/-- The dropped-store marks after a fence: those that it has covered are gone. -/
def clearDropped (f : Flight) (o : OpsX) (done : LaneSet) : Flight :=
  if o.ord.getLsbD 1 then { f with dropped := f.dropped &&& ~~~done } else f

/-- FENCE (R229 to R232): a release fence waits until no store of its lanes is held or unanswered. -/
def execFence (h : Hdr) (o : OpsX) (s : State) : Res :=
  .next (withScope s h o.scope (fun _ => .ok ()) fun s =>
    match waitRelease s o.ord (active s h) (scopeIsPod s.fl o.scope) with
    | some s1 => s1
    | none =>
      let outs := fenceOuts s h o
      let srcs := if h.w then [o.dst.asSrc] else []
      let s1 := { s with fl := { s.fl with rflat := logUnread s h srcs (fun _ _ _ => true) } }
      finish { s1 with fl := clearDropped s1.fl o (doneOf outs) } h.e false false outs)

/-- A peer marked LOST in this package's table, with its event (R371, R372). -/
def markLost (s : State) (peer : BitVec 10) : State :=
  let e := groupEntry s peer.toNat
  if !e.getLsbD 63 || e.getLsbD 62 then s
  else
    hubEvent { s with group := assocPut peer.toNat (e ||| 0x4000000000000000#64) s.group } evPeerLost
      Cause.peerUnreachable.code 0 (peer.setWidth 64) 0

/-- A remote store of a flight's lane that has not been acknowledged within 2^24 local cycles is dropped and reported, its peer is
marked LOST, and in this package it is never performed (R231, R371). -/
def dropOutstanding (s : State) (o : Outstanding) : State :=
  match o.owner with
  | .store f k =>
    let mine (r : RemRequest) : Bool := decide (r.pkg = s.host.pkgnum) && decide (r.id = o.id)
    let s1 := { s with outstanding := s.outstanding.filter (fun x => decide (x.id ≠ o.id)),
                       inbound := s.inbound.filter (fun x => !mine x.req) }
    dropStore (markLost s1 o.peer) f o.ctx k 1 o.peer Cause.peerUnreachable.code o.handle
  | _ => s

/-- FENCE_POD_TIMEOUT (R231): 2^24 local cycles after the issue of a flight's waiting fence, the unacknowledged remote
stores of a lane that it covers are dropped. -/
def execFencePodTimeout (f : FlightId) (l : LaneId) (s : State) : Res :=
  match (flightOf s f).bind (·.stall) with
  | some (.order lanes start true) =>
    if lanes.has l && decide (start.toNat + 2 ^ 24 ≤ (ccountOf s f.die).toNat) then
      .next ((s.outstanding.filter fun o => match o.owner with | .store g k => decide (g = f ∧ k = l) | _ => false).foldl
        dropOutstanding s)
    else .next s
  | _ => .next s

end Sys2Proof.Machine
end

