-- ==== Sys2Proof/Machine/Cross.lean ====
section
/-! DEFINITION. Cross-lane instructions: R158 to R167. -/

namespace Sys2Proof.Machine

/-- What lane k supplies to the other lanes of Active: its own source before the word; a lane whose source cannot be read
supplies a free value (log entry 11); a lane outside Active supplies nothing (R158). -/
def supply {α : Type} (s : State) (h : Hdr) (rd : Lane → Rd α) (free : VWord → α) (k : LaneId) : Option α :=
  if isActive s h k then
    match rd (s.fl.lane k) with
    | .ok x => some x
    | .error _ => some (free (Config.lostSource s.fresh k.val))
  else none

/-- A cross-lane word (R158): every lane of Active reads its own sources first. -/
def crossWord (s : State) (h : Hdr) (srcs : List Src) (f : LaneId → Lane → LaneOut) : State :=
  perLane { s with fresh := s.fresh + 1 } h srcs f

/-- The source lane of an offset mode (R160). -/
def sourceLane (mode : BitVec 3) (k : LaneId) (b : Word) : Nat :=
  match mode.toNat with
  | 0 => b.toNat
  | 1 => (k.val + (32 - b.toNat % 32)) % 32
  | 2 => (k.val + b.toNat) % 32
  | 3 => k.val ^^^ b.toNat
  | _ => (k.val + b.toNat % 256 * 32 / 256) % 32

/-- The value of a source lane, or the lane's own (R158, R160). -/
def fromLane {α : Type} (get : LaneId → Option α) (n : Nat) (own : α) : α :=
  if h : n < 32 then (get ⟨n, h⟩).getD own else own

/-- VSHFL (R160). -/
def execVshfl (h : Hdr) (o : OpsA) (s : State) : Res :=
  .next (crossWord s h [o.sa, o.sb] fun k l => ofRd l do
    let a ← vecWhole l o.sa
    let b ← srcG l o.sb
    pure (retV l o.dst h.w (fromLane (supply s h (fun l => vecWhole l o.sa) (fun x => x)) (sourceLane o.is k b) a)))

/-- GSHFL (R160). -/
def execGshfl (h : Hdr) (o : OpsA) (s : State) : Res :=
  .next (crossWord s h [o.sa, o.sb] fun k l => ofRd l do
    let a ← srcG l o.sa
    let b ← srcG l o.sb
    pure (retG l o.dst h.w
      (fromLane (supply s h (fun l => srcG l o.sa) (fun x => x.setWidth 64)) (sourceLane o.is k b) a)))

/-- A 64-bit value with bit i set at the lanes where `f` holds. -/
def laneBits (f : LaneId → Bool) : Word := (laneSetOf f).setWidth 64

/-- Whether SA of BALLOT gives the predicate form (R161): by its class, or by the class of the latch entry in the lowest
lane of Active whose entry is valid. -/
def ballotPred (s : State) (h : Hdr) (src : Src) : Bool :=
  match src with
  | .p _ => true
  | .latch k =>
    match allLanes.find? (fun j => isActive s h j && ((s.fl.lane j).latch k).isSome) with
    | some j => (match (s.fl.lane j).latch k with | some (.pred _) => true | _ => false)
    | none => false
  | _ => false

/-- BALLOT (R161). -/
def execBallot (h : Hdr) (o : OpsA) (s : State) : Res :=
  if ballotPred s h o.sa then
    .next (crossWord s h [o.sa] fun _ l => ofRd l do
      let _ ← srcP l o.sa
      if o.sb = .g 0 then
        pure (retG l o.dst h.w (laneBits fun j =>
          (supply s h (fun l => srcP l o.sa) (fun x => x.getLsbD 0) j).getD false))
      else .error (lt5 .illegal 0))
  else
    .next (crossWord s h [o.sa, o.sb] fun _ l => ofRd l do
      let _ ← srcG l o.sa
      let b ← srcG l o.sb
      pure (retG l o.dst h.w (laneBits fun j =>
        ((supply s h (fun l => srcG l o.sa) (fun x => x.setWidth 64) j).getD 0).getLsbD (b.toNat % 64))))

/-! Reductions (R162 to R164). -/

/-- The operator of a reduction on sub-elements of a type (R162): the codes of CC. -/
def redOp (t : Ty) (op : BitVec 4) (sat : Bool) (r : Rnd) (a b : Nat) : SubRes :=
  match op.toNat with
  | 0 => subArith t sat addNum (· + ·) (r, 0) a b
  | 1 => subMinMax t false a b
  | 2 => subMinMax t true a b
  | 3 => .plain (a &&& b)
  | 4 => .plain (a ||| b)
  | _ => .plain (a ^^^ b)

/-- Combine with absent values (R162); the flags and clamps of the parts are kept. -/
def combine (op : Nat → Nat → SubRes) (a b : Option SubRes) : Option SubRes :=
  match a, b with
  | none, y => y
  | x, none => x
  | some x, some y =>
    let z := op x.bits y.bits
    some ⟨z.bits, x.fl ||| y.fl ||| z.fl, x.sat || y.sat || z.sat⟩

/-- One level of the tree: neighbours combined. -/
def combinePairs (op : Nat → Nat → SubRes) : List (Option SubRes) → List (Option SubRes)
  | a :: b :: rest => combine op a b :: combinePairs op rest
  | xs => xs

/-- TreeReduce (R162) over a list of 2^n values. -/
def treeReduce (op : Nat → Nat → SubRes) : Nat → List (Option SubRes) → Option SubRes
  | 0, xs => (xs.head?).getD none
  | n + 1, xs => treeReduce op n (combinePairs op xs)

/-- A reduction may not dither (R162, R164): RM = 0 while FPCTL.RND is 4, on a floating type. -/
def redDithers (s : State) (o : OpsA) : Bool := o.ty.isFp && roundingOf s.fl o.rm == .dith

/-- The sub-elements that VRED gives (R162). -/
def redAll (s : State) (h : Hdr) (o : OpsA) : List SubRes :=
  let vals := allLanes.map fun j => supply s h (fun l => vecRead l o.ty o.sa) (fun x => x) j
  (List.range o.ty.count).map fun j =>
    (treeReduce (redOp o.ty o.cc o.sat (roundingOf s.fl o.rm)) 5
      (vals.map fun v => v.map fun x => SubRes.plain (subWord x o.ty.width j))).getD (.plain 0)

/-- VRED in a lane, from the sub-elements that it gives (R163): it raises as one instruction. -/
def redRet (f : Flight) (l : Lane) (o : OpsA) (w : Bool) (rs : List SubRes) : LaneOut :=
  let en := fpEnables f
  let bad := rs.foldl (fun m r => m ||| (r.fl &&& en)) 0
  if bad ≠ 0 then
    .trap l (some (.vec (l.getV o.dst.vReg))) ⟨5, (fpCause bad).1, (fpCause bad).2, bad.setWidth 64,
      subMask ((List.range rs.length).filter fun j => (rs.getD j (.plain 0)).fl &&& en != 0)⟩
  else
    retV (rs.foldl (fun l r => l.raiseSub r) l) o.dst w (vecOf o.ty.width o.ty.count fun j => (rs.getD j (.plain 0)).bits)

/-- VRED (R162, R163). -/
def execVred (h : Hdr) (o : OpsA) (s : State) : Res :=
  let rs := redAll s h o
  .next (crossWord s h [o.sa] fun _ l => ofRd l do
    let _ ← vecRead l o.ty o.sa
    if redDithers s o then .error (lt5 .illegal 0) else pure (redRet s.fl l o h.w rs))

/-- VREDS (R164). -/
def execVreds (h : Hdr) (o : OpsA) (s : State) : Res :=
  let dist := 2 ^ o.is.toNat
  .next (crossWord s h [o.sa] fun k l => ofRd l do
    let a ← vecRead l o.ty o.sa
    if redDithers s o then .error (lt5 .illegal 0)
    else
      let other : Option VWord :=
        if k.val % (2 * dist) = 0 then
          fromLane (fun j => (supply s h (fun l => vecRead l o.ty o.sa) (fun x => x) j).map some) (k.val + dist) none
        else none
      pure (vecRet s.fl l o.dst h.w o.ty.width true (List.range o.ty.count) fun j =>
        match other with
        | some b => redOp o.ty o.cc o.sat (roundingOf s.fl o.rm) (subWord a o.ty.width j) (subWord b o.ty.width j)
        | none => .plain (subWord a o.ty.width j)))

/-! VBFLY (R165). -/

/-- One field of VBFLY (R165): `low` is the lower lane of the pair. -/
def flyField (w : Nat) (low : Bool) (a p m sh : Nat) : Nat :=
  let mask := m % 2 ^ w
  let nmask := 2 ^ w - 1 - mask
  let up := if w ≤ sh then 0 else p * 2 ^ sh % 2 ^ w
  let dn := if w ≤ sh then 0 else p / 2 ^ sh
  if low then (a &&& mask) ||| (up &&& nmask) else (a &&& nmask) ||| (dn &&& mask)

/-- VBFLY on vectors (R165). A faulting granule of its operand is reported by sub-element of TY (R335), while TFIX takes the destination
as one element of 512 bits (R323, R330), so that only bit 0 of TEMASK is mended: DESIGN CHOICE, the rules conflict here (log entry 36).
Unsafe. -/
def flyVec (s : State) (h : Hdr) (o : OpsA) : State :=
  let dist := 2 ^ o.is.toNat
  crossWord s h [o.sa, o.sb, o.sc] fun k l => ofRd l do
    let a ← vecRead l o.ty o.sa
    let js := List.range o.ty.count
    let m ← srcGSub l o.sb js
    let sh ← srcGSub l o.sc js
    let other := fromLane (fun j => (supply s h (fun l => vecRead l o.ty o.sa) (fun x => x) j).map some) (k.val ^^^ dist) none
    match other with
    | none => pure (retV l o.dst h.w a)
    | some p => pure (retV l o.dst h.w (vecOf o.ty.width o.ty.count fun j =>
        flyField o.ty.width (k.val &&& dist == 0) (subWord a o.ty.width j) (subWord p o.ty.width j) m.toNat sh.toNat))

/-- VBFLY on general registers (R165). -/
def flyGen (s : State) (h : Hdr) (o : OpsA) : State :=
  let dist := 2 ^ o.is.toNat
  crossWord s h [o.sa, o.sb, o.sc] fun k l => ofRd l do
    let a ← srcG l o.sa
    let m ← srcG l o.sb
    let sh ← srcG l o.sc
    let other := fromLane (fun j => (supply s h (fun l => srcG l o.sa) (fun x => x.setWidth 64) j).map some) (k.val ^^^ dist) none
    match other with
    | none => pure (retG l o.dst h.w a)
    | some p => pure (retG l o.dst h.w
        (BitVec.ofNat 64 (flyField 64 (k.val &&& dist == 0) a.toNat p.toNat m.toNat sh.toNat)))

/-- VBFLY (R165): the vector form where DST is a vector register. -/
def execVbfly (h : Hdr) (o : OpsA) (s : State) : Res :=
  match o.dst with
  | .v _ => .next (flyVec s h o)
  | _ => .next (flyGen s h o)

/-! VTBL and VBCAST (R166, R167). -/

/-- Number of table registers of VTBL (R166). -/
def tblRegs (o : OpsT) : Nat := 2 ^ o.nt.toNat

/-- The first table register. -/
def tblBase (o : OpsT) : Nat := match o.sb with | .v i => i.toNat | _ => 0

/-- Table register r of VTBL. -/
def tblSrc (o : OpsT) (r : Nat) : Src := .v (BitVec.ofNat 5 (tblBase o + r))

/-- The table indices that a lane reads (R166): 64 bytes, or 32 16-bit sub-elements. -/
def tblIndices (o : OpsT) (a : VWord) : List Nat :=
  if o.form then (List.range 32).map (subWord a 16) else (List.range 64).map (subWord a 8)

/-- The table byte of an index, or FILL (R166). -/
def tblByte (l : Lane) (o : OpsT) (x : Nat) : Nat :=
  if x < 64 * tblRegs o then subWord (l.getV (BitVec.ofNat 5 (tblBase o + x / 64))) 8 (x % 64) else o.fill.toNat

/-- The granules that VTBL reads of its table and destination (R335). -/
def tblReads (o : OpsT) (l : Lane) (src : Src) (g : Nat) : Bool :=
  let byIndex := match vecSrc l .uint8 o.sa with
    | .ok a => (List.range (tblRegs o)).any fun r => decide (tblSrc o r = src) &&
        (tblIndices o a).any fun x => decide (x / 64 = r) && decide (x % 64 / 8 = g)
    | .error _ => false
  byIndex || decide (src = o.sa) ||
    (o.form && decide (src = o.dst.asSrc) && decide (g / 4 = (if o.half then 1 else 0)))

/-- VTBL (R166). -/
def execVtbl (h : Hdr) (o : OpsT) (s : State) : Res :=
  let srcs := o.sa :: ((List.range (tblRegs o)).map (tblSrc o) ++ if o.form then [o.dst.asSrc] else [])
  .next (perLaneReads s h srcs (fun l src g => tblReads o l src g.toNat) fun _ l => ofRd l do
    let a ← vecWhole l o.sa
    srcs.tail.forM fun src => checkSub l src [0] (fun _ g => tblReads o l src g)
    let idx := tblIndices o a
    let v :=
      if o.form then BitVec.ofNat 512 ((List.range 32).foldl (fun x i =>
        putBits x 8 (i + if o.half then 32 else 0) (tblByte l o (idx.getD i 0))) (l.getV o.dst.vReg).toNat)
      else vecOf 8 64 fun i => tblByte l o (idx.getD i 0)
    let part := fun j => decide (j / 32 = if o.half then 1 else 0)
    pure (.done (if h.w then (if o.form then l.setVPart o.dst.vReg 8 part v else l.setV o.dst.vReg v) else l) (some (.vec v)) none))

/-- The lane that VBCAST names, read in the lowest lane of Active (R167). -/
def bcastLane (s : State) (h : Hdr) (o : OpsA) : Nat :=
  match lowest (active s h) with
  | none => 32
  | some k => ((supply s h (fun l => srcG l o.sb) (fun x => x.setWidth 64) k).getD 0).toNat

/-- A vector source as one element, an immediate spread as the word's type says (R146). -/
def vecElem (l : Lane) (o : OpsA) : Rd VWord :=
  match vecSrc l o.ty o.sa with
  | .error e => .error e
  | .ok v => (checkSub l o.sa [0] (fun _ _ => true)).map fun _ => v

/-- VBCAST (R167): SB is read in the lowest lane of Active alone. -/
def execVbcast (h : Hdr) (o : OpsA) (s : State) : Res :=
  let low := lowest (active s h)
  let n := bcastLane s h o
  let rflat := logUnreadBy s [.p h.pg, o.sa, o.sb] fun k _ src _ => isActive s h k && (src != o.sb || low == some k)
  let s1 := { s with fresh := s.fresh + 1, fl := { s.fl with rflat := rflat } }
  .next (finish s1 h.e false false <| laneOuts s h fun k l => ofRd l do
    let a ← vecElem l o
    if low = some k then let _ ← srcG l o.sb
    pure (retV l o.dst h.w (fromLane (supply s h (fun l => vecElem l o) (fun x => x)) n a)))

end Sys2Proof.Machine
end

