-- ==== Sys2Proof/Machine/Matrix.lean ====
section
/-! DEFINITION. Matrix mode: R173 to R191. -/

namespace Sys2Proof.Machine

/-! The format word (R175). -/

/-- Fields of the format word (R175). -/
def fwA (w : Word) : Nat := (w.extractLsb' 0 4).toNat
def fwB (w : Word) : Nat := (w.extractLsb' 4 4).toNat
def fwAcc (w : Word) : Nat := (w.extractLsb' 8 4).toNat
def fwPa (w : Word) : Nat := (w.extractLsb' 12 3).toNat
def fwPb (w : Word) : Nat := (w.extractLsb' 15 3).toNat
def fwSca (w : Word) : Bool := w.getLsbD 18
def fwScb (w : Word) : Bool := w.getLsbD 19

/-- A binary8 format code. -/
def codeB8 (c : Nat) : Bool := decide (6 ≤ c) && decide (c ≤ 9)

/-- The word is a row of the legal combinations (R175). -/
def fwLegal (w : Word) : Bool :=
  let a := fwA w
  let b := fwB w
  let plain := fwPa w == 0 && fwPb w == 0 && !fwSca w && !fwScb w
  (a == 0 && b == 0 && fwAcc w == 0 && plain) || (a == 1 && b == 1 && fwAcc w == 1 && plain) ||
  ((a == 2 || a == 3) && (b == 2 || b == 3) && fwAcc w == 1 && plain) ||
  (codeB8 a && codeB8 b && fwAcc w == 1 && fwPa w != 0 && fwPb w != 0) ||
  ((a == 4 || a == 5) && (b == 4 || b == 5) && fwAcc w == 11 && plain)

/-- The largest KP of a legal word (R175). -/
def fwKpMax (w : Word) : Nat :=
  match fwA w with
  | 0 => 0 | 1 => 1 | 2 | 3 => 3 | _ => 7

/-- Registers of the accumulator tile (R174). -/
def fwRegs (w : Word) : Nat :=
  match fwA w with
  | 0 | 1 => 1 | 2 | 3 => 2 | _ => 4

/-- Columns of the accumulator tile (R174). -/
def fwCols (w : Word) : Nat :=
  match fwA w with
  | 0 => 8 | 1 => 16 | 2 | 3 => 32 | _ => 64

/-- Types of the A and B elements and of the accumulator. -/
def fwTyA (w : Word) : Ty := Ty.ofCode (w.extractLsb' 0 4)
def fwTyB (w : Word) : Ty := Ty.ofCode (w.extractLsb' 4 4)
def fwTyAcc (w : Word) : Ty := Ty.ofCode (w.extractLsb' 8 4)

/-! Elements and steps (R180 to R182). -/

/-- A number times 2^k. -/
def scaleExp (x : Num) (k : Int) : Num :=
  match x with
  | .fin neg m e => .fin neg m (e + k)
  | y => y

/-- An element multiplied by 2^(e − 127) (R100, R181). -/
def scaledNum (x : Num) (scale : Option Nat) : Num :=
  match scale with
  | none => x
  | some b =>
    match scaleOf b with
    | none => .nan false
    | some k => scaleExp x k

/-- An element of a grid operation or of a GEMV: a number, or an integer. -/
inductive GElem where
  | num (x : Num)
  | int (x : Int)

/-- The element +0 (R190). -/
def GElem.zero (t : Ty) : GElem := if t.isInt then .int 0 else .num (.fin false 0 0)

/-- A decoded and scaled element (R180, R181). -/
def gElem (t : Ty) (p : Nat) (bits : Nat) (scale : Option Nat) : GElem :=
  if t.isInt then .int (readInt t bits) else .num (scaledNum ((fmtOf t p).decode bits) scale)

/-- One step: a × b + acc, rounded once to nearest even, or through FitW (R180, R267). -/
def gStep (t : Ty) (sat : Bool) (acc : SubRes) (a b : GElem) : SubRes :=
  match a, b with
  | .int x, .int y =>
    let r := fitW t sat (x * y + readInt t acc.bits)
    ⟨r.bits, acc.fl, acc.sat || r.sat⟩
  | .num x, .num y =>
    let f := fmtOf t 0
    let r := f.round (fmaNum x y (f.decode acc.bits)) .rne 0 false
    ⟨r.1, acc.fl ||| r.2, acc.sat⟩
  | _, _ => acc

/-- The granule of sub-element j of width w of a register was faulty when the operation read it (R190). -/
def GridOp.badSub (o : GridOp) (k : LaneId) (sel : BitVec 8) (w j : Nat) : Bool :=
  o.bad.any fun x => decide (x.1 = k ∧ x.2.sel = sel) && inGran w j x.2.gran.toNat

/-- Selectors of the operation's registers. -/
def GridOp.selA (o : GridOp) : BitVec 8 := (Src.v (BitVec.ofNat 5 o.regs.1)).bits
def GridOp.selB (o : GridOp) : BitVec 8 := (Src.v (BitVec.ofNat 5 o.regs.2.1)).bits
def GridOp.selVs (o : GridOp) : BitVec 8 := (Src.v (BitVec.ofNat 5 o.regs.2.2.1)).bits
def GridOp.selAs (o : GridOp) : BitVec 8 := (Src.g (BitVec.ofNat 6 o.regs.2.2.2)).bits

/-- ScaledA(l, k) (R181, R190). -/
def GridOp.elemA (o : GridOp) (l : LaneId) (k : Nat) : GElem :=
  let t := fwTyA o.fmt
  if o.badSub l o.selA t.width k || (fwSca o.fmt && o.badSub l o.selAs 8 (k / 32)) then .zero t
  else gElem t (fwPa o.fmt) (subWord (o.va.get l) t.width k)
    (if fwSca o.fmt then some ((o.ascale.get l).toNat / 2 ^ (8 * (k / 32)) % 256) else none)

/-- ScaledB(bl, c) (R181, R190). -/
def GridOp.elemB (o : GridOp) (bl : LaneId) (c : Nat) : GElem :=
  let t := fwTyB o.fmt
  if o.badSub bl o.selB t.width c || (fwScb o.fmt && o.badSub bl o.selVs 8 c) then .zero t
  else gElem t (fwPb o.fmt) (subWord (o.vb.get bl) t.width c)
    (if fwScb o.fmt then some (subWord (o.vs.get bl) 8 c) else none)

/-- The lane base + i. -/
def baseLane (base i : Nat) : LaneId := Fin.ofNat 32 (base + i)

/-- Where column c is held (R174): register and sub-element. -/
def accPlace (o : GridOp) (c : Nat) : BitVec 5 × Nat :=
  let n := (fwTyAcc o.fmt).count
  (BitVec.ofNat 5 (o.first + c / n), c % n)

/-- The accumulator element as the operation finds it; one in a faulting granule starts from +0 (R190). -/
def accBad (o : GridOp) (l : Lane) (c : Nat) : Bool :=
  let p := accPlace o c
  (l.granules (.v p.1)).any fun x => inGran (fwTyAcc o.fmt).width p.2 x.gran.toNat
def accStart (o : GridOp) (l : Lane) (c : Nat) : Nat :=
  let p := accPlace o c
  if accBad o l c then 0 else subWord (l.getV p.1) (fwTyAcc o.fmt).width p.2

/-- The new element of a row and column (R180): eight steps in ascending k. -/
def accNew (o : GridOp) (k : LaneId) (l : Lane) (base c : Nat) : SubRes :=
  (List.range 8).foldl (fun acc i =>
    gStep (fwTyAcc o.fmt) o.sat acc (o.elemA k (8 * o.kp + i)) (o.elemB (baseLane base i) c)) (.plain (accStart o l c))

/-- A lane after its row of an operation (R180, R182). -/
def gridRow (o : GridOp) (k : LaneId) (l : Lane) (base : Nat) : Lane :=
  let n := (fwTyAcc o.fmt).count
  let rs := (List.range (fwCols o.fmt)).map fun c => accNew o k l base c
  let l1 := rs.foldl (fun l r => l.raiseSub r) l
  (List.range o.count).foldl (fun l r =>
    l.setV (BitVec.ofNat 5 (o.first + r)) (vecOf (fwTyAcc o.fmt).width n fun j => (rs.getD (r * n + j) (.plain 0)).bits)) l1

/-- Logging one error in MERR and MERRXY (R190): SRC, register, lane, sub-element. -/
def logMerr (f : Flight) (pc : Pc) (x : Nat × Nat × Nat × Nat) : Flight :=
  let count := f.merr.extractLsb' 8 8
  let c1 : BitVec 8 := if count = 0xFF#8 then count else count + 1
  if f.merr.getLsbD 0 then { f with merr := .cast (by rfl) (0#48 ++ c1 ++ 0#6 ++ 3#2) }
  else { f with merr := .cast (by rfl) (0#48 ++ c1 ++ 0#6 ++ 1#2),
                merrxy := .cast (by rfl) (0#15 ++ pc ++ 0#11 ++ BitVec.ofNat 2 x.1 ++ BitVec.ofNat 6 x.2.1 ++
                  BitVec.ofNat 7 x.2.2.1 ++ BitVec.ofNat 6 x.2.2.2) }

/-- The quarters of an operation that have an active lane (R180). -/
def GridOp.quarters (o : GridOp) : List (Fin 4) :=
  (List.finRange 4).filter fun q => allLanes.any fun k => o.act.has k && decide (k.val / 8 = q.val)

/-- The base of a quarter. -/
def GridOp.base (o : GridOp) (q : Fin 4) : Nat := o.bases.get q

/-- The distinct bases, in the order of their passes (R183). -/
def GridOp.passes (o : GridOp) : List Nat := ((o.quarters.map o.base).reverse.dedup).reverse

/-- The active lanes of a pass. -/
def GridOp.passLanes (o : GridOp) (base : Nat) : List LaneId :=
  allLanes.filter fun k => o.act.has k && decide (o.base (Fin.ofNat 4 (k.val / 8)) = base)

/-- The operand errors of a pass in the order of its steps (R190): A elements, A scales, accumulators, B elements and
scales. -/
def passErrors (f : Flight) (o : GridOp) (base : Nat) : List (Nat × Nat × Nat × Nat) :=
  let lanes := o.passLanes base
  let wa := (fwTyA o.fmt).width
  let wb := (fwTyB o.fmt).width
  let acc := lanes.flatMap fun k => ((List.range (fwCols o.fmt)).filter (accBad o (f.lane k))).map fun c =>
    (2, (accPlace o c).1.toNat, k.val, (accPlace o c).2)
  let ascale := if fwSca o.fmt then
      (lanes.filter fun k => o.badSub k o.selAs 8 (8 * o.kp / 32)).map fun k => (3, o.regs.2.2.2, k.val, 8 * o.kp / 32)
    else []
  acc ++ ascale ++ (List.range 8).flatMap fun i =>
    let bl := baseLane base i
    ((lanes.filter fun k => o.badSub k o.selA wa (8 * o.kp + i)).map fun k => (0, o.regs.1, k.val, 8 * o.kp + i)) ++
    (((List.range (fwCols o.fmt)).filter fun c => o.badSub bl o.selB wb c).map fun c => (1, o.regs.2.1, bl.val, c)) ++
    (if fwScb o.fmt then ((List.range (fwCols o.fmt)).filter fun c => o.badSub bl o.selVs 8 c).map fun c =>
        (3, o.regs.2.2.1, bl.val, c) else [])

/-- A flight after an operation of its grid (R180 to R183, R187, R189, R190). -/
def gridDone (f : Flight) (o : GridOp) : Flight :=
  if o.zero then
    f.mapLanes fun k l => if o.act.has k then
      (List.range o.count).foldl (fun l r => l.setV (BitVec.ofNat 5 (o.first + r)) 0) l else l
  else
    let f1 := (o.passes.flatMap (passErrors f o)).foldl (fun f x => logMerr f o.pc x) f
    let f2 := f1.mapLanes fun k l => if o.act.has k then gridRow o k l (o.base (Fin.ofNat 4 (k.val / 8))) else l
    { f2 with mpasses := f2.mpasses + BitVec.ofNat 32 o.passes.length }

/-- GRID_OPERATION (R184): the next operation of an engine's grid, whole. -/
def execGridOperation (core eng : Nat) (s : State) : Res :=
  let c := coreOf s core
  match c.grid.get (Fin.ofNat 4 eng) with
  | [] => .next s
  | o :: rest =>
    .next (updFlight (setCore s core { c with grid := c.grid.set (Fin.ofNat 4 eng) rest }) o.flight fun f => gridDone f o)

/-! The MMA family (R178 to R183). -/

/-- The general registers that SC names: gF + i (R178). -/
def groupReg (src : Src) (i : Nat) : BitVec 6 := BitVec.ofNat 6 ((srcReg src).toNat + i)

/-- MODIFIER as a word. -/
def OpsGmodifier (o : OpsG) : Word :=
  .cast (by rfl) (0#48 ++ o.vs ++ o.base ++ BitVec.ofBool o.sat ++ o.kp)

/-- The register number that a vector selector names. -/
def vecNum : Src → Nat
  | .v i => i.toNat
  | _ => 0

/-- Checks 3 to 6 of R179 on the agreed word. -/
def mmaCheck (o : OpsG) (w : Word) : Rd Unit :=
  if !fwLegal w then .error (lt5 .illegal w)
  else if fwKpMax w < o.kp.toNat ∨ (o.sat = true ∧ fwAcc w ≠ 11) then .error (lt5 .illegal (OpsGmodifier o))
  else if o.dst.vReg.toNat % fwRegs w ≠ 0 then .error (lt5 .illegal (BitVec.ofNat 64 o.dst.vReg.toNat))
  else if fwScb w = false ∧ o.vs ≠ 0 then .error (lt5 .illegal (OpsGmodifier o))
  else .ok ()

/-- The value of register gF + i of a lane as an MMA reads it (R178): an MMA does not raise RF_UNCORRECTABLE (R190), so a faulting
register gives a free value (log entry 19). -/
def mmaReg (s : State) (o : OpsG) (i : Nat) (k : LaneId) : Word :=
  let l := s.fl.lane k
  if (l.granules (.g (groupReg o.sc i))).isEmpty then l.getG (groupReg o.sc i)
  else (Config.lostSource s.fresh k.val).extractLsb' (64 * i) 64

/-- The base of a quarter (R183): read in the lowest lane of Active within it, or BASE. -/
def mmaBase (s : State) (h : Hdr) (o : OpsG) (imm : Bool) (q : Nat) : Word :=
  if imm then o.base.setWidth 64
  else
    match allLanes.find? (fun k => isActive s h k && decide (k.val / 8 = q)) with
    | some k => mmaReg s o 1 k
    | none => 0

/-- The store address of the word at issue; a repeat is at the word after its REP. -/
def wordPc (s : State) : Pc := if (repeating s).isSome then issuePc s + 8 else issuePc s

/-- The outcome of an MMA in a lane (R179). -/
def mmaOut (s : State) (h : Hdr) (o : OpsG) (imm : Bool) (k : LaneId) (l : Lane) : LaneOut :=
  ofRd l do
    let own := mmaReg s o 0 k
    if !s.fl.mm then .error (lt5 .modeViolation 0)
    else
      let words := (allLanes.filter fun j => isActive s h j).map (mmaReg s o 0)
      if words.any (fun w => decide (w ≠ own)) || own.extractLsb' 22 42 != 0 then .error (lt5 .formatDivergence own)
      else do
        mmaCheck o own
        let base := mmaBase s h o imm (k.val / 8)
        if 24 < base.toNat then .error (lt5 .illegal base) else pure (retNone l)

/-- The operation that an MMA queues for the lanes that complete it (R180). -/
def mmaOp (s : State) (h : Hdr) (o : OpsG) (imm : Bool) (act : LaneSet) (fmt : Word) : GridOp :=
  let dead := fun (k : LaneId) => (s.fl.lane k).exited
  let vreg := fun (n : Nat) => tab fun k => if dead k then (0 : VWord) else (s.fl.lane k).getV (BitVec.ofNat 5 n)
  let a := vecNum o.sa
  let b := vecNum o.sb
  let g := (groupReg o.sc 2).toNat
  let sels := [(Src.v (BitVec.ofNat 5 a)).bits, (Src.v (BitVec.ofNat 5 b)).bits, (Src.v o.vs).bits,
    (Src.g (BitVec.ofNat 6 g)).bits]
  { flight := s.fl.id, slot := s.fl.slot.getD 0, pc := wordPc s, zero := false, first := o.dst.vReg.toNat, count := fwRegs fmt,
    act := act, fmt := fmt, kp := o.kp.toNat, sat := o.sat, va := vreg a, vb := vreg b, vs := vreg o.vs.toNat,
    ascale := tab fun k => (s.fl.lane k).getG (groupReg o.sc 2),
    bases := tab fun q => (mmaBase s h o imm q.val).toNat, regs := (a, b, o.vs.toNat, g),
    bad := allLanes.flatMap fun k => if dead k then [] else
      ((s.fl.lane k).faulty.filter fun x => sels.contains x.sel).map fun x => (k, x) }

/-- A grid operation queued on the flight's engine (R184). -/
def queueGrid (s : State) (o : GridOp) : State :=
  let c := coreOf s s.fl.id.coreNo
  let e := Fin.ofNat 4 (s.fl.slot.getD 0 / 2)
  setCore s s.fl.id.coreNo { c with grid := c.grid.set e (c.grid.get e ++ [o]) }

/-- The outcomes of an MMA: unlike other words it does not trap on a faulting predicate byte (R190). -/
def mmaOuts (s : State) (h : Hdr) (o : OpsG) (imm : Bool) : Vector LaneOut 32 :=
  tab fun k =>
    if isActive s h k then
      match (s.fl.lane k).fail with
      | some (t, _) => .trap { s.fl.lane k with fail := none } (s.fl.lane k).part t
      | none => mmaOut s h o imm k (s.fl.lane k)
    else .idle

/-- An MMA word (R179 to R184). A faulting predicate byte or register of its group is logged in RFLAT (R190, R335; log entry 19). -/
def mmaWord (s : State) (h : Hdr) (o : OpsG) (imm : Bool) : State :=
  let outs := mmaOuts s h o imm
  let act := doneOf outs
  let s1 := { s with fresh := s.fresh + 1,
                     fl := { s.fl with rflat := logUnread s h (if imm then [o.sc] else [o.sc, .g (groupReg o.sc 1)])
                                                  (fun _ _ _ => false) } }
  let fmt := match lowest act with | some k => mmaReg s o 0 k | none => 0
  finish (if act = 0 then s1 else queueGrid s1 (mmaOp s h o imm act fmt)) h.e false false outs

/-- MMA (R178 to R184). -/
def execMma (h : Hdr) (o : OpsG) (s : State) : Res := .next (mmaWord s h o false)
/-- MMAI (R178 to R184). -/
def execMmai (h : Hdr) (o : OpsG) (s : State) : Res := .next (mmaWord s h o true)

/-- Registers of MZERO's group (R187). -/
def zeroCount (o : OpsA) : Nat := 2 ^ o.is.toNat

/-- MZERO (R187). -/
def execMzero (h : Hdr) (o : OpsA) (s : State) : Res :=
  let first := o.dst.vReg.toNat
  if s.fl.mm then
    let outs := laneOuts s h fun _ l => retNone l
    let act := doneOf outs
    let none64 : Vector VWord 32 := Vector.replicate 32 0
    let op : GridOp :=
      { flight := s.fl.id, slot := s.fl.slot.getD 0, pc := wordPc s, zero := true, first := first, count := zeroCount o,
        act := act, fmt := 0, kp := 0, sat := false, va := none64, vb := none64, vs := none64,
        ascale := Vector.replicate 32 0, bases := Vector.replicate 4 0, regs := (0, 0, 0, 0), bad := [] }
    .next (finish (if act = 0 then s else queueGrid s op) h.e false false outs)
  else
    .next (perLane s h [] fun _ l =>
      retNone ((List.range (zeroCount o)).foldl (fun l r => l.setV (BitVec.ofNat 5 (first + r)) 0) l))

/-- MDRAIN (R188): the wait is over when the word issues; .ADV advances DPHASE. -/
def execMdrain (h : Hdr) (o : OpsA) (s : State) : Res :=
  .next (laneWord s h o.adv [] (fun _ _ _ => true) fun _ l => retNone l)

/-- MSTAT's result (R189). -/
def mstatWord (s : State) : Word :=
  let ops := gridOps s s.fl
  let q := ops.foldl (fun n o => if o.zero then n else n + o.passes.length) 0
  .cast (by rfl) (s.fl.mpasses ++ 0#16 ++ BitVec.ofNat 8 q ++ BitVec.ofNat 4 ops.length ++ 0#3 ++ BitVec.ofBool s.fl.mm)

/-- MSTAT (R189). -/
def execMstat (h : Hdr) (o : OpsA) (s : State) : Res := .next (perLane s h [] fun _ l => retG l o.dst h.w (mstatWord s))

/-! Entering and leaving matrix mode (R176, R177). -/

/-- The address of an MMODE at which a lane of the flight is parked, if it is not `pc`. -/
def otherMmode (f : Flight) (pc : Pc) : Option Pc :=
  allLanes.findSome? fun k =>
    match (f.lane k).st with
    | .parked (.mmode _) => if (f.lane k).pc ≠ pc then some (f.lane k).pc else none
    | _ => none

/-- MMODE (R176, R177): the issuing set parks until every live lane has come. -/
def mmodeWord (s : State) (h : Hdr) (on : Bool) : State :=
  perLane s h [] fun _ l =>
    if s.fl.hnd || s.fl.mm == on then .trap l none (lt5 .modeViolation 0)
    else
      match otherMmode s.fl l.pc with
      | some p => .trap l none (lt5 .modeViolation (p.setWidth 64))
      | none => .park l (.mmode on)

/-- MMODE.ON (R177). -/
def execMmodeOn (h : Hdr) (_ : OpsA) (s : State) : Res := .next (mmodeWord s h true)
/-- MMODE.OFF (R177). -/
def execMmodeOff (h : Hdr) (_ : OpsA) (s : State) : Res := .next (mmodeWord s h false)

/-- The direction of the MMODE at which every live lane of a flight is parked (R177). -/
def mmodeGathered (f : Flight) : Option Bool :=
  match allLanes.find? fun k => !(f.lane k).exited with
  | none => none
  | some k0 =>
    match (f.lane k0).st with
    | .parked (.mmode on) =>
      if allLanes.all fun k => (f.lane k).exited || decide ((f.lane k).st = .parked (.mmode on)) then some on else none
    | _ => none

/-- MMODE_GATHER_COMPLETE (R177): with the grid drained for MMODE.OFF, MM changes and the lanes complete. -/
def execMmodeGatherComplete (f : FlightId) (s : State) : Res :=
  match flightOf s f with
  | none => .next s
  | some x =>
    match mmodeGathered x with
    | none => .next s
    | some on =>
      if !on && gridOps s x != [] then .next s
      else .next (wake s x { x.mapLanes (fun _ l => if l.exited then l else l.complete none) with mm := on })

/-! Waiting for the grid at issue (R184 to R186). -/

/-- A source or destination of v24 to v31. -/
def windowSrc : Src → List Nat
  | .v i => if 24 ≤ i.toNat then [i.toNat] else []
  | _ => []
def windowDst : Dst → List Nat
  | .v i => if 24 ≤ i.toNat then [i.toNat] else []
  | _ => []

/-- The registers v24 to v31 that a word names (R185). A TFIX also writes the destination of the trapped word. -/
def windowRegs (s : State) (i : Instr) : List Nat :=
  let named := match i.parts with
    | some (.a _ _ o) => windowDst o.dst ++ windowSrc o.sa ++ windowSrc o.sb ++ windowSrc o.sc
    | some (.b _ _ o) => windowDst o.dst ++ windowSrc o.sa
    | some (.c _ _ o) => windowDst o.dst ++ windowSrc o.sa
    | some (.m _ _ o) => windowDst o.dst ++ windowSrc o.sa ++ windowSrc o.sb
    | some (.x _ _ o) => windowDst o.dst ++ windowSrc o.sa ++ windowSrc o.sb
    | some (.t _ _ o) => windowDst o.dst ++ windowSrc o.sa ++
        ((List.range (tblRegs o)).map (· + tblBase o)).filter fun r => decide (24 ≤ r)
    | some (.dual _ a b) => windowDst a.dst ++ windowSrc a.src ++ windowDst b.dst ++ windowSrc b.src
    | _ => []
  match i with
  | .tfix _ _ =>
    let w := s.fl.tinsn
    let field := if !w.getLsbD 62 then w.extractLsb' 40 7
      else if s.fl.tcause.getLsbD 8 then w.extractLsb' 13 7 else w.extractLsb' 44 7
    (match dstOf field with | some d => named ++ windowDst d | none => named)
  | _ => named

/-- A floating-point word, which needs the multipliers (R186). -/
def needsGrid (i : Instr) : Bool :=
  match i with
  | .fadd _ _ | .fsub _ _ | .fmul _ _ | .ffma _ _ | .fdiv _ _ | .fsqrt _ _ | .fmin _ _ | .fmax _ _ | .fabs _ _ | .fneg _ _
  | .fcmp _ _ | .fclass _ _ | .frnd _ _ | .fcvt _ _ | .fcvti _ _ | .icvtf _ _ | .cvt8 _ _ | .cvt8x _ _ | .fscale _ _
  | .sclx _ _ | .vdiv _ _ | .vsqrt _ _ | .vcvt8 _ _ => true
  | .vadd _ o | .vsub _ o | .vmul _ o | .vfma _ o | .vmin _ o | .vmax _ o | .vcmp _ o | .vred _ o | .vreds _ o => o.ty.isFp
  | .vcvt _ o => o.ty.isFp || (Ty.ofCode o.cc).isFp
  | .dualWord _ a b =>
    [a, b].any fun x => match x.hop with
      | .fadd | .fsub | .fmul | .fmin | .fmax | .fabs | .fneg => true
      | .vadd | .vsub | .vmul | .vmin | .vmax => (Ty.ofCode (x.md.extractLsb' 0 4)).isFp
      | _ => false
  | _ => false

/-- A system register whose reads and writes wait for the flight's grid operations (R186). -/
def sysWaits (imm : BitVec 24) : Bool := [0x031, 0x033, 0x050, 0x051].contains (imm.extractLsb' 0 12).toNat

/-- An operation of the flight that is queued writes one of the registers (R185). -/
def drainNeeded (s : State) (f : Flight) (regs : List Nat) : Bool :=
  (gridOps s f).any fun o => regs.any fun r => decide (o.first ≤ r) && decide (r < o.first + o.count)

/-- What a word of the flight at issue waits for before it executes (R184 to R186). -/
def gridStall (s : State) (i : Instr) : Option Stall :=
  match i with
  | .mma _ _ | .mmai _ _ => if s.fl.mm && decide (8 ≤ (gridOf s s.fl).length) then some .gridFull else none
  | .mzero _ _ => if s.fl.mm && decide (8 ≤ (gridOf s s.fl).length) then some .gridFull else none
  | .mdrain _ _ => if gridOps s s.fl = [] then none else some .flightGrid
  | .mstat _ _ => none
  | .mfs _ o | .mts _ o => if sysWaits o.imm && gridOps s s.fl != [] then some .flightGrid else none
  | _ =>
    if drainNeeded s s.fl (windowRegs s i) then some (.drain (windowRegs s i))
    else if needsGrid i && gridOf s s.fl != [] then some .engineGrid
    else none

end Sys2Proof.Machine
end

