-- ==== Sys2Proof/Machine/Once.lean ====
section
/-! DEFINITION. Words that one issuing lane performs once for its issuing set (R31, R32, R43, R247, R297, R316). -/

namespace Sys2Proof.Machine

/-- What every lane of Active receives. -/
inductive OnceVal where
  | none
  | gen (x : Word)
  | pred (b : Bool)
  | words (ws : List Word)

/-- What the issuing lane's one performance gives: the state with the effect and the result; a trap of the issuing lane
alone, or of every lane of Active; a park of the issuing set (R31); or a stall of the engine without effect. -/
inductive OnceOut where
  | fin (s : State) (v : OnceVal)
  | trap (s : State) (t : LTrap)
  | trapAll (t : LTrap)
  | park (s : State) (c : Park)
  | stall (st : Stall)

/-- A trap without effect. -/
def OnceOut.ofTrap (s : State) (t : LTrap) : OnceOut := .trap s t

/-- The outcome of a lane that receives a result (R22, R24). -/
def onceDone (l : Lane) (d : Dst) (w : Bool) (v : OnceVal) : LaneOut :=
  match v with
  | .none => retNone l
  | .gen x => retG l d w x
  | .pred b => retP l d w b
  | .words ws =>
    .done ((List.range ws.length).foldl (fun l i => l.setG (d.gReg + BitVec.ofNat 6 i) (ws.getD i 0)) l)
      (some (.gen (ws.getD 0 0))) none

/-- The lanes of Active that trap before the effect: a failed park, a faulty predicate byte (R30, R335). -/
def oncePre (s : State) (h : Hdr) (d : Dst) : Vector LaneOut 32 :=
  laneOuts s h fun _ l => ofRd l do
    match d with
    | .p _ => checkDstP l d h.w
    | _ => pure ()
    pure (retNone l)

/-- The outcomes where some lanes trap and no lane has an effect (R31). -/
def onceTraps (pre : Vector LaneOut 32) (s : State) (set : LaneSet) (t : LTrap) : Vector LaneOut 32 :=
  tab fun k =>
    match pre.get k with
    | .trap l x u => .trap l x u
    | r => if set.has k then .trap (s.fl.lane k) none t else r

/-- One lane as a set. -/
def oneLane (k : LaneId) : LaneSet := 1#32 <<< k.val

/-- A word that its issuing lane performs once (R31, R43). `srcs` are the registers that it reads in that lane. -/
def onceWord (s : State) (h : Hdr) (ls : Bool) (lane : BitVec 7) (d : Dst) (srcs : List Src)
    (act : State → LaneId → OnceOut) : State :=
  let a := active s h
  let pre := oncePre s h d
  match issuingLane s h ls lane with
  | none => finish s h.e false false pre
  | some k =>
    if a = 0 then finish s h.e false false pre
    else if ls && (!a.has k || decide (32 ≤ lane.toNat)) then wordTrap s 5 .illegal (lane.setWidth 64) false
    else
      let dsts := match d with | .p _ => if h.w then [d.asSrc] else [] | _ => []
      let r := logUnreadBy s ((Src.p h.pg) :: (srcs ++ dsts)) fun j _ src _ =>
        isActive s h j && (decide (j = k) || !(srcs.contains src))
      let s1 := { s with fl := { s.fl with rflat := r } }
      match act s1 k with
      | .fin t v =>
        if trapsOf pre ≠ [] then finish s1 h.e false false pre
        else finish t h.e false false (tab fun j => if a.has j then onceDone (t.fl.lane j) d h.w v else .idle)
      | .trap t x => finish (if trapsOf pre ≠ [] then s1 else t) h.e false false (onceTraps pre s1 (oneLane k) x)
      | .trapAll x => finish s1 h.e false false (onceTraps pre s1 a x)
      | .park t c =>
        if trapsOf pre ≠ [] then finish s1 h.e false false pre
        else finish t h.e false false (tab fun j => if a.has j then .park (t.fl.lane j) c else .idle)
      | .stall st => { s with fl := { s.fl with stall := some st } }

/-- The general register i of the group that SA names (R43). -/
def groupSrc (o : OpsX) (i : Nat) : Src := .g (groupReg o.sa i)

/-- The first n registers of the group. -/
def groupSrcs (o : OpsX) (n : Nat) : List Src := (List.range n).map (groupSrc o)

/-- The group of n registers passes g63 (R43). -/
def groupPast (o : OpsX) (n : Nat) : Bool := decide (64 < (srcReg o.sa).toNat + n)

/-- The values of the first n registers of the group in a lane (R43). A group that passes g63 is found when the issuing
lane reads it (R54; log entry 18). -/
def readGroup (l : Lane) (o : OpsX) (n : Nat) : Rd (List Word) :=
  if groupPast o n then .error (lt4 .illegal 0) else (groupSrcs o n).mapM (srcG l)

/-- The performance that reads may end with a trap of the issuing lane (R247). -/
def onceRd (s : State) (r : Rd OnceOut) : OnceOut :=
  match r with
  | .ok x => x
  | .error t => .trap s t

/-- A format X word performed once, with the check of its scope code first (R221, R272). -/
def onceX (s : State) (h : Hdr) (o : OpsX) (srcs : List Src) (act : State → LaneId → Lane → Rd OnceOut) : State :=
  onceWord s h o.ls o.lane o.dst srcs fun t k => onceRd t (act t k (t.fl.lane k))

/-- As `onceX` for a word with a scope code: its table entry is read. A relative code that does not resolve traps in every lane of
Active (R272); so does an entry that is not valid (R221), except that of a queue or engine instruction (`own`), which traps in
the issuing lane alone (R247). -/
def onceScoped (s : State) (h : Hdr) (o : OpsX) (own : Bool) (srcs : List Src) (act : State → LaneId → Lane → Rd OnceOut) :
    State :=
  onceWord s h o.ls o.lane o.dst srcs fun t k =>
    match scopeCheck t t.fl o.scope with
    | .error x => if own && decide (32 ≤ o.scope.toNat) then .trap t x else .trapAll x
    | .ok _ => onceRd (noteScope t t.fl o.scope) (act (noteScope t t.fl o.scope) k (t.fl.lane k))

end Sys2Proof.Machine
end

