-- ==== Sys2Proof/Machine/Grid.lean ====
section
/-! DEFINITION. Launch records, units and the acceptance of grids: R271, R274, R277, R281 to R284, R289, R293, R294. -/

namespace Sys2Proof.Machine

/-- The unit of a level that holds a unit (R271); numbers are those of DUNIT (R382). -/
def HwUnit.up (u : HwUnit) (lvl : Nat) : HwUnit :=
  if lvl ≤ u.lvl then u
  else
    let die := match u.lvl with
      | 0 | 1 => u.num / 48
      | 2 => u.num / 6
      | 3 => u.num
      | _ => 0
    match lvl with
    | 1 => ⟨1, u.num⟩
    | 2 => ⟨2, die * 6 + u.num % 48 / 8⟩
    | 3 => ⟨3, die⟩
    | n => ⟨n, 0⟩

/-- A unit lies in another, or is it. -/
def HwUnit.holds (outer inner : HwUnit) : Bool :=
  decide (inner.lvl ≤ outer.lvl) && decide (HwUnit.up inner outer.lvl = outer)

/-- The core of a flight as a unit. -/
def coreUnit (f : FlightId) : HwUnit := ⟨1, f.coreNo⟩

/-- The domain of a grid of team level m that a flight launches (R271). -/
def launchDomain (f : Flight) (m : Nat) : HwUnit :=
  HwUnit.up (coreUnit f.id) (if m < f.level.toNat then f.level.toNat else Nat.min (m + 1) 5)

/-! Launch records (R274). -/

/-- Word i of a record. -/
def recWord (ws : List Word) (i : Nat) : Word := ws.getD i 0

/-- Fields of a record (R274). -/
def recGang (ws : List Word) : Bool := (recWord ws 0).getLsbD 63
def recReplay (ws : List Word) : Bool := (recWord ws 0).getLsbD 62
def recPri (ws : List Word) : Nat := ((recWord ws 0).extractLsb' 60 2).toNat
def recNb (ws : List Word) : Bool := (recWord ws 0).getLsbD 59
def recImg (ws : List Word) : Bool := (recWord ws 0).getLsbD 58
def recLvl (ws : List Word) : Nat := ((recWord ws 0).extractLsb' 52 4).toNat
def recRoot (ws : List Word) : BitVec 4 := (recWord ws 0).extractLsb' 48 4
def recDepth (ws : List Word) : Nat := ((recWord ws 0).extractLsb' 44 4).toNat
def recLanes (ws : List Word) : Nat := ((recWord ws 0).extractLsb' 32 8).toNat
def recMemb (ws : List Word) : Nat := ((recWord ws 0).extractLsb' 16 16).toNat + 1
def recTeams (ws : List Word) : Nat := ((recWord ws 0).extractLsb' 0 16).toNat + 1
def recBuf (ws : List Word) : BitVec 12 := (recWord ws 1).extractLsb' 52 12
def recImgOff (ws : List Word) : BitVec 28 := (recWord ws 1).extractLsb' 24 28
def recEntry (ws : List Word) : Pc := .cast (by rfl) ((recWord ws 1).extractLsb' 3 14 ++ 0#3)
def recJoin (ws : List Word) : Word := recWord ws 12
def recInst (ws : List Word) : BitVec 32 := (recWord ws 13).extractLsb' 32 32
def recResv (ws : List Word) : BitVec 16 := (recWord ws 13).extractLsb' 16 16
def recWait (ws : List Word) : Nat := ((recWord ws 14).extractLsb' 48 16).toNat

/-- The largest MEMB of a team level (R271). -/
def membLimit (m : Nat) : Nat :=
  match m with
  | 0 => 64 | 1 => 8 | 2 => 6 | 3 => 4 | 4 => 1024 | _ => 1

/-- The words of a record that break check 3 of R277, in ascending order. `m`: its team level; `wait`: WAIT and LINK must be
zero; `resv`: RESV must be zero. -/
def recBad (ws : List Word) (m : Nat) (wait resv : Bool) : List Nat :=
  let w0 := recWord ws 0
  let w1 := recWord ws 1
  let bad0 := w0.extractLsb' 56 2 ≠ 0 ∨ w0.extractLsb' 40 4 ≠ 0 ∨ recLanes ws = 0 ∨ 32 < recLanes ws ∨ 5 < m ∨
    membLimit m < recMemb ws
  let bad1 := w1.extractLsb' 17 7 ≠ 0 ∨ w1.extractLsb' 0 3 ≠ 0
  let bad13 := (recWord ws 13).extractLsb' 0 16 ≠ 0 ∨ (resv = true ∧ recResv ws ≠ 0)
  let bad14 := (recWord ws 14).extractLsb' 40 8 ≠ 0 ∨ (wait = true ∧ (recWord ws 14) &&& 0xFFFF00FFFFFFFFFF ≠ 0)
  (if bad0 then [0] else []) ++ (if bad1 then [1] else []) ++ (if bad13 then [13] else []) ++
    (if bad14 then [14] else []) ++ (if recWord ws 15 ≠ 0 then [15] else [])

/-- A record with the fields that the device writes (R278, R281, R305). -/
def recComplete (ws : List Word) (m : Nat) (root : BitVec 4) (depth : Nat) (inst : BitVec 32) (resv : BitVec 16) :
    List Word :=
  let w0 := recWord ws 0
  let w13 := recWord ws 13
  let w0n : Word := .cast (by rfl) (w0.extractLsb' 56 8 ++ BitVec.ofNat 4 m ++ root ++ BitVec.ofNat 4 depth ++
    w0.extractLsb' 0 44)
  let w13n : Word := .cast (by rfl) (inst ++ resv ++ w13.extractLsb' 0 16)
  (ws.set 0 w0n).set 13 w13n

/-! Reservations (R282). -/

/-- The reservation in force of a unit itself, 0 where it is not held. -/
def ownResv (s : State) (u : HwUnit) : BitVec 16 := ((s.resvs.find? fun r => decide (r.unit = u)).map (·.now)).getD 0

/-- The reservation of a core, cluster or die: that of the nearest held unit (R282). -/
def resvOf (s : State) (u : HwUnit) : BitVec 16 :=
  let held := ([1, 2, 3].filter fun l => decide (u.lvl ≤ l)).map fun l => ownResv s (HwUnit.up u l)
  (held.find? fun r => r != 0).getD 0

/-- The units of a level within a unit that the package has, on present dies (R271, R352). -/
def unitsIn (s : State) (u : HwUnit) (lvl : Nat) : List HwUnit :=
  let count := match lvl with | 1 => 192 | 2 => 24 | 3 => 4 | _ => 1
  ((List.range count).map fun n => (⟨lvl, n⟩ : HwUnit)).filter fun x =>
    HwUnit.holds u x && (decide (3 < lvl) || (dieOf s (HwUnit.up x 3).num).present)

/-- The units of its team level that a gang grid could hold at most (R284): of its domain, and of its reservation; another package
counts with all that a package can have. -/
def gangCapacity (s : State) (ws : List Word) (domain : HwUnit) (firmware : Bool) : Nat :=
  let m := recLvl ws
  let others := if domain.lvl = 5 ∧ firmware = false then (groupMembers s).length - 1 else 0
  if m = 4 then 1 + others
  else
    let us := (unitsIn s domain (Nat.max m 1)).filter fun u =>
      firmware || decide (3 < m) || recResv ws == 0 || resvOf s u == recResv ws
    let all := us.length + others * (match m with | 0 | 1 => 192 | 2 => 24 | 3 => 4 | _ => 0)
    if m = 0 then 64 * all else all

/-! Joins, failures and cancel marks. -/

/-- A resolution or fault that a newel has to perform on a future, if there is one (R288). -/
def pushDue (s : State) (ctx : BitVec 6) (die : Nat) (handle : Word) (cause : Option (BitVec 8)) (inst : BitVec 32) :
    State :=
  if handle = 0 then s
  else { s with dues := s.dues ++ [⟨ctx, die, handle, cause, inst.setWidth 64, []⟩] }

/-- The instance carries a cancel mark (R294). -/
def cancelled (s : State) (ctx : BitVec 6) (inst : BitVec 32) : Bool := (ctxOf s ctx).cancels.contains inst

/-- A grid by its number. -/
def gridById (s : State) (id : Nat) : Option Grid := s.grids.find? fun g => decide (g.id = id)

/-- The state with a grid updated. -/
def updGrid (s : State) (id : Nat) (f : Grid → Grid) : State :=
  { s with grids := s.grids.map fun g => if g.id = id then f g else g }

/-- The place of a member in the order (TEAM, MEMBER). -/
def memIndex (ws : List Word) (team mem : Nat) : Nat := team * recMemb ws + mem

/-- The members that a launch of a member is inside of, the nearest first (R271). -/
def lineOfMember (s : State) (r : Option MemberRef) : List MemberRef :=
  match r with
  | none => []
  | some r => r :: ((gridById s r.grid).map (·.line)).getD []

/-- A placed member of a grid. -/
def memberOf (s : State) (r : MemberRef) : Option Member :=
  (gridById s r.grid).bind fun g => g.members.find? fun m => decide (m.team = r.team ∧ m.mem = r.mem)

/-- The leader of a member stops at its next run boundary (R289, R293). -/
def stopLeader (s : State) (r : MemberRef) (c : Cause) : State :=
  match (memberOf s r).bind (·.leader) with
  | none => s
  | some f => updFlight s f fun x => if x.ending.isSome then x else { x with ending := some c }

/-- A member fails of itself (R289): its own cause is the first it has. -/
def failMember (s : State) (r : MemberRef) (c : Cause) : State :=
  stopLeader (updGrid s r.grid fun g => { g with members := g.members.map fun m =>
    if m.team = r.team ∧ m.mem = r.mem ∧ m.cause.isNone then { m with cause := some c } else m }) r c

/-- The member of a flight is ended with a cause (R289, R328); a flight without a member stops as its leader would. -/
def endMember (s : State) (f : Flight) (c : Cause) : State :=
  match f.member with
  | some r => failMember s r c
  | none => updFlight s f.id fun x => if x.ending.isSome then x else { x with ending := some c }

/-- A child grid with NB = 0 has failed: its member fails with the grid's cause (R289). -/
def failChild (s : State) (r : MemberRef) (c : Cause) : State :=
  stopLeader (updGrid s r.grid fun g =>
    let i := memIndex g.words r.team r.mem
    if (g.childFail.lookup i).isSome then g else { g with childFail := g.childFail ++ [(i, c)] }) r c

/-- The join future of a grid resolved or faulted (R288); that of a firmware grid is also reported to the firmware controller
(R13). -/
def joinDue (s : State) (ws : List Word) (ctx : BitVec 6) (firmware : Bool) (c : Option (BitVec 8)) : State :=
  let s1 := pushDue s ctx 0 (recJoin ws) c (recInst ws)
  if firmware && recJoin ws != 0 then { s1 with outbox := s1.outbox ++ [.firmwareJoin ctx (recJoin ws) c] } else s1

/-- The report of a grid that never places a member: its join future is faulted, and it counts as failed (R284, R289,
R293). -/
def gridRefused (s : State) (ws : List Word) (ctx : BitVec 6) (parent : Option MemberRef) (firmware : Bool) (c : Cause) : State :=
  let s1 := joinDue s ws ctx firmware (some c.code)
  match parent with
  | some r => if recNb ws then s1 else failChild s1 r c
  | none => s1

/-- The acceptance of a completed record by the newel of its domain (R281, R284, R293). `line`: the members that it is launched
inside of. -/
def acceptGrid (s : State) (ws : List Word) (ctx : BitVec 6) (domain : HwUnit) (parent : Option MemberRef)
    (line : List MemberRef) (firmware : Bool) : State :=
  if cancelled s ctx (recInst ws) then gridRefused s ws ctx parent firmware .cancelled
  else if recGang ws && decide (gangCapacity s ws domain firmware < recTeams ws * recMemb ws) then
    gridRefused s ws ctx parent firmware .illegal
  else
    let g : Grid :=
      { id := s.uid, words := ws, ctx := ctx, domain := domain, parent := parent, firmware := firmware, pri := recPri ws,
        passed := 0, next := 0, redo := [], members := [], childFail := [], cause := none, hallDone := [], galDone := [],
        stopped := false, line := line, home := none, loadFail := none }
    { s with uid := s.uid + 1, grids := s.grids ++ [g] }

end Sys2Proof.Machine
end

