-- ==== Sys2Proof/Machine/Future.lean ====
section
/-! DEFINITION. Futures and continuations: R295 to R306, R319 to R321. -/

namespace Sys2Proof.Machine

/-! The future word (R295, R299). -/

/-- ST of a future word (R295). -/
def futSt (w : Word) : Nat := (w.extractLsb' 61 3).toNat
/-- CNT of a future word (R295). -/
def futCnt (w : Word) : Nat := (w.extractLsb' 48 13).toNat
/-- HEAD of a future word (R295). -/
def futHead (w : Word) : Nat := (w.extractLsb' 0 40).toNat

/-- A future word. -/
def futWord (st cnt : Nat) (val : BitVec 8) (head : BitVec 40) : Word :=
  .cast (by rfl) (BitVec.ofNat 3 st ++ BitVec.ofNat 13 cnt ++ val ++ head)

/-- An operation that may change a future (R299). -/
inductive FutOp where
  | init (n : BitVec 13) (tag : BitVec 8)
  | res
  | fail (k : BitVec 8)

/-- What an operation does to a future: the new word, with a walk from the old HEAD or none, an overresolution, or a
reserved state (R299). -/
inductive FutRes where
  | write (w : Word) (walk : Bool)
  | over
  | reserved

/-- The future state table (R299). `main`: the future is in space M, where the list counts (R295). -/
def futApply (op : FutOp) (w : Word) (main : Bool) : FutRes :=
  let c := futCnt w
  let val := w.extractLsb' 40 8
  let head := w.extractLsb' 0 40
  let cut : BitVec 40 := if main then 0 else head
  if 4 ≤ futSt w then .reserved
  else
    match op, futSt w with
    | .init _ _, 1 => .write w false
    | .init n tag, 3 => if 0 < c then .write w false else .write (futWord 1 n.toNat tag cut) false
    | .init n tag, _ => .write (futWord 1 n.toNat tag cut) false
    | .res, 1 => if 1 < c then .write (futWord 1 (c - 1) val head) false else .write (futWord 2 0 val cut) main
    | .res, 3 => if 0 < c then .write (futWord 3 (c - 1) val head) false else .over
    | .fail k, 1 => .write (futWord 3 (c - 1) k cut) main
    | .fail _, 3 => if 0 < c then .write (futWord 3 (c - 1) val head) false else .over
    | _, _ => .over

/-! The continuation pool (R300, R303). -/

/-- The handle of a pool slot (R303). -/
def poolHandle (s : State) (ctx : BitVec 6) (slot : Nat) : Word :=
  .cast (by rfl) (((ctxOf s ctx).word 3).extractLsb' 52 12 ++ BitVec.ofNat 52 (128 * slot))

/-- The slot count S (R380). -/
def poolSlots (s : State) (ctx : BitVec 6) : Nat := (((ctxOf s ctx).word 3).extractLsb' 0 32).toNat

/-- A pool access of `len` bytes at an offset of a slot, checked as an access of the context (R202, R300): its flat
address, or the cause of its failure. `read`: the data is read. -/
def poolAccess (s : State) (ctx : BitVec 6) (slot off len : Nat) (r : Right) (read : Bool) : Except Cause Nat :=
  match probeMain s ctx r ⟨0, len, poolHandle s ctx slot + BitVec.ofNat 64 off, false⟩ true with
  | .at_ key => if (read || decide (len < 64)) && poisoned s key then .error .memPoison else .ok key
  | .trap c _ => .error c
  | _ => .error .pageFault

/-- The state after the tables have been read for accesses to a pool slot (R203, R390). -/
def poolNote (s : State) (ctx : BitVec 6) (die : Nat) (rs : List (Nat × Nat × Nat × Right)) : State :=
  noteRanges s die ctx (rs.map fun r => ⟨r.2.2.2, false, poolHandle s ctx r.1, r.2.1, r.2.2.1⟩)

/-- A report of a newel about a handle (R373). -/
def newelReport (s : State) (ctx : BitVec 6) (die : Nat) (cause : BitVec 8) (handle value tag : Word) : State :=
  errReport s ctx cause { src := 4, flight := ⟨die, 0, 0⟩, lane := 0, peer := 0, tag := tag } handle value

/-- The two lines of a record slot read; its sixteen words (R306). -/
def poolRecord (s : State) (ctx : BitVec 6) (slot : Nat) : Except Cause (List Word) := do
  let a ← poolAccess s ctx slot 0 64 .rd true
  let b ← poolAccess s ctx slot 64 64 .rd true
  pure (readWords s a 8 ++ readWords s b 8)

/-- A record whose WAIT has reached 0 is copied and accepted, or dropped (R306, R293, R320). -/
def launchCont (s : State) (ctx : BitVec 6) (die slot : Nat) (tag : Word) : State :=
  let h := poolHandle s ctx slot
  let s0 := poolNote s ctx die [(slot, 0, 128, .rd)]
  let s1 := { s0 with conts := s.conts.filter fun c => !decide (c.ctx = ctx ∧ c.slot = slot) }
  match poolRecord s ctx slot with
  | .error c => newelReport s1 ctx die c.code h 0 tag
  | .ok ws =>
    match s.conts.find? fun c => decide (c.ctx = ctx ∧ c.slot = slot) with
    | none => newelReport s1 ctx die Cause.illegal.code h 0 tag
    | some c =>
      if recBad ws (recLvl ws) true false ≠ [] then newelReport s1 ctx die Cause.illegal.code h 0 tag
      else if recJoin ws ≠ 0 ∧ (recJoin ws).extractLsb' 0 3 ≠ 0 then newelReport s1 ctx die Cause.align.code h 0 tag
      else if c.dropped || cancelled s ctx (recInst ws) then s1
      else
        let s2 := acceptGrid s1 ws ctx c.domain none c.line false
        if s2.grids.length = s1.grids.length then newelReport s2 ctx die Cause.illegal.code h 0 tag else s2

/-- WAIT of a record decremented (R300). -/
def decRecord (s : State) (ctx : BitVec 6) (die slot : Nat) (tag : Word) : State :=
  let h := poolHandle s ctx slot
  let both : Except Cause Nat := do
    let k ← poolAccess s ctx slot 112 8 .rd true
    let _ ← poolAccess s ctx slot 112 8 .wr true
    pure k
  let s0 := poolNote s ctx die [(slot, 112, 8, .rd), (slot, 112, 8, .wr)]
  match both with
  | .error c => newelReport s0 ctx die c.code h 0 tag
  | .ok key =>
    let w := readWord s key
    let n := (w.extractLsb' 48 16).toNat
    if n = 0 then newelReport s0 ctx die Cause.illegal.code h 0 tag
    else
      let w1 : Word := .cast (by rfl) (BitVec.ofNat 16 (n - 1) ++ w.extractLsb' 0 48)
      match writeMain s0 key (natToBytes 8 w1.toNat) with
      | none => s0
      | some s1 => if n = 1 then launchCont s1 ctx die slot tag else s1

/-- The walk (R300) over at most `fuel` link slots. -/
def walkLinks (ctx : BitVec 6) (die : Nat) (tag : Word) : Nat → State → Nat → State
  | 0, s, _ => s
  | fuel + 1, s, slot =>
    if slot = 0 then s
    else
      let s0 := poolNote s ctx die [(slot, 0, 16, .rd)]
      match poolAccess s ctx slot 0 16 .rd true with
      | .error c => newelReport s0 ctx die c.code (poolHandle s ctx slot) 0 tag
      | .ok key =>
        let next := ((readWord s key).extractLsb' 0 40).toNat
        let rec_ := ((readWord s (key + 8)).extractLsb' 0 40).toNat
        walkLinks ctx die tag fuel (decRecord s0 ctx die rec_ tag) next

/-- The walk of a future's list, which has at most one link for every slot of the pool (R300, R303). -/
def walkFuture (s : State) (ctx : BitVec 6) (die : Nat) (tag : Word) (old : Word) : State :=
  walkLinks ctx die tag (poolSlots s ctx) s (futHead old)

/-! Resolutions by engines, newels and the segment fetcher (R242, R288, R86). -/

/-- What came of a resolution: performed or reported, or waiting for the translation of a unit. -/
inductive DueOut where
  | ok (s : State)
  | wait (s : State) (vpn : BitVec 32)

/-- A report of the agent of a resolution. `eng`: an engine command of this flight. -/
def dueReport (s : State) (d : Due) (eng : Option FlightId) (cause : BitVec 8) (value : Word) : State :=
  match eng with
  | none => newelReport s d.ctx d.die cause d.handle value d.tag
  | some f => errReport s d.ctx cause { src := 3, flight := f, lane := 0, peer := 0, tag := d.tag } d.handle value

/-- A future in main memory resolved or faulted by an agent, with its walk (R296, R299, R300). A failed check is a report; a
failed translation writes a fault record and waits. -/
def resolveFuture (s : State) (d : Due) (eng : Option FlightId) : DueOut :=
  let s1 := noteHandle s d.die d.ctx .at_ ⟨0, 8, d.handle, false⟩ (handleOff d.handle % 8 == 0)
  if !(ctxOf s d.ctx).live then .ok s
  else
    match probeMain s d.ctx .at_ ⟨0, 8, d.handle, false⟩ (handleOff d.handle % 8 == 0) with
    | .trap c _ => .ok (dueReport s1 d eng c.code 0)
    | .fault kind va =>
      let f : FlightId := match eng with | some f => f | none => ⟨d.die, 0, 0⟩
      .wait (pushFault s1 (faultRecord s d.ctx f true 0 3 2 kind d.handle va d.tag)) (vpnOf va)
    | .at_ key =>
      if !pathCarries s key 1 then .ok (dueReport s1 d eng Cause.atomicPath.code 0)
      else if poisoned s key then .ok (dueReport s1 d eng Cause.memPoison.code 0)
      else
        let old := readWord s key
        let op := match d.cause with | none => FutOp.res | some k => .fail k
        match futApply op old true with
        | .reserved => .ok (dueReport s1 d eng Cause.illegal.code 0)
        | .over => .ok (dueReport s1 d eng Cause.futureOverresolve.code old)
        | .write w walk =>
          match writeMain s1 key (natToBytes 8 w.toNat) with
          | none => .ok s1
          | some s2 => .ok (if walk then walkFuture s2 d.ctx d.die d.tag old else s2)
    | _ => .ok s1

/-- A resolution that can be tried: its translation is answered. -/
def Due.ready (d : Due) : Bool := d.waits.all fun w => w.answer.isSome

/-- The oldest resolution that can be tried, performed (R288); a refusal of its translation is reported. -/
def settleDue (s : State) : State :=
  match s.dues.find? Due.ready with
  | none => s
  | some d =>
    let s1 := { s with dues := s.dues.eraseP Due.ready }
    if d.waits.any (fun w => w.answer == some false) then dueReport s1 d none Cause.pageFault.code 0
    else
      match resolveFuture s1 d none with
      | .ok s2 => s2
      | .wait s2 vpn => { s2 with dues := s2.dues ++ [{ d with waits := [⟨vpn, none⟩] }] }

/-! The future instructions (R297 to R302). -/

/-- The space of a descriptor (R298). -/
def futSpace (desc : Word) : MSpace :=
  match (desc.extractLsb' 0 3).toNat with
  | 0 => .h | 1 => .g | 2 => .z | _ => .m

/-- The check of the future descriptor (R298). `val`, `count`: the fields that the instruction uses. -/
def futDesc (desc : Word) (main : Bool) (val count : BitVec 13 → Bool) : Rd Unit :=
  if desc.extractLsb' 40 24 ≠ 0 ∨ desc.extractLsb' 29 3 ≠ 0 ∨ desc.extractLsb' 3 13 ≠ 0 ∨ desc.extractLsb' 2 1 ≠ 0 ∨
      (main = true ∧ desc.extractLsb' 0 3 ≠ 3) ∨ !val ((desc.extractLsb' 32 8).setWidth 13) ∨
      !count (desc.extractLsb' 16 13) then .error (lt5 .illegal desc)
  else .ok ()

/-- A field that the instruction does not use. -/
def futZero (x : BitVec 13) : Bool := x == 0

/-- The access of a lane to a future (R296). `rmw`: it may write. -/
def futAcc (sp : MSpace) (addr : Word) (rmw : Bool) (dst : Dst) (w : Bool) : Acc :=
  { kind := if rmw then .atomic .add 0 0 else .fwait, sp := sp, addr := addr, disp := 0, idx := 0, size := 8, sgn := false,
    dst := dst, w := w }

/-- What the checks of a lane's access to a future give. -/
inductive FutAt where
  | at_ (e : Elem) (key : Nat) (old : Word)
  | out (x : OnceOut)

/-- The access of a stalling instruction to a future: a failed translation writes its record and traps at once (R297). -/
def futAccess (s : State) (k : LaneId) (a : Acc) : FutAt :=
  let s1 := noteAcc s s.fl a
  match attempt s s.fl a false with
  | .ready [(e, key)] => .at_ e key (BitVec.ofNat 64 (bytesToNat (readLane s s.fl k a.sp key 8)))
  | .trap t _ => .out (.trap s1 t)
  | .fault recs => .out (.trap (faultRecords s1 s.fl k 3 2 recs) (lt5 .pageFault a.addr))
  | _ => .out (.trap s1 (lt5 .pageFault a.addr))

/-- The instance of a flight as the tag of a newel's reports. -/
def flightTag (f : Flight) : Word := f.ginst.setWidth 64

/-- FINIT, FRES and FFAIL on the future that a lane names (R299, R300, R319). -/
def futChange (s : State) (k : LaneId) (a : Acc) (op : FutOp) : OnceOut :=
  match futAccess s k a with
  | .out x => x
  | .at_ e key old =>
    let s1 := noteAcc s s.fl a
    match futApply op old (a.sp == .m) with
    | .reserved => .trap s1 (lt5 .illegal old)
    | .over => .trap s1 (lt5 .futureOverresolve old)
    | .write w walk =>
      let s2 := if w = old then s1 else storeElem s1 s1.fl k s.uid a e key (natToBytes 8 w.toNat)
      .fin (if walk then walkFuture s2 s.fl.ctx s.fl.id.die (flightTag s.fl) old else s2) (.gen old)

/-- FINIT, FRES or FFAIL as a word (R297, R298). -/
def futWordOp (s : State) (h : Hdr) (o : OpsX) (val count : BitVec 13 → Bool) (op : Word → FutOp) : State :=
  onceScoped s h o false (groupSrcs o 2) fun s k l => do
    let g ← readGroup l o 2
    let desc := g.getD 1 0
    futDesc desc false val count
    match waitRelease s o.ord (active s h) false with
    | some s1 => pure (.stall (s1.fl.stall.getD .flightGrid))
    | none => pure (futChange s k (futAcc (futSpace desc) (g.getD 0 0) true o.dst h.w) (op desc))

/-- FINIT (R297 to R299). -/
def execFinit (h : Hdr) (o : OpsX) (s : State) : Res :=
  .next (futWordOp s h o (fun _ => true) (fun c => c != 0) fun d => .init (d.extractLsb' 16 13) (d.extractLsb' 32 8))

/-- FRES (R297 to R300). -/
def execFres (h : Hdr) (o : OpsX) (s : State) : Res := .next (futWordOp s h o futZero futZero fun _ => .res)

/-- FFAIL (R297 to R300). -/
def execFfail (h : Hdr) (o : OpsX) (s : State) : Res :=
  .next (futWordOp s h o (fun v => v != 0) futZero fun d => .fail (d.extractLsb' 32 8))

/-- FPOLL (R299, R302). -/
def execFpoll (h : Hdr) (o : OpsX) (s : State) : Res :=
  .next (onceScoped s h o false (groupSrcs o 2) fun s k l => do
    let g ← readGroup l o 2
    let desc := g.getD 1 0
    futDesc desc false futZero futZero
    let a := futAcc (futSpace desc) (g.getD 0 0) false o.dst h.w
    match futAccess s k a with
    | .out x => pure x
    | .at_ _ _ old =>
      if 4 ≤ futSt old then pure (.trap (noteAcc s s.fl a) (lt5 .illegal old))
      else pure (.fin (noteAcc s s.fl a) (.gen old)))

/-- The future is RESOLVED or FAULTED (R302). -/
def futEnded (w : Word) : Bool := futSt w == 2 || futSt w == 3

/-- FWAIT's read (R302): it completes, parks for a later write, or parks for a translation (R207). -/
def futWait (s : State) (k : LaneId) (a : Acc) (set : LaneSet) : OnceOut :=
  let s1 := noteAcc s s.fl a
  match attempt s s.fl a false with
  | .ready [(_, key)] =>
    let w := BitVec.ofNat 64 (bytesToNat (readLane s s.fl k a.sp key 8))
    if 4 ≤ futSt w then .trap s1 (lt5 .illegal w)
    else if futEnded w then .fin s1 (.gen w)
    else .park s1 (.future a.sp a.addr a.dst a.w set k [])
  | .trap t _ => .trap s1 t
  | .fault recs => .park (faultRecords s1 s.fl k 3 2 recs)
      (.future a.sp a.addr a.dst a.w set k (waitsOf (recs.map fun r => r.2.1)))
  | _ => .trap s1 (lt5 .pageFault a.addr)

/-- FWAIT (R297, R302). -/
def execFwait (h : Hdr) (o : OpsX) (s : State) : Res :=
  .next (onceScoped s h o false (groupSrcs o 2) fun t k l => do
    let g ← readGroup l o 2
    let desc := g.getD 1 0
    futDesc desc false futZero futZero
    pure (futWait t k (futAcc (futSpace desc) (g.getD 0 0) false o.dst h.w) (active s h)))

/-! FREG (R304, R305). -/

/-- The number of a general register of the group. -/
def groupNum (o : OpsX) (i : Nat) : Word := (groupReg o.sa i).setWidth 64

/-- A pool access of FREG that fails is a precise trap with TVAL the slot's handle (R300). -/
def fregAccess (s : State) (slot off len : Nat) (r : Right) : Rd Nat :=
  match poolAccess s s.fl.ctx slot off len r true with
  | .ok k => .ok k
  | .error c => .error (lt5 c (poolHandle s s.fl.ctx slot))

/-- The fault record of a pool access of FREG whose translation failed (R297). -/
def fregFault (s : State) (k : LaneId) (t : LTrap) : State :=
  if t.cause = .pageFault then
    match probeMain s s.fl.ctx .rd ⟨0, 8, t.tval, false⟩ true with
    | .fault kind va => faultRecords s s.fl k 3 1 [(kind, va, t.tval)]
    | _ => s
  else s

/-- Where FREG's pool accesses go (R300, R305): the record's two lines as read, its words 0 and 13 as written, and on a
PENDING future the link slot as written. -/
def fregPlaces (s : State) (rec_ link : Nat) (pending : Bool) : Rd (Nat × Nat × Nat × Nat × Nat) := do
  let a ← fregAccess s rec_ 0 64 .rd
  let b ← fregAccess s rec_ 64 64 .rd
  let w0 ← fregAccess s rec_ 0 8 .wr
  let w13 ← fregAccess s rec_ 104 8 .wr
  let l ← if pending then fregAccess s link 0 16 .wr else pure 0
  pure (a, b, w0, w13, l)

/-- Pool bytes written at a place that the checks of FREG have let pass. -/
def fregWrite (s : State) (key : Nat) (bs : List Byte) : State := (writeMain s key bs).getD s

/-- The record of a slot with the fields that FREG writes (R305), and its registration. -/
def fregRecord (s : State) (slot m a b w0 w13 : Nat) : State :=
  let f := s.fl
  let new := recComplete (readWords s a 8 ++ readWords s b 8) m f.rootlvl (f.depth + 1) f.ginst f.resv
  let c : ContReg := ⟨f.ctx, slot, f.ginst, launchDomain f m, f.member, lineOfMember s f.member, false⟩
  let s1 := fregWrite (fregWrite s w0 (natToBytes 8 (recWord new 0).toNat)) w13 (natToBytes 8 (recWord new 13).toNat)
  { s1 with conts := (s1.conts.filter fun x => !decide (x.ctx = f.ctx ∧ x.slot = slot)) ++ [c] }

/-- The registration on the future (R299, R305), after the checks of R304. -/
def fregDo (s : State) (k : LaneId) (a : Acc) (rec_ link m : Nat) : OnceOut :=
  match futAccess s k a with
  | .out x => x
  | .at_ e key old =>
    let s1 := noteAcc s s.fl a
    if futSt old = 0 ∨ 4 ≤ futSt old then .trap s1 (lt5 .illegal old)
    else
      let s0 := poolNote s1 s.fl.ctx s.fl.id.die ([(rec_, 0, 128, .rd), (rec_, 0, 8, .wr), (rec_, 104, 8, .wr)] ++
        if futSt old = 1 then [(link, 0, 16, .wr)] else [])
      match fregPlaces s rec_ link (decide (futSt old = 1)) with
      | .error t => .trap (fregFault s0 k t) t
      | .ok (p0, p1, w0, w13, l) =>
        let s2 := fregRecord s0 rec_ m p0 p1 w0 w13
        if futSt old = 1 then
          let head : Word := .cast (by rfl) (0#24 ++ old.extractLsb' 0 40)
          let new : Word := .cast (by rfl) (old.extractLsb' 40 24 ++ BitVec.ofNat 40 link)
          let s3 := fregWrite s2 l (natToBytes 8 head.toNat ++ natToBytes 8 rec_)
          .fin (storeElem s3 s3.fl k s.uid a e key (natToBytes 8 new.toNat)) (.gen old)
        else .fin (decRecord s2 s.fl.ctx s.fl.id.die rec_ (flightTag s.fl)) (.gen old)

/-- The slot numbers of FREG (R304). -/
def fregSlots (s : State) (o : OpsX) (rec_ link : Word) : Rd Unit :=
  let n := poolSlots s s.fl.ctx
  let bad (w : Word) : Bool := decide (w = 0) || decide (n ≤ w.toNat)
  let recReg : Word := (srcReg o.sb).setWidth 64
  if bad rec_ && (!bad link || decide ((srcReg o.sb).toNat < (groupReg o.sa 2).toNat)) then .error (lt5 .illegal recReg)
  else if bad link || decide (link = rec_) then .error (lt5 .illegal (groupNum o 2))
  else .ok ()

/-- The checks of FREG that come before those of its level (R298, R304). -/
def fregFirst (t : State) (o : OpsX) (l : Lane) : Rd (List Word × Word) := do
  let g ← readGroup l o 3
  let r ← srcG l o.sb
  futDesc (g.getD 1 0) true futZero futZero
  fregSlots t o r (g.getD 2 0)
  pure (g, r)

/-- FREG (R297, R298, R304, R305). A level code that does not resolve traps in every lane of Active (R272). -/
def execFreg (h : Hdr) (o : OpsX) (s : State) : Res :=
  .next (onceScoped s h o false (groupSrcs o 3 ++ [o.sb]) fun t k l => do
    let (g, r) ← fregFirst t o l
    match resolveLevel t.fl o.lvl with
    | none => pure (.trapAll (lt5 .illegal (o.lvl.setWidth 64)))
    | some m =>
      if t.fl.level.toNat < m then .error (lt5 .illegal (o.lvl.setWidth 64))
      if 10 ≤ t.fl.depth then .error (lt5 .launchDepth (BitVec.ofNat 64 t.fl.depth))
      match waitRelease t o.ord (active s h) false with
      | some s1 => pure (.stall (s1.fl.stall.getD .flightGrid))
      | none => pure (fregDo t k (futAcc .m (g.getD 0 0) true o.dst h.w) r.toNat (g.getD 2 0).toNat m))

end Sys2Proof.Machine
end

