-- ==== Sys2Proof/Machine/Queue.lean ====
section
/-! DEFINITION. Queue registers: R240, R243 to R250, R256. -/

namespace Sys2Proof.Machine

/-- A queue register of a flight. -/
def Flight.queue (f : Flight) (q : BitVec 3) : Queue := f.queues.get q.toFin

/-- The flight with a queue register replaced. -/
def Flight.setQueue (f : Flight) (q : BitVec 3) (x : Queue) : Flight := { f with queues := f.queues.set q.toFin x }

/-- A result word (R242). -/
def resultWord (mark : Bool) (cause : BitVec 8) (satf : Bool) (flg : BitVec 5) (seq data : BitVec 32) : Word :=
  .cast (by rfl) (1#1 ++ BitVec.ofBool mark ++ 0#6 ++ cause ++ 0#2 ++ BitVec.ofBool satf ++ flg ++
    seq.extractLsb' 0 8 ++ data)

/-- The entries of a queue with the markers completed whose every earlier entry has completed (R245). -/
def settleEntries (all : Bool) : List QEntry → List QEntry
  | [] => []
  | e :: rest =>
    let e1 := if all && e.cmd.isNone && e.result.isNone then { e with result := some (resultWord true 0 false 0 e.seq e.value) } else e
    e1 :: settleEntries (all && e1.result.isSome) rest

/-- A queue with its markers settled. -/
def Queue.settle (q : Queue) : Queue := { q with entries := settleEntries true q.entries }

/-- The queue holds 16 entries (R244). -/
def Queue.full (q : Queue) : Bool := decide (16 ≤ q.entries.length)

/-- What a pop finds (R243): no entry that it may take, one that is outstanding, or a word and the queue without it. -/
inductive PopOut where
  | empty
  | wait
  | got (w : Word) (q : Queue)

/-- The oldest entry that a pop considers (R243). -/
def Queue.pop (q : Queue) : PopOut :=
  let takes (e : QEntry) : Bool := !q.nr || e.cmd.isNone
  match q.entries.find? takes with
  | none => .empty
  | some e =>
    match e.result with
    | none => .wait
    | some w => .got w { q with entries := q.entries.eraseP takes }

/-- A QUEUE_BIND trap (R246). -/
def queueBind (n : Nat) : LTrap := lt5 .queueBind (BitVec.ofNat 64 n)

/-- The queue register that a source names. -/
def srcQueue : Src → BitVec 3
  | .q i => i
  | _ => 0

/-- MOV from a queue register (R243). -/
def execMovQueuePop (h : Hdr) (o : OpsA) (s : State) : Res :=
  let q := srcQueue o.sa
  .next (onceWord s h false 0 o.dst [] fun t _ =>
    match (t.fl.queue q).pop with
    | .empty => .trap t (queueBind 2)
    | .wait => .park t (.pop q o.dst h.w (active s h))
    | .got w x => .fin { t with fl := t.fl.setQueue q x } (.gen w))

/-- An entry pushed with the queue's SEQ (R245, R251). -/
def Queue.push (q : Queue) (cmd : Option Nat) (value : BitVec 32) : Queue :=
  Queue.settle { q with entries := q.entries ++ [⟨cmd, q.seq, value, none⟩], seq := q.seq + 1 }

/-- MOV into a queue register (R244, R245). The marker is pushed whatever W is: DESIGN CHOICE, R24 lets W = 0 suppress the write of a
register and no rule says what it means for a push (log entry 18). Unsafe. -/
def execMovQueueMarker (h : Hdr) (o : OpsA) (s : State) : Res :=
  let q := o.dst.num3
  .next (onceWord s h false 0 o.dst [o.sa] fun t k => onceRd t do
    let a ← srcG (t.fl.lane k) o.sa
    let x := t.fl.queue q
    if x.cls = 0 then .error (queueBind 0)
    else if x.full then
      if x.nr then pure (.stall (.queueFull q)) else .error (queueBind 4)
    else pure (.fin { t with fl := t.fl.setQueue q (x.push none (a.setWidth 32)) } .none))

/-- The levels that a class may be bound at (R248). -/
def classLevel (c lvl : Nat) : Bool :=
  match c with
  | 1 => lvl == 3
  | 2 | 3 => decide (2 ≤ lvl) && decide (lvl ≤ 5)
  | 4 | 5 => lvl == 4
  | _ => true

/-- The level of a class that QBIND binds (R248): class 0 ignores LVL; `none` where the code does not resolve. -/
def bindLevel (f : Flight) (c : Nat) (code : BitVec 4) : Option Nat := if c = 0 then some 0 else resolveLevel f code

/-- QBIND (R248): the class value and the resolved level are checked together. A level code that does not resolve traps in
every lane of Active (R272; log entry 18). -/
def execQbind (h : Hdr) (o : OpsX) (s : State) : Res :=
  .next (onceX s h o [o.sb] fun t _ l => do
    let v ← srcG l o.sb
    let c := (v.extractLsb' 0 3).toNat
    if v.extractLsb' 4 60 ≠ 0 ∨ 6 ≤ c then .error (lt5 .illegal v)
    match bindLevel t.fl c o.lvl with
    | none => pure (.trapAll (lt5 .illegal (o.lvl.setWidth 64)))
    | some m =>
      if c ≠ 0 ∧ classLevel c m = false then .error (lt5 .illegal (BitVec.ofNat 64 m))
      if c = 5 ∧ t.fl.priv = false then .error (lt5 .priv 0)
      if (t.fl.queue o.qn).entries ≠ [] then .error (queueBind 1)
      let q : Queue := { cls := BitVec.ofNat 3 c, lvl := BitVec.ofNat 4 m, nr := decide (c ≠ 0) && v.getLsbD 3,
                         entries := [], foots := [], seq := 0 }
      pure (.fin { t with fl := t.fl.setQueue o.qn q } .none))

/-- QTRY (R249). -/
def execQtry (h : Hdr) (o : OpsX) (s : State) : Res :=
  .next (onceX s h o [] fun t _ _ =>
    match (t.fl.queue o.qn).pop with
    | .got w x => pure (.fin { t with fl := t.fl.setQueue o.qn x } (.gen w))
    | _ => pure (.fin t (.gen 0)))

/-- QCNT's result (R250). -/
def qcntWord (q : Queue) : Word :=
  let res := (q.entries.filter fun e => e.result.isSome).length
  let out := (q.entries.filter fun e => e.result.isNone).length
  .cast (by rfl) (0#35 ++ BitVec.ofBool q.nr ++ q.lvl ++ 0#1 ++ q.cls ++ 0#1 ++ BitVec.ofNat 3 q.foots.length ++
    BitVec.ofNat 8 res ++ BitVec.ofNat 8 out)

/-- QCNT (R250). -/
def execQcnt (h : Hdr) (o : OpsX) (s : State) : Res :=
  .next (onceX s h o [] fun t _ _ => pure (.fin t (.gen (qcntWord (t.fl.queue o.qn)))))

/-- FOOT (R256). -/
def execFoot (h : Hdr) (o : OpsX) (s : State) : Res :=
  .next (onceX s h o (groupSrcs o 2) fun t _ l => do
    let g ← readGroup l o 2
    let r := g.getD 1 0
    let q := t.fl.queue o.qn
    if q.cls = 0 then .error (queueBind 0)
    if 4 < (r.extractLsb' 61 3).toNat ∨ r.extractLsb' 48 12 ≠ 0 ∨ r.extractLsb' 0 48 = 0 then .error (lt5 .illegal 0)
    if 4 ≤ q.foots.length then .error (queueBind 3)
    let x : Foot := ⟨g.getD 0 0, r.extractLsb' 61 3, r.getLsbD 60, (r.extractLsb' 0 48).toNat⟩
    pure (.fin { t with fl := t.fl.setQueue o.qn { q with foots := q.foots ++ [x] } } .none))

end Sys2Proof.Machine
end

