-- ==== Sys2Proof/Machine/Command.lean ====
section
/-! DEFINITION. Engine commands: their geometry, their checks and their acceptance: R247, R251, R257, R259 to R265, R268. -/

namespace Sys2Proof.Machine

/-! Places (R259, R262). -/

/-- A memory that a command reaches: an on-chip memory of a unit, main memory, a remote buffer, or the main memory of a
member package (R262). -/
inductive Place where
  | chip (sp : MSpace) (unit : Nat)
  | main
  | far
  | peer (pkg : BitVec 10)
deriving DecidableEq, Repr

/-- Flat address of byte `a` of an on-chip memory. -/
def chipKey (sp : MSpace) (unit a : Nat) : Nat :=
  match sp with
  | .h => hallKey unit a
  | .g => galleryKey unit a
  | _ => mezzKey unit a

/-- The place of a space code as a flight names it (R259). -/
def placeOf (f : FlightId) (sp : BitVec 3) : Place :=
  match sp.toNat with
  | 0 => .chip .h f.coreNo
  | 1 => .chip .g f.clusterNo
  | 2 => .chip .z f.die
  | 3 => .main
  | _ => .far

/-- The parent memory of a level (R262). -/
def parentPlace (f : FlightId) (lvl : Nat) : Place :=
  match lvl with
  | 2 => .chip .g f.clusterNo
  | 3 => .chip .z f.die
  | _ => .main

/-- Child i of the instance of a level that holds a flight (R262, R396). -/
def childPlace (s : State) (f : FlightId) (lvl i : Nat) : Place :=
  match lvl with
  | 2 => .chip .h (f.clusterNo * 8 + i)
  | 3 => .chip .g (f.die * 6 + i)
  | 4 => .chip .z i
  | _ =>
    let p := (groupMembers s).getD i 0
    if p = s.host.pkgnum.toNat then .main else .peer (BitVec.ofNat 10 p)

/-- An address or handle with an amount added; a handle's offset that leaves its 52 bits is marked (R39). -/
def placeAdd (p : Place) (base : Word) (d : Nat) : Word × Bool :=
  match p with
  | .chip _ _ => (base + BitVec.ofNat 64 d, decide (2 ^ 64 ≤ base.toNat + d))
  | _ => handleAdd base d

/-! The fields of the groups. -/

/-- A field of a register of a command's group. -/
def Cmd.field (c : Cmd) (i lo n : Nat) : Nat := (c.regs.getD i 0).toNat / 2 ^ lo % 2 ^ n

/-- Fields of COPY (R259). -/
def Cmd.rows (c : Cmd) : Nat := c.field 2 44 12 + 1
def Cmd.rowLen (c : Cmd) : Nat := c.field 2 0 24
def Cmd.dstStride (c : Cmd) : Nat := if c.rows = 1 then 0 else c.field 3 32 32
def Cmd.srcStride (c : Cmd) : Nat := if c.rows = 1 then 0 else c.field 3 0 32
def Cmd.guarded (c : Cmd) : Bool := decide (c.cls = 1) && (c.regs.getD 2 0).getLsbD 57
def Cmd.counted (c : Cmd) : Bool := decide (c.cls = 1) && (c.regs.getD 2 0).getLsbD 43

/-- Children and LEN of MCAST and REDUCE (R263, R264). -/
def Cmd.kids (c : Cmd) : Nat := c.field 2 54 10 + 1
def Cmd.len (c : Cmd) : Nat := c.field 2 0 24

/-- Type of REDUCE (R264); INT32 and INT64 have codes 11 and 12. -/
def Cmd.redTy (c : Cmd) : Ty := Ty.ofCode (BitVec.ofNat 4 (c.field 2 50 4))
/-- Bytes of an element of REDUCE. -/
def Cmd.redSize (c : Cmd) : Nat := c.redTy.width / 8

/-- Fields of GEMV (R265). -/
def Cmd.gRows (c : Cmd) : Nat := c.field 3 40 24
def Cmd.gCols (c : Cmd) : Nat := c.field 3 16 24
def Cmd.gSat (c : Cmd) : Bool := c.field 3 15 1 == 1
def Cmd.gPitch (c : Cmd) : Nat := c.field 3 0 15
def Cmd.gFmt (c : Cmd) : Word := c.regs.getD 4 0

/-- The work of a command: bytes of COPY and MCAST, elements of REDUCE, rows of GEMV. -/
def Cmd.total (c : Cmd) : Nat :=
  match c.cls.toNat with
  | 1 => c.rows * c.rowLen
  | 2 => c.kids * c.len
  | 3 => c.len / c.redSize
  | 4 => c.gRows
  | _ => 1

/-- The byte ranges that a command writes: place, base, offset from the base, length (R259, R263, R264). -/
def Cmd.writes (s : State) (c : Cmd) : List (Place × Word × Nat × Nat) :=
  let d := c.regs.getD 0 0
  match c.cls.toNat with
  | 1 =>
    let p := placeOf c.flight (BitVec.ofNat 3 (c.field 2 61 3))
    (List.range c.rows).map fun i => (p, d, i * c.dstStride, c.rowLen)
  | 2 => (List.range c.kids).map fun i => (childPlace s c.flight c.lvl.toNat i, d, 0, c.len)
  | 3 => [(parentPlace c.flight c.lvl.toNat, d, 0, c.len)]
  | 4 => [(.main, c.regs.getD 2 0, 0, c.gRows * ((fwTyAcc c.gFmt).width / 8))]
  | _ => []

/-- The byte ranges that a command reads (R259, R263 to R265). -/
def Cmd.reads (s : State) (c : Cmd) : List (Place × Word × Nat × Nat) :=
  let b := c.regs.getD 1 0
  match c.cls.toNat with
  | 1 =>
    let p := placeOf c.flight (BitVec.ofNat 3 (c.field 2 58 3))
    (List.range c.rows).map fun i => (p, b, i * c.srcStride, c.rowLen)
  | 2 => [(parentPlace c.flight c.lvl.toNat, b, 0, c.len)]
  | 3 => (List.range c.kids).map fun i => (childPlace s c.flight c.lvl.toNat i, b, 0, c.len)
  | 4 =>
    let a := (fwTyA c.gFmt).width / 8
    let x := (fwTyB c.gFmt).width / 8
    let blocks := (c.gCols + 31) / 32
    [(.main, c.regs.getD 0 0, 0, (c.gRows - 1) * c.gPitch * 64 + c.gCols * a), (.main, b, 0, c.gCols * x)] ++
      (if fwSca c.gFmt then [(.main, c.regs.getD 5 0, 0, c.gRows * blocks)] else []) ++
      (if fwScb c.gFmt then [(.main, c.regs.getD 6 0, 0, blocks)] else [])
  | _ => []

/-! Regions and hazards (R257, R258). -/

/-- A region: its space instance as a number, its bytes, and whether it is written. -/
structure Region where
  inst : Nat
  lo : Nat
  hi : Nat
  wr : Bool

/-- The number of the space instance of a place, and the first byte there (R257). -/
def regionAt (p : Place) (base : Word) : Nat × Nat :=
  match p with
  | .chip .h u => (0x10000 + u, base.toNat)
  | .chip .g u => (0x20000 + u, base.toNat)
  | .chip _ u => (0x30000 + u, base.toNat)
  | _ => (handleBuf base, handleOff base)

/-- The regions over ranges: one over the extent in each memory (R257). -/
def regionsOf (wr : Bool) (rs : List (Place × Word × Nat × Nat)) : List Region :=
  rs.foldl (fun acc r =>
    let a := regionAt r.1 r.2.1
    let lo := a.2 + r.2.2.1
    let hi := lo + r.2.2.2
    match acc.find? (fun x => decide (x.inst = a.1)) with
    | none => acc ++ [⟨a.1, lo, hi, wr⟩]
    | some _ => acc.map fun x => if x.inst = a.1 then { x with lo := Nat.min x.lo lo, hi := Nat.max x.hi hi } else x) []

/-- All regions of a command (R257). -/
def Cmd.regions (s : State) (c : Cmd) : List Region :=
  regionsOf false (c.reads s) ++ regionsOf true (c.writes s) ++ c.foots.map fun f =>
    let a := regionAt (placeOf c.flight f.sp) f.base
    ⟨a.1, a.2, a.2 + f.len, f.wr⟩

/-- Two regions overlap and one is written (R258). -/
def Region.clash (a b : Region) : Bool :=
  decide (a.inst = b.inst) && decide (a.lo < b.hi) && decide (b.lo < a.hi) && (a.wr || b.wr)

/-- Two commands belong to one team (R258). -/
def sameTeam (a b : Cmd) : Bool :=
  match a.member, b.member with
  | some x, some y => decide (x.grid = y.grid ∧ x.team = y.team)
  | none, none => decide (a.flight = b.flight)
  | _, _ => false

/-- The command waits for an earlier one of its team and die (R258). -/
def hazard (s : State) (c : Cmd) : Bool :=
  s.cmds.any fun b => decide (b.order < c.order) && decide (b.flight.die = c.flight.die) && sameTeam b c && b.result.isNone &&
    (b.regions s).any fun x => (c.regions s).any fun y => x.clash y

/-! Destination lines (R197). -/

/-- A line that a command's flight may write (R195). -/
def lineOpen (s : State) (c : Cmd) (line : Nat) : Bool :=
  c.priv || (match (lineSt s line).owner with | none => true | some o => decide (o = c.ctx))

/-- The hall and gallery lines of a range that are within bounds and not another context's. -/
def rangeLines (s : State) (c : Cmd) (r : Place × Word × Nat × Nat) : List Nat :=
  match r.1 with
  | .chip .z _ | .main | .far | .peer _ => []
  | .chip sp u =>
    let lo := r.2.1.toNat + r.2.2.1
    let hi := Nat.min (lo + r.2.2.2) (spaceEnd c.priv sp)
    ((List.range ((hi + 63) / 64 - lo / 64)).map fun i => lineOf (chipKey sp u 0) + lo / 64 + i).filter (lineOpen s c)

/-- A command begins to write lines: P and C become 0 (R197). -/
def beginLines (s : State) (id : Nat) (ls : List Nat) : State :=
  let s1 := ls.foldl (fun s l => setLine s l { lineSt s l with p := false, c := false }) s
  { s1 with cmds := s1.cmds.map fun c => if c.id = id then { c with begun := (c.begun ++ ls).dedup } else c }

/-! Checks and acceptance (R251). -/

/-- ILLEGAL with the number of a register of the group (R251). -/
def badReg (o : OpsX) (i : Nat) : LTrap := lt5 .illegal (groupNum o i)

/-- An address or handle that is not a multiple of n (R251). -/
def checkBase (a : Word) (n : Nat) : Rd Unit := if a.toNat % n ≠ 0 then .error (lt5 .align a) else .ok ()

/-- The space pairs of COPY: source, destination (R260). -/
def copyPairs : List (Nat × Nat) := [(0, 1), (1, 0), (1, 2), (2, 1), (2, 3), (3, 2), (3, 4), (4, 3), (3, 3)]

/-- The checks of COPY's group (R259, R260). -/
def copyCheck (o : OpsX) (g : List Word) : Rd Unit := do
  let d := g.getD 2 0
  let st := g.getD 3 0
  let dsp := (d.extractLsb' 61 3).toNat
  let ssp := (d.extractLsb' 58 3).toNat
  let rows := (d.extractLsb' 44 12).toNat + 1
  let len := (d.extractLsb' 0 24).toNat
  if !copyPairs.contains (ssp, dsp) ∨ d.getLsbD 56 ∨ d.extractLsb' 24 7 ≠ 0 ∨ (d.getLsbD 57 ∧ 2 ≤ dsp) ∨
      (d.getLsbD 43 ∧ dsp ≠ 4) ∨ len = 0 ∨ len % 8 ≠ 0 then .error (badReg o 2)
  if 1 < rows ∧ (st.extractLsb' 0 3 ≠ 0 ∨ st.extractLsb' 32 3 ≠ 0 ∨ (st.extractLsb' 32 32).toNat < len) then
    .error (badReg o 3)
  checkBase (g.getD 0 0) 8
  checkBase (g.getD 1 0) 8

/-- The largest number of children of a level (R262). -/
def kidLimit (s : State) (lvl : Nat) : Nat :=
  match lvl with
  | 2 => 8 | 3 => 6 | 4 => 4 | _ => (groupMembers s).length

/-- The checks of MCAST's group (R262, R263). -/
def mcastCheck (s : State) (lvl : Nat) (o : OpsX) (g : List Word) : Rd Unit := do
  let d := g.getD 2 0
  let len := d.extractLsb' 0 24
  if kidLimit s lvl < (d.extractLsb' 54 10).toNat + 1 ∨ d.extractLsb' 24 30 ≠ 0 ∨ len = 0 ∨ len.extractLsb' 0 3 ≠ 0 then
    .error (badReg o 2)
  checkBase (g.getD 0 0) 8
  checkBase (g.getD 1 0) 8

/-- The checks of REDUCE's group (R262, R264). -/
def reduceCheck (s : State) (lvl : Nat) (o : OpsX) (g : List Word) : Rd Unit := do
  let d := g.getD 2 0
  let len := d.extractLsb' 0 24
  let ty := (d.extractLsb' 50 4).toNat
  if kidLimit s lvl < (d.extractLsb' 54 10).toNat + 1 ∨ [0, 1, 2, 3, 11, 12].contains ty = false ∨ d.extractLsb' 48 2 = 3 ∨
      (d.getLsbD 47 ∧ ty < 11) ∨ d.extractLsb' 24 23 ≠ 0 ∨ len = 0 ∨ len.extractLsb' 0 3 ≠ 0 then .error (badReg o 2)
  checkBase (g.getD 0 0) 8
  checkBase (g.getD 1 0) 8

/-- The checks of GEMV's group (R265). -/
def gemvCheck (o : OpsX) (g : List Word) : Rd Unit := do
  let sh := g.getD 3 0
  let f := g.getD 4 0
  let cols := (sh.extractLsb' 16 24).toNat
  let legal := fwLegal f && f.extractLsb' 20 44 == 0
  if sh.extractLsb' 40 24 = 0 ∨ cols = 0 ∨
      (legal ∧ ((sh.extractLsb' 0 15).toNat * 64 < cols * ((fwTyA f).width / 8) ∨ (sh.getLsbD 15 ∧ fwAcc f ≠ 11))) then
    .error (badReg o 3)
  if !legal then .error (badReg o 4)
  if fwSca f = false ∧ g.getD 5 0 ≠ 0 then .error (badReg o 5)
  if fwScb f = false ∧ g.getD 6 0 ≠ 0 then .error (badReg o 6)
  checkBase (g.getD 0 0) 64
  checkBase (g.getD 1 0) ((fwTyB f).width / 8)
  checkBase (g.getD 2 0) ((fwTyAcc f).width / 8)

/-- A leaf entry breaks the layout of R204 whatever its level: a reserved bit, a cellar device that does not exist, a device named
outside the cellar, or an address that is no frame's. -/
def leafBroken (e : Word) : Bool :=
  decide (e.extractLsb' 48 9 ≠ 0 ∨ pteCl e = 3 ∨ (pteCl e ≠ 0 ∧ pteTr e = false) ∨ pteAddr e % 65536 ≠ 0)

/-- An entry that MIGR does not take as a new leaf, whatever the page (R204, R268). -/
def newLeafBad (e : Word) : Bool := !pteV e || !pteLf e || pteUa e || leafBroken e

/-- The checks of MIGR's group against the page's leaf (R251, R268); a page without a leaf fails in the engine (R270). A context
that is not live has no page to move (log entry 21). -/
def migrCheck (s : State) (o : OpsX) (g : List Word) : Rd Unit := do
  let a := g.getD 0 0
  let e := g.getD 1 0
  let ctx := a.extractLsb' 48 6
  let va := (a.extractLsb' 0 48).toNat
  if a.extractLsb' 54 10 ≠ 0 ∨ va % 65536 ≠ 0 ∨ (ctxOf s ctx).live = false then .error (badReg o 0)
  match walkFrom s ctx va (ptRoot (ctxOf s ctx)) walkLevels with
  | .leaf lvl _ cur =>
    if va % leafBytes lvl ≠ 0 then .error (badReg o 0)
    if newLeafBad e ∨ pteKnd e ≠ pteKnd cur ∨ pteFrame e % leafFrames lvl ≠ 0 then .error (badReg o 1)
  | .fail _ => if newLeafBad e then .error (badReg o 1)

/-- A command ended with a cause before it started, or as a whole (R255, R270, R352). -/
def Cmd.endWith (c : Cmd) (cause : BitVec 8) (data : BitVec 32) : Cmd :=
  { c with left := 0, waits := [], result := some (resultWord false cause c.satf c.flg c.seq data) }

/-- A command accepted (R241, R251): it takes the queue's footprints and SEQ, and an unguarded copy begins its lines. One whose
scope mask names a die that is absent fails as for a lost die (R352). -/
def acceptCmd (s : State) (o : OpsX) (cls : BitVec 3) (g : List Word) (fut : Word) : State :=
  let f := s.fl
  let q := f.queue o.qn
  let id := s.uid
  let c : Cmd :=
    { id := id, cls := cls, flight := f.id, ctx := f.ctx, priv := f.priv, ginst := f.ginst, member := f.member, qn := o.qn,
      lvl := q.lvl, seq := q.seq, scope := o.scope, fut := fut, regs := g, foots := q.foots, order := id, started := false,
      done := [], left := 0, waits := [], open_ := [], got := [], fails := [], flg := 0, satf := false, begun := [],
      landed := [], migr := none, result := none, futWaits := [] }
  let lost := scopeAbsent s f.ctx o.scope
  let c1 := { c with left := c.total }
  let s1 := { s with uid := id + 1, cmds := s.cmds ++ [if lost then c1.endWith Cause.dieLost.code 0 else c1],
                     fl := f.setQueue o.qn { q.push (some id) 0 with foots := [] } }
  if c1.guarded || lost then s1 else beginLines s1 id ((c1.writes s).flatMap (rangeLines s c1)).dedup

/-- A command word (R247, R251): its checks in the issuing lane in the order of R251, and its acceptance. Its group is of `size`
registers, of which it reads the first `n`. -/
def commandWord (s : State) (h : Hdr) (o : OpsX) (cls : BitVec 3) (size n : Nat)
    (check : State → Nat → List Word → Rd Unit) : State :=
  onceScoped s h o true (groupSrcs o n ++ [o.sb]) fun t _ l => do
    if groupPast o size then .error (lt4 .illegal 0)
    let g ← readGroup l o n
    let fut ← srcG l o.sb
    let q := t.fl.queue o.qn
    if q.cls ≠ cls then .error (queueBind 0)
    check t q.lvl.toNat g
    if fut ≠ 0 ∧ fut.extractLsb' 0 3 ≠ 0 then .error (lt5 .align fut)
    let val (b : Bool) : OnceVal := if o.nb then .pred b else .none
    if q.full then
      if o.nb then pure (.fin t (val false))
      else if q.nr then pure (.stall (.queueFull o.qn))
      else .error (queueBind 4)
    else
      match waitRelease t o.ord (active s h) false with
      | some s1 => pure (.stall (s1.fl.stall.getD .flightGrid))
      | none => pure (.fin (acceptCmd t o cls g fut) (val true))

/-- Registers of its group that a COPY reads: the strides only where ROWS is above 1 (R259). -/
def copyCount (s : State) (h : Hdr) (o : OpsX) : Nat :=
  match issuingLane s h o.ls o.lane with
  | some k => if ((s.fl.lane k).getG (groupReg o.sa 2)).extractLsb' 44 12 = 0 then 3 else 4
  | none => 4

/-- COPY (R259). -/
def execCopy (h : Hdr) (o : OpsX) (s : State) : Res :=
  .next (commandWord s h o 1 4 (copyCount s h o) fun _ _ g => copyCheck o g)
/-- MCAST (R263). -/
def execMcast (h : Hdr) (o : OpsX) (s : State) : Res := .next (commandWord s h o 2 3 3 fun t lvl g => mcastCheck t lvl o g)
/-- REDUCE (R264). -/
def execReduce (h : Hdr) (o : OpsX) (s : State) : Res := .next (commandWord s h o 3 3 3 fun t lvl g => reduceCheck t lvl o g)
/-- GEMV (R265). -/
def execGemv (h : Hdr) (o : OpsX) (s : State) : Res := .next (commandWord s h o 4 7 7 fun _ _ g => gemvCheck o g)

/-- MIGR (R247, R268), which is privileged (R53). -/
def execMigr (h : Hdr) (o : OpsX) (s : State) : Res :=
  if !s.fl.priv then .next (wordTrap s 3 .priv 0 false)
  else .next (commandWord s h o 5 2 2 fun t _ g => migrCheck t o g)

end Sys2Proof.Machine
end

