-- ==== Sys2Proof/Machine/Engine.lean ====
section
/-! DEFINITION. The engines at work: R197, R200, R241, R242, R252 to R258, R261 to R267, R321, R358. -/

namespace Sys2Proof.Machine

/-! Commands in the state. -/

/-- A command by its number. -/
def cmdById (s : State) (id : Nat) : Option Cmd := s.cmds.find? fun c => decide (c.id = id)

/-- The state with a command updated. -/
def updCmd (s : State) (id : Nat) (f : Cmd → Cmd) : State :=
  { s with cmds := s.cmds.map fun c => if c.id = id then f c else c }

/-- ENGTAG (R254). -/
def engTag (c : Cmd) : Word :=
  .cast (by rfl) (c.ctx ++ BitVec.ofNat 3 c.flight.die ++ BitVec.ofNat 6 c.flight.core ++ BitVec.ofNat 6 c.flight.fnum ++
    c.qn ++ 0#8 ++ c.seq)

/-- The failed piece that decides (R253): the lowest offset, then the lowest child. -/
def lowestFail : List PieceFail → Option PieceFail
  | [] => none
  | f :: rest =>
    match lowestFail rest with
    | none => some f
    | some g => if g.off < f.off ∨ (g.off = f.off ∧ g.child < f.child) then some g else some f

/-- A command with all its work done has its result word (R242, R253). -/
def Cmd.finish (c : Cmd) : Cmd :=
  if c.left ≠ 0 ∨ c.result.isSome then c
  else
    match lowestFail c.fails with
    | none => { c with result := some (resultWord false 0 c.satf c.flg c.seq 0) }
    | some f => { c with result := some (resultWord false f.cause.code c.satf c.flg c.seq (BitVec.ofNat 32 f.off)) }

/-- A piece performed or failed: `n` units of work done (R252, R253). -/
def Cmd.pieceDone (c : Cmd) (p n : Nat) : Cmd :=
  Cmd.finish { c with done := p :: c.done, left := c.left - n, waits := c.waits.filter (fun w => decide (w.1 ≠ p)),
                      got := c.got.filter (fun g => decide (g.1 ≠ p)) }

/-- A failed piece noted (R253). -/
def Cmd.pieceFail (c : Cmd) (p n off child : Nat) (cause : Cause) : Cmd :=
  Cmd.pieceDone { c with fails := ⟨off, child, cause⟩ :: c.fails } p n

/-! Reading and writing a piece (R252, R202, R195). -/

/-- What the checks of one access of a piece give: its bytes or address, a failure, a failed translation, or a request to
a peer. -/
inductive PieceAt where
  | chip (key : Nat)
  | main (key : Nat) (h : Word)
  | fail (c : Cause)
  | fault (kind : Nat) (va : BitVec 48) (h : Word)
  | ask (peer : BitVec 10) (pctx : BitVec 6) (pbuf : BitVec 12) (off : Nat) (h : Word)

/-- The checks of one access of a piece (R252): bounds, owner tag, or the buffer checks of R202 for the command's context. -/
def pieceCheck (s : State) (c : Cmd) (r : Right) (x : Place × Word × Nat × Nat) : PieceAt :=
  let a := placeAdd x.1 x.2.1 x.2.2.1
  let len := x.2.2.2
  match x.1 with
  | .chip sp u =>
    let key := chipKey sp u a.1.toNat
    if !(dieOf s (match sp with | .h => u / 48 | .g => u / 6 | _ => u)).present then .fail .dieLost
    else if a.2 || decide (spaceEnd c.priv sp < a.1.toNat + len) then .fail .bounds
    else if !lineOpen s c (lineOf key) then .fail .owner
    else .chip key
  | .main =>
    match probeMain s c.ctx r ⟨0, len, a.1, a.2⟩ true with
    | .at_ key => if (r == .rd || decide (len < 64)) && poisoned s key then .fail .memPoison else .main key a.1
    | .trap e _ => .fail e
    | .fault k va => .fault k va a.1
    | _ => .fail .space
  | .far =>
    match probeFar s c.ctx r ⟨0, len, a.1, a.2⟩ true with
    | .far p pc b off => .ask p pc b off a.1
    | .trap e _ => .fail e
    | _ => .fail .space
  | .peer pkg =>
    let g := groupEntry s pkg.toNat
    if a.2 then .fail .bounds
    else if !g.getLsbD 63 || g.getLsbD 62 then .fail .peerUnreachable
    else .ask pkg c.ctx (BitVec.ofNat 12 (handleBuf a.1)) (handleOff a.1) a.1

/-- The bytes at an address of this package as an engine reads them (R195). -/
def pieceBytes (s : State) (c : Cmd) (at_ : PieceAt) (len : Nat) : List Byte :=
  match at_ with
  | .chip key => if !c.priv && (lineSt s (lineOf key)).owner.isNone then List.replicate len 0 else readBytes s key len
  | .main key _ => readBytes s key len
  | _ => []

/-- The bytes that a command writes into a line (R197). -/
def lineBytes (s : State) (c : Cmd) (line : Nat) : Nat :=
  (c.writes s).foldl (fun n r =>
    match r.1 with
    | .chip sp u =>
      let lo := chipKey sp u (r.2.1.toNat + r.2.2.1)
      n + (Nat.min (lo + r.2.2.2) (64 * line + 64) - Nat.max lo (64 * line))
    | _ => n) 0

/-- Bytes of a command land in a line that it has begun; the last one makes P 1 (R197, R199). -/
def landBytes (s : State) (id line n : Nat) : State :=
  match cmdById s id with
  | none => s
  | some c =>
    if !c.begun.contains line then s
    else
      let got := (c.landed.lookup line).getD 0 + n
      if got < lineBytes s c line then updCmd s id fun c => { c with landed := assocPut line got c.landed }
      else
        let s1 := updCmd s id fun c =>
          { c with landed := assocPut line got c.landed, begun := c.begun.filter fun l => decide (l ≠ line) }
        setLine s1 line { lineSt s1 line with p := true }

/-- The bytes of a piece written in this package (R195, R197, R359). -/
def pieceWrite (s : State) (c : Cmd) (at_ : PieceAt) (bs : List Byte) : State :=
  match at_ with
  | .chip key => landBytes (writeChip s c.priv c.ctx key bs) c.id (lineOf key) bs.length
  | .main key _ => (writeMain s key bs).getD s
  | _ => s

/-- Table copies and reports that the accesses of a piece leave (R202, R203). -/
def pieceNotes (s : State) (c : Cmd) (xs : List (Right × Place × Word × Nat × Nat)) : State :=
  noteRanges s c.flight.die c.ctx (xs.filterMap fun x =>
    match x.2.1 with
    | .main => some ⟨x.1, false, x.2.2.1, x.2.2.2.1, x.2.2.2.2⟩
    | .far => some ⟨x.1, true, x.2.2.1, x.2.2.2.1, x.2.2.2.2⟩
    | _ => none)

/-- A fault record of a piece (R209, R254). -/
def pieceFault (s : State) (c : Cmd) (acc kind : Nat) (va : BitVec 48) (h : Word) : State :=
  pushFault s (faultRecord s c.ctx c.flight true 0 3 acc kind h va (engTag c))

/-- A piece waits for units to be translated (R254). -/
def pieceHold (s : State) (id p : Nat) (vas : List (BitVec 48)) : State :=
  updCmd s id fun c => { c with waits := c.waits.filter (fun w => decide (w.1 ≠ p)) ++ [(p, waitsOf vas)] }

/-- A request of a piece to a peer (R370). -/
def pieceAsk (s : State) (c : Cmd) (p child : Nat) (at_ : PieceAt) (op : RemOp) : State :=
  match at_ with
  | .ask peer pctx pbuf off h =>
    updCmd (sendRequest s (.piece c.id p child) c.flight.die c.ctx h peer pctx pbuf off op) c.id fun c =>
      { c with open_ := c.open_ ++ [(p, child)] }
  | _ => s

/-! COPY and MCAST (R252, R259, R263). -/

/-- A piece of a COPY or MCAST: source, destination, bytes, offset within the transfer, child (R252). -/
structure CopyPiece where
  src : Place × Word × Nat × Nat
  dst : Place × Word × Nat × Nat
  len : Nat
  off : Nat
  child : Nat

/-- The piece numbered p, if a piece begins there: COPY counts the bytes of its transfer, MCAST those of all its
children. -/
def copyPiece (s : State) (c : Cmd) (p : Nat) : Option CopyPiece :=
  let row := if c.cls = 1 then c.rowLen else c.len
  let i := p / row
  let o := p % row
  let place (x : Option (Place × Word × Nat × Nat)) : Option (Place × Word × Nat) := x.map fun x => (x.1, x.2.1, x.2.2.1 + o)
  match place (if c.cls = 1 then (c.reads s)[i]? else (c.reads s)[0]?), place ((c.writes s)[i]?) with
  | some a, some b =>
    let am := (a.2.1.toNat + a.2.2) % 64
    let bm := (b.2.1.toNat + b.2.2) % 64
    if o = 0 ∨ am = 0 ∨ bm = 0 then
      let len := Nat.min (Nat.min (64 - am) (64 - bm)) (row - o)
      some { src := (a.1, a.2.1, a.2.2, len), dst := (b.1, b.2.1, b.2.2, len), len := len,
             off := if c.cls = 1 then p else o, child := if c.cls = 1 then 0 else i }
    else none
  | _, _ => none

/-- The hall or gallery line that a piece writes (R200). -/
def pieceLine (x : Place × Word × Nat × Nat) : Option Nat :=
  match x.1 with
  | .chip .z _ => none
  | .chip sp u => some (lineOf (chipKey sp u (x.2.1.toNat + x.2.2.1)))
  | _ => none

/-- What a peer has answered for a piece and child. -/
def Cmd.answer (c : Cmd) (p child : Nat) : Option (List Byte) :=
  (c.got.find? fun g => decide (g.1 = p ∧ g.2.1 = child)).map fun g => g.2.2

/-- One piece of a COPY or MCAST performed, or taken to its next step (R252 to R254, R259, R260). A piece of a counted COPY
that is the last of its command ends the message (R312). -/
def doCopy (s : State) (c : Cmd) (p : Nat) (x : CopyPiece) : State :=
  if (c.answer p 1).isSome then updCmd s c.id fun c => c.pieceDone p x.len
  else
    let s1 := pieceNotes s c [(.rd, x.src), (.wr, x.dst)]
    let a := pieceCheck s c .rd x.src
    let b := pieceCheck s c .wr x.dst
    let fail (e : Cause) : State := updCmd s1 c.id fun c => c.pieceFail p x.len x.off x.child e
    match a, b with
    | .fail e, _ => fail e
    | _, .fail e => fail e
    | .fault k va h, _ => pieceHold (pieceFault s1 c 4 k va h) c.id p [va]
    | _, .fault k va h => pieceHold (pieceFault s1 c 5 k va h) c.id p [va]
    | _, _ =>
      let bytes : Option (List Byte) := match a with
        | .ask _ _ _ _ _ => c.answer p 0
        | _ => some (pieceBytes s c a x.len)
      match bytes with
      | none => pieceAsk s1 c p 0 a (.load x.len)
      | some bs =>
        match b with
        | .ask _ _ _ _ _ =>
          let op : RemOp := if c.counted then
              .counted bs (BitVec.ofNat 12 (c.field 2 31 12)) (decide (c.left = x.len) && c.fails.isEmpty)
            else .store bs
          pieceAsk s1 c p 1 b op
        | _ => updCmd (pieceWrite s1 c b bs) c.id fun c => c.pieceDone p x.len

/-! REDUCE (R264). -/

/-- What the children give for an element: bytes, a failure with its child, failed translations, and requests to send. -/
structure RedIn where
  vals : List (Option (List Byte))
  fail : Option (Nat × Cause)
  faults : List (Nat × BitVec 48 × Word)
  asks : List (Nat × PieceAt)

/-- Element e at every child (R264, R253). -/
def redInputs (s : State) (c : Cmd) (e : Nat) : RedIn :=
  let size := c.redSize
  ((List.range c.kids).zip (c.reads s)).foldl (fun acc x =>
    let r := x.2
    match pieceCheck s c .rd (r.1, r.2.1, e * size, size) with
    | .fail f => { acc with vals := acc.vals ++ [none], fail := acc.fail.orElse fun _ => some (x.1, f) }
    | .fault k va h => { acc with vals := acc.vals ++ [none], faults := acc.faults ++ [(k, va, h)] }
    | .ask p pc b off h =>
      match c.answer e x.1 with
      | some bs => { acc with vals := acc.vals ++ [some bs] }
      | none => { acc with vals := acc.vals ++ [none], asks := acc.asks ++ [(x.1, .ask p pc b off h)] }
    | a => { acc with vals := acc.vals ++ [some (pieceBytes s c a size)] }) ⟨[], none, [], []⟩

/-- The combination of an element over the children (R264): RNE, the tree of R162. -/
def redValue (c : Cmd) (vals : List Nat) : SubRes :=
  let op := BitVec.ofNat 4 (c.field 2 48 2)
  (treeReduce (redOp c.redTy op (c.field 2 47 1 == 1) .rne) 10 (vals.map fun v => some (SubRes.plain v))).getD (.plain 0)

/-- One element of a REDUCE performed, or taken to its next step (R252 to R254, R264). -/
def doReduce (s : State) (c : Cmd) (e : Nat) : State :=
  let size := c.redSize
  let r := redInputs s c e
  let dst := (parentPlace c.flight c.lvl.toNat, c.regs.getD 0 0, e * size, size)
  let s1 := pieceNotes s c ((c.reads s).map (fun x => (.rd, x.1, x.2.1, e * size, size)) ++ [(.wr, dst)])
  let b := pieceCheck s c .wr dst
  match r.fail, b with
  | some (i, f), _ => updCmd s1 c.id fun c => c.pieceFail e 1 (e * size) i f
  | none, .fail f => updCmd s1 c.id fun c => c.pieceFail e 1 (e * size) c.kids f
  | none, _ =>
    match r.faults, b with
    | x :: rest, _ =>
      pieceHold ((x :: rest).foldl (fun s y => pieceFault s c 4 y.1 y.2.1 y.2.2) s1) c.id e ((x :: rest).map fun y => y.2.1)
    | [], .fault k va h => pieceHold (pieceFault s1 c 5 k va h) c.id e [va]
    | [], _ =>
      if r.asks ≠ [] then r.asks.foldl (fun s x => pieceAsk s c e x.1 x.2 (.load size)) s1
      else
        let v := redValue c (r.vals.map fun x => bytesToNat (x.getD []))
        updCmd (pieceWrite s1 c b (natToBytes size v.bits)) c.id fun c =>
          Cmd.pieceDone { c with flg := c.flg ||| v.fl, satf := c.satf || v.sat } e 1

/-! GEMV (R265 to R267). -/

/-- The pieces of a range within 64-byte blocks (R252). -/
def blockRanges : Nat → Nat → Nat → List (Nat × Nat)
  | 0, _, _ => []
  | fuel + 1, at_, len =>
    if len = 0 then []
    else
      let n := Nat.min (64 - at_ % 64) len
      (at_, n) :: blockRanges fuel (at_ + n) (len - n)

/-- A range of a main buffer read for a command: its bytes, or the first failure and the failed translations. -/
def mainRange (s : State) (c : Cmd) (h : Word) (d len : Nat) : List Byte × Option Cause × List (Nat × BitVec 48 × Word) :=
  (blockRanges (len / 64 + 2) (handleOff h + d) len).foldl (fun acc x =>
    match pieceCheck s c .rd (.main, h, x.1 - handleOff h, x.2) with
    | .fail e => (acc.1, acc.2.1.orElse fun _ => some e, acc.2.2)
    | .fault k va w => (acc.1, acc.2.1, acc.2.2 ++ [(k, va, w)])
    | a => (acc.1 ++ pieceBytes s c a x.2, acc.2.1, acc.2.2)) ([], none, [])

/-- Element j of size n in bytes. -/
def elemAt (bs : List Byte) (n j : Nat) : Nat := bytesToNat ((bs.drop (n * j)).take n)

/-- y[i] from the bytes of its row, of x and of the scale bytes (R267). -/
def gemvValue (c : Cmd) (m x ms xs : List Byte) : SubRes :=
  let f := c.gFmt
  (List.range c.gCols).foldl (fun acc j =>
    gStep (fwTyAcc f) c.gSat acc
      (gElem (fwTyA f) (fwPa f) (elemAt m ((fwTyA f).width / 8) j) (if fwSca f then some (elemAt ms 1 (j / 32)) else none))
      (gElem (fwTyB f) (fwPb f) (elemAt x ((fwTyB f).width / 8) j) (if fwScb f then some (elemAt xs 1 (j / 32)) else none)))
    (.plain 0)

/-- One row of a GEMV performed, or held for translation (R254, R266, R267). -/
def doGemv (s : State) (c : Cmd) (i : Nat) : State :=
  let f := c.gFmt
  let size := (fwTyAcc f).width / 8
  let blocks := (c.gCols + 31) / 32
  let hm := c.regs.getD 0 0
  let m := mainRange s c hm (i * c.gPitch * 64) (c.gCols * ((fwTyA f).width / 8))
  let x := mainRange s c (c.regs.getD 1 0) 0 (c.gCols * ((fwTyB f).width / 8))
  let ms := if fwSca f then mainRange s c (c.regs.getD 5 0) (i * blocks) blocks else ([], none, [])
  let xs := if fwScb f then mainRange s c (c.regs.getD 6 0) 0 blocks else ([], none, [])
  let y := pieceCheck s c .wr (.main, c.regs.getD 2 0, i * size, size)
  let s1 := noteRanges s c.flight.die c.ctx
    ([⟨.rd, false, hm, i * c.gPitch * 64, c.gCols * ((fwTyA f).width / 8)⟩,
      ⟨.rd, false, c.regs.getD 1 0, 0, c.gCols * ((fwTyB f).width / 8)⟩] ++
      (if fwSca f then [⟨.rd, false, c.regs.getD 5 0, i * blocks, blocks⟩] else []) ++
      (if fwScb f then [⟨.rd, false, c.regs.getD 6 0, 0, blocks⟩] else []) ++
      [⟨.wr, false, c.regs.getD 2 0, i * size, size⟩])
  let il := (bufEntry s c.ctx (handleBuf hm)).il
  let fail (e : Cause) : State := updCmd s1 c.id fun c => c.pieceFail i 1 (i * size) 0 e
  if (bufEntry s c.ctx (handleBuf hm)).v && il != 3 then fail .space
  else
    match [m.2.1, x.2.1, ms.2.1, xs.2.1].findSome? id, y with
    | some e, _ => fail e
    | none, .fail e => fail e
    | none, _ =>
      let faults := m.2.2 ++ x.2.2 ++ ms.2.2 ++ xs.2.2 ++ (match y with | .fault k va h => [(k, va, h)] | _ => [])
      if faults ≠ [] then
        let firsts := faults.foldl (fun (seen : List (Nat × BitVec 48 × Word)) r =>
          if seen.any (fun z => decide (vpnOf z.2.1 = vpnOf r.2.1)) then seen else seen ++ [r]) []
        pieceHold (firsts.foldl (fun s z => pieceFault s c 6 z.1 z.2.1 z.2.2) s1) c.id i (faults.map fun z => z.2.1)
      else
        let v := gemvValue c m.1 x.1 ms.1 xs.1
        updCmd (pieceWrite s1 c y (natToBytes size v.bits)) c.id fun c =>
          Cmd.pieceDone { c with flg := c.flg ||| v.fl, satf := c.satf || v.sat } i 1

/-! The steps of the engines. -/

/-- A GEMV on a buffer pinned to the stack that is being retired (R355). -/
def gemvParked (s : State) (c : Cmd) : Bool :=
  let b := bufEntry s c.ctx (handleBuf (c.regs.getD 0 0))
  decide (c.cls = 4) && s.anneal.act && b.il == 3 && b.stk == s.anneal.stk

/-- ENGINE_COMMAND_START (R255, R258): when the scheduler would start a command of a cancelled instance, it is dropped. -/
def execEngineCommandStart (cmd : Nat) (s : State) : Res :=
  match cmdById s cmd with
  | none => .next s
  | some c =>
    if c.started ∨ c.result.isSome ∨ c.cls = 5 then .next s
    else if hazard s c || gemvParked s c then .next s
    else if cancelled s c.ctx c.ginst then .next (updCmd s cmd fun c => c.endWith Cause.cancelled.code 0)
    else .next (updCmd s cmd fun c => { c with started := true })

/-- How much work a piece number stands for, if it names a piece of the command. -/
def pieceSize (s : State) (c : Cmd) (p : Nat) : Option Nat :=
  if c.total ≤ p then none
  else
    match c.cls.toNat with
    | 1 | 2 => (copyPiece s c p).map (·.len)
    | 3 | 4 => some 1
    | _ => none

/-- A piece can be taken on (R200, R252, R254): it is not done, no answer is awaited, its line has begun. -/
def pieceReady (s : State) (c : Cmd) (p : Nat) : Bool :=
  c.started && c.result.isNone && (pieceSize s c p).isSome && !c.done.contains p && !c.open_.any (fun x => decide (x.1 = p)) &&
    (!c.counted || c.open_.isEmpty) &&
    ((c.waits.lookup p).getD []).all (fun w => w.answer.isSome) &&
    (!c.guarded || (match (copyPiece s c p).bind fun x => pieceLine x.dst with
      | some line => c.begun.contains line || !((c.writes s).flatMap (rangeLines s c)).contains line
      | none => true))

/-- ENGINE_PIECE (R252): a refused translation fails the piece (R254). -/
def execEnginePiece (cmd piece : Nat) (s : State) : Res :=
  match cmdById s cmd with
  | none => .next s
  | some c =>
    if !pieceReady s c piece then .next s
    else if ((c.waits.lookup piece).getD []).any (fun w => w.answer == some false) then
      let n := (pieceSize s c piece).getD 0
      match copyPiece s c piece, c.cls.toNat with
      | some x, 1 => .next (updCmd s cmd fun c => c.pieceFail piece n x.off x.child .pageFault)
      | some x, 2 => .next (updCmd s cmd fun c => c.pieceFail piece n x.off x.child .pageFault)
      | _, 3 => .next (updCmd s cmd fun c => c.pieceFail piece n (piece * c.redSize) 0 .pageFault)
      | _, _ => .next (updCmd s cmd fun c => c.pieceFail piece n (piece * ((fwTyAcc c.gFmt).width / 8)) 0 .pageFault)
    else
      match copyPiece s c piece, c.cls.toNat with
      | some x, 1 => .next (doCopy s c piece x)
      | some x, 2 => .next (doCopy s c piece x)
      | _, 3 => .next (doReduce s c piece)
      | _, 4 => .next (doGemv s c piece)
      | _, _ => .next s

/-- The guard of a line of a guarded copy can pass (R200). -/
def guardOpen (s : State) (c : Cmd) (line : Nat) : Bool :=
  c.guarded && c.started && c.result.isNone && !c.begun.contains line && (c.landed.lookup line).isNone &&
    ((c.writes s).flatMap (rangeLines s c)).contains line && (!(lineSt s line).p || (lineSt s line).c)

/-- GUARD_PASS (R197, R200). -/
def execGuardPass (cmd line : Nat) (s : State) : Res :=
  match cmdById s cmd with
  | none => .next s
  | some c => if guardOpen s c line then .next (beginLines s cmd [line]) else .next s

/-! Delivery (R242, R245, R321). -/

/-- Every earlier entry of the command's queue has been delivered (R242). -/
def deliverable (s : State) (c : Cmd) : Bool :=
  c.result.isSome && c.futWaits.all (fun w => w.answer.isSome) &&
    (match flightOf s c.flight with
     | none => true
     | some f => ((f.queue c.qn).entries.takeWhile fun e => decide (e.cmd ≠ some c.id)).all fun e => e.result.isSome)

/-- The entry of a command receives its word, or leaves its queue (R241, R242). -/
def Queue.deliver (q : Queue) (id : Nat) (w : Word) : Queue :=
  Queue.settle (if q.nr then { q with entries := q.entries.filter fun e => decide (e.cmd ≠ some id) }
    else { q with entries := q.entries.map fun e => if e.cmd = some id then { e with result := some w } else e })

/-- The future of a command as a resolution to perform (R242). -/
def Cmd.due (c : Cmd) : Due :=
  let cause := ((c.result.getD 0).extractLsb' 48 8)
  { ctx := c.ctx, die := c.flight.die, handle := c.fut, cause := if cause = 0 then none else some cause, tag := engTag c,
    waits := [] }

/-- The result word delivered and the command gone (R242). -/
def deliver (s : State) (c : Cmd) : State :=
  let s1 := { s with cmds := s.cmds.filter fun x => decide (x.id ≠ c.id) }
  updFlight s1 c.flight fun f => f.setQueue c.qn ((f.queue c.qn).deliver c.id (c.result.getD 0))

/-- RESULT_DELIVERY (R242, R321): the future first, then the word. -/
def execResultDelivery (cmd : Nat) (s : State) : Res :=
  match cmdById s cmd with
  | none => .next s
  | some c =>
    if !deliverable s c then .next s
    else if c.fut = 0 then .next (deliver s c)
    else if c.futWaits.any (fun w => w.answer == some false) then
      .next (deliver (dueReport s c.due (some c.flight) Cause.pageFault.code 0) c)
    else
      match resolveFuture s c.due (some c.flight) with
      | .ok s1 => .next (deliver s1 c)
      | .wait s1 vpn => .next (updCmd s1 cmd fun c => { c with futWaits := [⟨vpn, none⟩] })

/-! What an engine does next, in the model's own order (R261; log entry 3). -/

/-- The first piece from p on that can be taken on, or whose guard can pass. -/
def nextPiece (s : State) (c : Cmd) : Nat → Nat → Option Instr
  | 0, _ => none
  | fuel + 1, p =>
    match pieceSize s c p with
    | none => none
    | some n =>
      if pieceReady s c p then some (.enginePiece c.id p)
      else
        match (copyPiece s c p).bind fun x => pieceLine x.dst with
        | some line => if guardOpen s c line then some (.guardPass c.id line) else nextPiece s c fuel (p + n)
        | none => nextPiece s c fuel (p + n)

/-- The next step of one command. -/
def nextOfCmd (s : State) (c : Cmd) : Option Instr :=
  if c.result.isSome then (if deliverable s c then some (.resultDelivery c.id) else none)
  else if c.cls = 5 then none
  else if !c.started then
    if !(hazard s c || gemvParked s c) then some (.engineCommandStart c.id) else none
  else nextPiece s c c.total 0

/-- The next step of the engines. -/
def nextEngine (s : State) : Option Instr := s.cmds.findSome? (nextOfCmd s)

end Sys2Proof.Machine
end

