-- ==== Sys2Proof/Machine/Fetch.lean ====
section
/-! DEFINITION. Segment fetches: R18, R85, R86. -/

namespace Sys2Proof.Machine

/-- A slot of a core with its state and fill source. -/
def setSlot (s : State) (core : Nat) (slot : Nat) (x : SlotSt) (src : Option FillSrc) : State :=
  let c := coreOf s core
  setCore s core { c with slots := c.slots.set (Fin.ofNat 32 slot) x, src := c.src.set (Fin.ofNat 32 slot) src }

/-- A fetch accepted by a core's fetcher (R18, R86): an earlier one of the same slot ends with CANCELLED. -/
def acceptFetch (s : State) (core : Nat) (x : Fetch) : State :=
  let c := coreOf s core
  let old := c.fetches.filter fun f => decide (f.slot = x.slot)
  let s1 := setCore s core { c with fetches := c.fetches.filter (fun f => decide (f.slot ≠ x.slot)) ++ [x] }
  let s2 := setSlot s1 core x.slot .loading (some x.src)
  old.foldl (fun s f => pushDue s f.src.ctx (core / 48) f.fut (some Cause.cancelled.code) f.ginst) s2

/-- The fetcher holds four fetches (R86). -/
def fetcherFull (s : State) (core : Nat) : Bool := decide (4 ≤ (coreOf s core).fetches.length)

/-- The fetch that a flight's lane asks for (R85). -/
def fetchOf (f : Flight) (k : LaneId) (image : Word) (slot : Nat) (fut : Word) : Fetch :=
  { slot := slot, src := { ctx := f.ctx, buf := BitVec.ofNat 12 (handleBuf image), off := handleOff image, image := none },
    fut := fut, flight := f.id, lane := k, waits := [], reload := false, ginst := f.ginst }

/-- CFETCH (R85, R86): it follows its lane's earlier stores. -/
def execCfetch (h : Hdr) (o : OpsX) (s : State) : Res :=
  .next (onceX s h o (groupSrcs o 2 ++ [o.sb]) fun t k l => do
    let g ← readGroup l o 2
    let fut ← srcG l o.sb
    let image := g.getD 0 0
    let slot := g.getD 1 0
    if 32 ≤ slot.toNat then .error (lt5 .illegal slot)
    if handleOff image % 64 ≠ 0 then .error (lt5 .align (BitVec.ofNat 64 (handleOff image)))
    if fut ≠ 0 ∧ handleOff fut % 8 ≠ 0 then .error (lt5 .align (BitVec.ofNat 64 (handleOff fut)))
    match waitRelease t 2 (oneLane k) false with
    | some s1 => pure (.stall (s1.fl.stall.getD .flightGrid))
    | none =>
      if fetcherFull t t.fl.id.coreNo then
        if o.nb then pure (.fin t (.pred false))
        else pure (.park t (.fetcher image slot.toNat fut (active s h)))
      else
        pure (.fin (acceptFetch t t.fl.id.coreNo (fetchOf t.fl k image slot.toNat fut))
          (if o.nb then .pred true else .none)))

/-- What the read of a segment image gives (R86): its bytes, a failure, or failed translations. -/
inductive FetchIn where
  | ok (bs : List Byte)
  | fail (c : Cause)
  | fault (recs : List (Nat × BitVec 48 × Word))

/-- The first `n` lines of `len` bytes of main memory read for a context from a handle on (R86, R202). -/
def mainLines (s : State) (ctx : BitVec 6) (h : Word) (len : Nat) : Nat → FetchIn
  | 0 => .ok []
  | n + 1 =>
    let e := handleAdd h (64 * n : Nat)
    let size := Nat.min 64 (len - 64 * n)
    match mainLines s ctx h len n with
    | .fail c => .fail c
    | prev =>
      match probeMain s ctx .rd ⟨0, size, e.1, e.2⟩ true with
      | .at_ key =>
        if poisoned s key then .fail .memPoison
        else (match prev with | .ok bs => .ok (bs ++ readBytes s key size) | r => r)
      | .fault k va => (match prev with | .fault recs => .fault (recs ++ [(k, va, e.1)]) | _ => .fault [(k, va, e.1)])
      | .trap c _ => .fail c
      | _ => .fail .space

/-- `len` bytes of main memory read for a context from a handle on (R86, R202). -/
def mainBytes (s : State) (ctx : BitVec 6) (h : Word) (len : Nat) : FetchIn := mainLines s ctx h len ((len + 63) / 64)

/-- The handle of an image in a context's buffer. -/
def imageHandle (src : FillSrc) : Word := .cast (by rfl) (src.buf ++ BitVec.ofNat 52 src.off)

/-- The state after a fetch has ended (R86): its slot, and the resolution of its future. A reload of firmware that fails ends
the member of the flight that is held (R328). -/
def endFetch (s : State) (core : Nat) (x : Fetch) (cause : Option Cause) : State :=
  let c := coreOf s core
  let s1 := setCore s core { c with fetches := c.fetches.filter fun f => decide (f.slot ≠ x.slot) }
  let s0 := setSlot s1 core x.slot (if cause.isNone then .present else .absent) (some x.src)
  let s2 := match cause, flightOf s0 x.flight with
    | some _, some f => if x.reload then endMember s0 f .codeAbsent else s0
    | _, _ => s0
  pushDue s2 x.src.ctx (core / 48) x.fut (cause.map Cause.code) x.ginst

/-- One fault record for each distinct unit of a code fetch (R209). -/
def fetchFaults (s : State) (x : Fetch) (recs : List (Nat × BitVec 48 × Word)) : State :=
  let firsts := recs.foldl (fun (seen : List (Nat × BitVec 48 × Word)) r =>
    if seen.any (fun y => decide (vpnOf y.2.1 = vpnOf r.2.1)) then seen else seen ++ [r]) []
  firsts.foldl (fun s r => pushFault s (faultRecord s x.src.ctx x.flight false x.lane.val 3 3 r.1 r.2.2 r.2.1 0)) s

/-- SEGMENT_FETCH_COMPLETION (R86): the fetch of a slot reads its image and ends, or waits for translation (R207). -/
def execSegmentFetchCompletion (core slot : Nat) (s : State) : Res :=
  match (coreOf s core).fetches.find? fun f => decide (f.slot = slot) with
  | none => .next s
  | some x =>
    if x.waits.any (fun w => w.answer.isNone) then .next s
    else if x.waits.any (fun w => w.answer == some false) then .next (endFetch s core x (some .pageFault))
    else
      let s1 := noteRanges s (core / 48) x.src.ctx [⟨.rd, false, imageHandle x.src, 0, 4096⟩]
      match mainBytes s x.src.ctx (imageHandle x.src) 4096 with
      | .ok bs => .next (endFetch (writeBytes s1 (storeKey core (4096 * slot)) bs) core x none)
      | .fail c => .next (endFetch s1 core x (some c))
      | .fault recs =>
        let s2 := fetchFaults s1 x recs
        let c := coreOf s2 core
        let y := { x with waits := waitsOf (recs.map fun r => r.2.1) }
        .next (setCore s2 core { c with fetches := c.fetches.map fun f => if f.slot = slot then y else f })

/-- The next fetch that can end. -/
def nextFetch (s : State) : Option Instr :=
  s.cores.findSome? fun c =>
    (c.2.fetches.find? fun f => f.waits.all fun w => w.answer.isSome).map fun f => .segmentFetchCompletion c.1 f.slot

end Sys2Proof.Machine
end

