-- ==== Sys2Proof/Machine/Phaser.lean ====
section
/-! DEFINITION. Phasers and barriers: R307 to R318. -/

namespace Sys2Proof.Machine

/-! Phasers in the state (R307, R308). -/

/-- A phaser; a free one is zero. -/
def phaserOf (s : State) (k : PhKey) : Phaser := assocGet Phaser.blank s.phasers k

/-- The state with a phaser replaced. -/
def setPhaser (s : State) (k : PhKey) (p : Phaser) : State := { s with phasers := assocPut k p s.phasers }

/-- Phasers of a level's newel (R307). -/
def phaserCount (lvl : Nat) : Nat :=
  match lvl with
  | 1 => 64 | 2 => 256 | 3 => 1024 | 4 | 5 => 4096 | _ => 0

/-- The phaser that a flight names by a resolved level and a number (R307): level POD names the package's. -/
def phaserKey (f : Flight) (lvl num : Nat) : PhKey :=
  let l := Nat.min lvl 4
  ⟨l, (HwUnit.up (coreUnit f.id) l).num, num⟩

/-- The registration of a flight on a phaser (R309). -/
def Flight.regOf (f : Flight) (k : PhKey) : Option PhReg := f.phregs.find? fun r => decide (r.key = k)

/-- A mode that signals (R309). -/
def PhReg.signals (r : PhReg) : Bool := r.mode.getLsbD 0

/-- The flight with a registration replaced. -/
def Flight.setReg (f : Flight) (r : PhReg) : Flight :=
  { f with phregs := f.phregs.map fun x => if x.key = r.key then r else x }

/-- Every flight, saved images included, updated. -/
def mapRegs (s : State) (g : Flight → Flight) : State :=
  let s1 := mapFlights s g
  { s1 with images := s1.images.map fun i => if i.swapped.isSome then i else { i with flight := g i.flight } }

/-- The threshold test (R314). -/
def passed (phase t : BitVec 32) : Bool := decide ((phase - t).toNat < 2 ^ 31)

/-- A lane parked on a phaser, with its threshold. -/
def Lane.waitsOn (l : Lane) (k : PhKey) : Option (BitVec 32 × Dst × Bool) :=
  match l.st with
  | .parked (.phaser k1 t d w _) => if k1 = k then some (t, d, w) else none
  | _ => none

/-- The phaser has a registered member or a parked waiter (R307). -/
def phaserUsed (s : State) (k : PhKey) : Bool :=
  let uses (f : Flight) : Bool := (f.regOf k).isSome || allLanes.any fun j => ((f.lane j).waitsOn k).isSome
  (allFlights s).any uses || s.images.any fun i => i.freed && uses i.flight

/-- A parked lane that receives a general result completes (R25, R30). -/
def Lane.completeG (l : Lane) (d : Dst) (w : Bool) (x : Word) : Lane :=
  (if w then l.setG d.gReg x else l).complete (some (.gen x))

/-- Waiters of a phaser that its phase satisfies are released (R314). -/
def releaseWaiters (s : State) (k : PhKey) : State :=
  let p := phaserOf s k
  mapFlights s fun f =>
    if p.owner.isSome && p.owner != some f.ctx then f
    else
      let g := f.mapLanes fun _ l =>
        match l.waitsOn k with
        | some (t, d, w) => if passed p.phase t then l.completeG d w (p.phase.setWidth 64) else l
        | none => l
      f.woke g (ccountOf s f.id.die).toNat

/-- The package's own part of the end condition (R313); the drained line is high, as a piece counts when it is performed. -/
def phaserMet (p : Phaser) : Bool := p.touch && p.arr == p.nsig && p.expm == 0 && p.expb == 0

/-- The other packages of the connected group. -/
def otherMembers (s : State) : List (BitVec 10) :=
  ((groupMembers s).map (BitVec.ofNat 10)).filter fun p => decide (p ≠ s.host.pkgnum)

/-- An entry of another package for the phaser that is claimed here as `p` under key `k`. -/
def PodPeer.for (x : PodPeer) (k : PhKey) (p : Phaser) : Bool :=
  decide (p.owner = some x.ctx) && decide (x.num.toNat = k.num)

/-- The condition is known to hold in every package that has the phaser claimed (R313). -/
def allMet (s : State) (k : PhKey) (p : Phaser) : Bool :=
  phaserMet p && (!p.pod || s.podPeers.all fun x => !x.for k p || decide (x.met ≠ 0))

/-- A registration at the end of a phase (R310, R313). -/
def PhReg.nextPhase (r : PhReg) : PhReg := { r with counts := true, inArr := r.inArrn, inArrn := false }

/-- A registration after PHSET has cleared ARR and ARRN (R315). -/
def PhReg.unarrived (r : PhReg) : PhReg := { r with inArr := false, inArrn := false }

/-- Every registration on a phaser updated. -/
def mapRegsOf (s : State) (k : PhKey) (g : PhReg → PhReg) : State :=
  mapRegs s fun f =>
    match f.regOf k with
    | some r => f.setReg (g r)
    | none => f

/-- The end of a phase (R313). -/
def endPhase (s : State) (k : PhKey) : State :=
  let p := phaserOf s k
  let q : Phaser :=
    { p with phase := p.phase + 1, arr := p.arrn, arrn := 0, touch := decide (p.arrn ≠ 0),
             nsig := p.nsig + BitVec.ofNat 16 p.regNext - BitVec.ofNat 16 p.dropNext, regNext := 0, dropNext := 0 }
  let s1 := setPhaser s k q
  let s2 := if p.pod then
      { s1 with podPeers := s1.podPeers.map fun x => if x.for k p then { x with met := x.met - 1 } else x }
    else s1
  releaseWaiters (mapRegsOf s2 k PhReg.nextPhase) k

/-- Messages that tell the other packages what has become of a phaser in pod mode here (R307, R313, R368). -/
def tellGroup (s : State) (k : PhKey) (p : Phaser) (c : PodCond) : State :=
  match p.owner with
  | none => s
  | some x =>
    { s with outbox := s.outbox ++ (otherMembers s).map fun m => .phaser m s.podgen x (BitVec.ofNat 12 k.num) c }

/-- The phases of a phaser that can end end, at most `fuel` of them (R313). -/
def endPhases (k : PhKey) : Nat → State → State
  | 0, s => s
  | n + 1, s =>
    if allMet s k (phaserOf s k) then
      let s1 := endPhase s k
      let p := phaserOf s1 k
      endPhases k n (if p.pod && phaserMet p then tellGroup s1 k p .met else s1)
    else s

/-- A phaser becomes free (R307): the group learns of it. -/
def freePhaser (s : State) (k : PhKey) : State :=
  let p := phaserOf s k
  let s1 := if p.pod then tellGroup s k p .free else s
  { s1 with phasers := s1.phasers.filter fun e => decide (e.1 ≠ k) }

/-- A phaser without member and waiter becomes free (R307). -/
def freeUnused (s : State) (k : PhKey) : State := if phaserUsed s k then s else freePhaser s k

/-- As `freeUnused` for every phaser, as flights have left the part. -/
def freePhasers (s : State) : State := (s.phasers.map (·.1)).foldl freeUnused s

/-- After an operation on a phaser (R307, R313): the group learns of a change of the own condition, phases end, and a
phaser without member and waiter becomes free. `before`: the own condition before the operation. -/
def settlePhaser (s : State) (k : PhKey) (before : Bool) : State :=
  let p := phaserOf s k
  let s1 := if p.pod && phaserMet p != before then tellGroup s k p (if phaserMet p then .met else .unmet) else s
  freeUnused (endPhases k 4 s1) k

/-! Operations (R310 to R312, R315). -/

/-- A registration (R310): the state and the first phase in which it counts. A is the phase before that one. -/
def register (s : State) (k : PhKey) (pod : Bool) (mode : BitVec 2) : State × BitVec 32 :=
  let p0 := phaserOf s k
  let p := if p0.owner.isNone then { Phaser.blank with owner := some s.fl.ctx, pod := pod } else p0
  let now := decide (p.arr = 0)
  let first := if now then p.phase else p.phase + 1
  let q := if !mode.getLsbD 0 then p else if now then { p with nsig := p.nsig + 1 } else { p with regNext := p.regNext + 1 }
  let r : PhReg := ⟨k, mode, first - 1, now, false, false⟩
  let s1 := setPhaser { s with fl := { s.fl with phregs := s.fl.phregs ++ [r] } } k q
  let s2 := if pod && p0.owner.isNone then tellGroup s1 k q .claimed else s1
  (settlePhaser s2 k (phaserMet p0), first)

/-- A phaser without a registration (R310): a signalling member that counts and has not arrived leaves NSIG at once, one that has
arrived leaves it when the phase ends, and an arrival counted ahead is withdrawn from ARRN. -/
def Phaser.dropped (p : Phaser) (r : PhReg) : Phaser :=
  if !r.signals then p
  else
    let q := if r.inArrn then { p with arrn := p.arrn - 1 } else p
    if !r.counts then { q with regNext := q.regNext - 1 }
    else if r.inArr then { q with dropNext := q.dropNext + 1 }
    else { q with nsig := q.nsig - 1 }

/-- A registration of a flight removed (R310). -/
def dropReg (s : State) (f : FlightId) (k : PhKey) : State :=
  match (flightOf s f).bind (·.regOf k) with
  | none => s
  | some r =>
    let p := phaserOf s k
    let s1 := updFlight (setPhaser s k (p.dropped r)) f fun x => { x with phregs := x.phregs.filter fun y => decide (y.key ≠ k) }
    settlePhaser s1 k (phaserMet p)

/-- Every registration of a flight that retires or is cancelled is dropped (R309). -/
def dropRegs (s : State) (f : FlightId) : State :=
  match flightOf s f with
  | none => s
  | some x => (x.phregs.map (·.key)).foldl (fun s k => dropReg s f k) s

/-- An arrival of the flight at issue (R311): the state and the phase arrived for. -/
def arrive (s : State) (k : PhKey) (r : PhReg) : State × BitVec 32 :=
  let p := phaserOf s k
  let ahead := decide (r.a = p.phase)
  let ph := if ahead then p.phase + 1 else p.phase
  let q := if ahead then { p with arrn := p.arrn + 1, touch := true } else { p with arr := p.arr + 1, touch := true }
  let r1 := if ahead then { r with a := ph, inArrn := true } else { r with a := ph, inArr := true }
  let s1 := setPhaser { s with fl := s.fl.setReg r1 } k q
  (settlePhaser s1 k (phaserMet p), ph)

/-- Expected bytes and messages changed (R312). -/
def expect (s : State) (k : PhKey) (bytes : BitVec 48) (msgs : BitVec 32) : State :=
  let p := phaserOf s k
  settlePhaser (setPhaser s k { p with expb := p.expb + bytes, expm := p.expm + msgs, touch := true }) k (phaserMet p)

/-- PHASE written (R315). -/
def setPhase (s : State) (k : PhKey) (v : BitVec 32) : State :=
  let p := phaserOf s k
  if v = p.phase then s
  else
    let s1 := setPhaser s k { p with phase := v, arr := 0, arrn := 0, touch := false }
    settlePhaser (releaseWaiters (mapRegsOf s1 k PhReg.unarrived) k) k (phaserMet p)

/-! The phaser instructions (R316). -/

/-- A phaser instruction (R307, R316): its level, its reference word and the owner are checked in the issuing lane, and a
release waits for earlier stores of Active. `size` is that of its group, and `extra` are registers read beyond g[SA]. -/
def phaserWord (s : State) (h : Hdr) (o : OpsX) (size : Nat) (extra : List Src)
    (act : State → LaneId → Lane → PhKey → Nat → Rd OnceOut) : State :=
  onceX s h o (groupSrc o 0 :: extra) fun t k l => do
    if groupPast o size then .error (lt4 .illegal 0)
    let ref ← srcG l (groupSrc o 0)
    match resolveLevel t.fl o.lvl with
    | none => pure (.trapAll (lt5 .illegal (o.lvl.setWidth 64)))
    | some lvl =>
      let num := (ref.extractLsb' 0 12).toNat
      if ref.extractLsb' 12 52 ≠ 0 ∨ phaserCount lvl ≤ num then .error (lt5 .illegal 0)
      let key := phaserKey t.fl lvl num
      match (phaserOf t key).owner with
      | some c => if c ≠ t.fl.ctx then .error (lt5 .owner ref)
      | none => pure ()
      match waitRelease t o.ord (active s h) (decide (lvl = 5)) with
      | some s1 => pure (.stall (s1.fl.stall.getD .flightGrid))
      | none => act t k l key lvl

/-- PHREG (R310). -/
def execPhreg (h : Hdr) (o : OpsX) (s : State) : Res :=
  .next (phaserWord s h o 1 [o.sb] fun t _ l key lvl => do
    let m ← srcG l o.sb
    if m.extractLsb' 2 62 ≠ 0 ∨ m = 0 then .error (lt5 .illegal 0)
    if (t.fl.regOf key).isSome then .error (lt5 .illegal 0)
    if 8 ≤ t.fl.phregs.length then .error (lt5 .illegal 8)
    let p := phaserOf t key
    if p.owner.isSome ∧ p.pod ≠ decide (lvl = 5) then .error (lt5 .illegal 0)
    let r := register t key (decide (lvl = 5)) (m.extractLsb' 0 2)
    pure (.fin r.1 (.gen (r.2.setWidth 64))))

/-- PHDROP (R310). -/
def execPhdrop (h : Hdr) (o : OpsX) (s : State) : Res :=
  .next (phaserWord s h o 1 [] fun t _ _ key _ =>
    if (t.fl.regOf key).isNone then .error (lt5 .illegal 0)
    else pure (.fin (dropReg t t.fl.id key) .none))

/-- The registration that an arrival needs (R311, R314): `both`, signal-and-wait. -/
def arrivalReg (s : State) (key : PhKey) (both : Bool) : Rd PhReg :=
  match s.fl.regOf key with
  | none => .error (lt5 .illegal 0)
  | some r =>
    let p := phaserOf s key
    if !r.signals || (both && r.mode != 3) then .error (lt5 .illegal 0)
    else if r.a = p.phase + 1 then .error (lt5 .illegal (p.phase.setWidth 64))
    else .ok r

/-- PHARR (R311). -/
def execPharr (h : Hdr) (o : OpsX) (s : State) : Res :=
  .next (phaserWord s h o 1 [] fun t _ _ key _ => do
    let r ← arrivalReg t key false
    let x := arrive t key r
    pure (.fin x.1 (.gen (x.2.setWidth 64))))

/-- A wait on a threshold (R314): at once, or the issuing set parks. -/
def phaserWait (s : State) (h : Hdr) (o : OpsX) (key : PhKey) (t : BitVec 32) (set : LaneSet) : OnceOut :=
  let p := phaserOf s key
  if passed p.phase t then .fin s (.gen (p.phase.setWidth 64)) else .park s (.phaser key t o.dst h.w set)

/-- PHWAIT (R314). -/
def execPhwait (h : Hdr) (o : OpsX) (s : State) : Res :=
  .next (phaserWord s h o 1 [o.sb] fun t _ l key _ => do
    let v ← srcG l o.sb
    pure (phaserWait t h o key (v.extractLsb' 0 32) (active s h)))

/-- PHNEXT (R314): an arrival, then a wait for the end of the phase arrived in. -/
def execPhnext (h : Hdr) (o : OpsX) (s : State) : Res :=
  .next (phaserWord s h o 1 [] fun t _ _ key _ => do
    let r ← arrivalReg t key true
    let x := arrive t key r
    pure (phaserWait x.1 h o key (x.2 + 1) (active s h)))

/-- PHSET (R315). -/
def execPhset (h : Hdr) (o : OpsX) (s : State) : Res :=
  .next (phaserWord s h o 1 [o.sb] fun t _ l key _ => do
    let v ← srcG l o.sb
    let x := v.extractLsb' 0 32
    if !passed x (phaserOf t key).phase ∧ t.fl.priv = false then .error (lt5 .priv 0)
    pure (.fin (setPhase t key x) .none))

/-- PHEXP (R312). -/
def execPhexp (h : Hdr) (o : OpsX) (s : State) : Res :=
  .next (phaserWord s h o 2 [groupSrc o 1, o.sb] fun t _ l key _ => do
    let b ← srcG l (groupSrc o 1)
    let m ← srcG l o.sb
    if m ≠ (m.extractLsb' 0 32).signExtend 64 then .error (lt5 .illegal 0)
    pure (.fin (expect t key (b.setWidth 48) (m.extractLsb' 0 32)) .none))

/-- A packet of another generation dropped and answered as not current (R368). -/
def answerStale (s : State) (pkg : BitVec 10) : State :=
  if (groupEntry s pkg.toNat).getLsbD 63 then { s with outbox := s.outbox ++ [.notCurrent pkg s.podgen] } else s

/-- How often another package's condition holds, after its message (R313). -/
def podCount (c : PodCond) (n : Nat) : Nat :=
  match c with
  | .met => n + 1
  | .unmet => n - 1
  | _ => n

/-- What is known of the other packages, after a message (R307, R313). -/
def podTold (s : State) (ctx : BitVec 6) (num : BitVec 12) (pkg : BitVec 10) (c : PodCond) : List PodPeer :=
  let old := s.podPeers.find? fun x => decide (x.ctx = ctx ∧ x.num = num ∧ x.pkg = pkg)
  let rest := s.podPeers.filter fun x => !decide (x.ctx = ctx ∧ x.num = num ∧ x.pkg = pkg)
  match c with
  | .free => rest
  | _ => rest ++ [⟨ctx, num, pkg, podCount c ((old.map (·.met)).getD 0)⟩]

/-- POD_PHASER_MESSAGE (R313, R368): another package of the group has claimed a phaser for a context in pod mode or has freed it, or
its condition has come to hold or has ceased to. -/
def execPodPhaserMessage (ctx : BitVec 6) (num : BitVec 12) (pkg : Sender) (met : PodCond) (s : State) : Res :=
  if pkg.gen ≠ s.podgen then .next (answerStale s pkg.pkg)
  else
    let key : PhKey := ⟨4, 0, num.toNat⟩
    let p := phaserOf s key
    let s1 := { s with podPeers := podTold s ctx num pkg.pkg met }
    if p.owner = some ctx ∧ p.pod = true then .next (settlePhaser s1 key (phaserMet p)) else .next s1

/-! Barriers (R317, R318). -/

/-- The address of a BAR at which a lane of the flight is parked, if it is not `pc`. -/
def otherBar (f : Flight) (pc : Pc) : Option Pc :=
  allLanes.findSome? fun k =>
    match (f.lane k).st with
    | .parked .bar => if (f.lane k).pc ≠ pc then some (f.lane k).pc else none
    | _ => none

/-- BAR (R317, R318): the issuing set parks. -/
def execBar (h : Hdr) (o : OpsX) (s : State) : Res :=
  if resolveLevel s.fl o.lvl ≠ some s.fl.level.toNat then
    .next (perLane s h [] fun _ l => .trap l none (lt5 .illegal (o.lvl.setWidth 64)))
  else
    match waitRelease s o.ord (active s h) (decide (s.fl.level.toNat = 4)) with
    | some s1 => .next s1
    | none =>
      .next (perLane s h [] fun _ l =>
        match otherBar s.fl l.pc with
        | some p => .trap l none (lt5 .illegal (p.setWidth 64))
        | none => .park l .bar)

/-- Every lane of a flight that is not EXITED is parked at a BAR, and there is one (R318). -/
def barGathered (f : Flight) : Bool :=
  f.alive != 0 && allLanes.all fun k => (f.lane k).exited || decide ((f.lane k).st = .parked .bar)

/-- The team of a member, as the key of its barrier. -/
def MemberRef.team0 (r : MemberRef) : MemberRef := { r with mem := 0 }

/-- The members that count on a team's barrier (R318): placed and not retired. -/
def counted (s : State) (r : MemberRef) : List Nat :=
  match gridById s r.grid with
  | none => [r.mem]
  | some g => (g.members.filter fun m => decide (m.team = r.team) && !m.retired).map (·.mem)

/-- The lanes of a flight that are parked at a BAR complete it (R318). -/
def passBar (f : Flight) : Flight :=
  f.mapLanes fun _ l => if l.st = .parked .bar then l.complete none else l

/-- A flight that runs a member is live on a core. -/
def runsHere (s : State) (r : MemberRef) : Bool := (allFlights s).any fun f => f.member == some r

/-- A member's barrier has passed where no flight of it is live here: a member of another package is told, and one whose image
CTXSV saved passes when it is restored. -/
def passAway (s : State) (r : MemberRef) : State :=
  if runsHere s r then s
  else
    match (memberOf s r).bind (·.peer) with
    | some p => { s with outbox := s.outbox ++ [.passed p s.podgen r.grid r.team r.mem] }
    | none => { s with barOwed := r :: s.barOwed }

/-- A barrier passes for members of a team, whose arrivals are taken away (R318). -/
def passTeam (s : State) (r : MemberRef) (arrived : List Nat) : State :=
  let left := (assocGet [] s.bars r.team0).filter fun m => !arrived.contains m
  let rest := s.bars.filter fun e => decide (e.1 ≠ r.team0)
  let s1 := { s with bars := if left = [] then rest else (r.team0, left) :: rest }
  let s2 := arrived.foldl (fun s m => passAway s { r with mem := m }) s1
  mapFlights s2 fun f =>
    match f.member with
    | some x => if x.team0 = r.team0 ∧ arrived.contains x.mem then f.woke (passBar f) (ccountOf s f.id.die).toNat else f
    | none => f

/-- A team's barrier passes once every counted member has arrived (R318). -/
def settleBar (s : State) (r : MemberRef) : State :=
  let arrived := assocGet [] s.bars r.team0
  if arrived ≠ [] ∧ (counted s r).all (fun m => arrived.contains m) then passTeam s r arrived else s

/-- A member has arrived on its team's barrier already. -/
def arrivedBar (s : State) (r : MemberRef) : Bool := (assocGet [] s.bars r.team0).contains r.mem

/-- The flight has arrived on its barrier already. -/
def barArrived (s : State) (f : Flight) : Bool :=
  match f.member with
  | some r => arrivedBar s r
  | none => false

/-- An arrival noted. -/
def addArrival (s : State) (r : MemberRef) : State :=
  { s with bars := assocPut r.team0 (r.mem :: assocGet [] s.bars r.team0) s.bars }

/-- A flight arrives: on the barrier kept here, or on that of the package that placed its member. -/
def flightArrives (s : State) (x : Flight) : State :=
  match x.member with
  | none => wake s x (passBar x)
  | some r =>
    let s1 := addArrival s r
    match (gridById s r.grid).bind (·.home) with
    | some (p, g) => { s1 with outbox := s1.outbox ++ [.arrived p s.podgen g r.team r.mem] }
    | none => settleBar s1 r

/-- The member here of a grid that another package has accepted. -/
def homeMember (s : State) (m : PeerMember) : Option MemberRef :=
  (s.grids.find? fun g => decide (g.home = some (m.pkg, m.grid)) &&
    g.members.any fun x => decide (x.team = m.team ∧ x.mem = m.mem)).map fun g => ⟨g.id, m.team, m.mem⟩

/-- BAR_ARRIVE (R318): a flight that has gathered arrives; a message of another package of the current generation (R368) tells of a
member that runs there, or of a barrier that is kept there. -/
def execBarArrive (src : BarSource) (s : State) : Res :=
  match src with
  | .flight f =>
    (match flightOf s f with
     | none => .next s
     | some x => if !barGathered x || barArrived s x then .next s else .next (flightArrives s x))
  | .peer m =>
    let r : MemberRef := ⟨m.grid, m.team, m.mem⟩
    if m.gen ≠ s.podgen then .next (answerStale s m.pkg)
    else if (memberOf s r).any (fun x => decide (x.peer = some m.pkg) && !x.retired) && !arrivedBar s r then
      .next (settleBar (addArrival s r) r)
    else .next s
  | .passed m =>
    if m.gen ≠ s.podgen then .next (answerStale s m.pkg)
    else
      match homeMember s m with
      | none => .next s
      | some r => if arrivedBar s r then .next (passTeam s r [m.mem]) else .next s

end Sys2Proof.Machine
end

