-- ==== Sys2Proof/Machine/Image.lean ====
section
/-! DEFINITION. Flight images, swap-out and swap-in: R134 to R137, R194, R338, R340. -/

namespace Sys2Proof.Machine

/-! The bytes of an image (R340), as words numbered from its start. -/

/-- Class code of a latch entry (R340; the codes are log entry 12). -/
def latchCode : Option LatchVal → Nat
  | none => 0
  | some (.gen _) | some (.mask _) => 1
  | some (.pred _) => 2
  | some (.vec _) => 3

/-- Word i of a latch entry. -/
def latchWord (x : Option LatchVal) (i : Nat) : Word :=
  match x with
  | some (.vec v) => v.extractLsb' (64 * i) 64
  | some (.gen w) => if i = 0 then w else 0
  | some (.mask m) => if i = 0 then m.setWidth 64 else 0
  | some (.pred b) => if i = 0 then (BitVec.ofBool b).setWidth 64 else 0
  | none => 0

/-- The latch entry of a class code from its words; a rejoin-mask value keeps its class where `old` has it. -/
def latchFrom (code : Nat) (rd : Nat → Word) (old : Option LatchVal) : Option LatchVal :=
  match code, old with
  | 0, _ => none
  | 1, some (.mask _) => some (.mask ((rd 0).setWidth 32))
  | 1, _ => some (.gen (rd 0))
  | 2, _ => some (.pred ((rd 0).getLsbD 0))
  | _, _ => some (.vec (.cast (by rfl) (rd 7 ++ rd 6 ++ rd 5 ++ rd 4 ++ rd 3 ++ rd 2 ++ rd 1 ++ rd 0)))

/-- Entry k of four. -/
def Latches.entry (t : Latches) (k : Nat) : Option LatchVal :=
  match k with | 0 => t.l0 | 1 => t.l1 | 2 => t.l2 | _ => t.l3

/-- The class codes of four entries, two bits each. -/
def Latches.codes (t : Latches) : Nat :=
  latchCode t.l0 + 4 * latchCode t.l1 + 16 * latchCode t.l2 + 64 * latchCode t.l3

/-- The code of a lane's state (log entry 12). -/
def stateCode : LaneSt → Nat
  | .ready => 0 | .parked _ => 1 | .exited => 2

/-- The code of a park condition (log entry 12). -/
def parkCode : LaneSt → Nat
  | .parked c =>
    match c with
    | .line _ => 1 | .load _ => 2 | .atomic _ _ => 3 | .fault _ _ => 4 | .remote _ _ _ _ => 5 | .fetcher _ _ _ _ => 6
    | .pop _ _ _ _ => 7 | .launch _ _ => 8 | .rejoin _ => 9 | .future _ _ _ _ _ _ _ => 10 | .phaser _ _ _ _ _ => 11
    | .bar => 12 | .rte _ => 13 | .mmode _ => 14 | .service => 15 | .ctxsv _ _ _ _ => 16
  | _ => 0

/-- The code of a space in an image (log entry 12). -/
def spaceCode : MSpace → Nat
  | .h => 0 | .g => 1 | .z => 2 | .m => 3 | .x => 4 | .n => 5

/-- The space of a code. -/
def spaceFrom (n : Nat) : MSpace :=
  match n with | 0 => .h | 1 => .g | 2 => .z | 3 => .m | 4 => .x | _ => .n

/-- The first word of a park condition (log entry 12): the issuing set, a small field, W and the destination, another small field, and
the code. -/
def parkHead (code x y : Nat) (d : Dst) (w : Bool) (set : LaneSet) : Word :=
  .cast (by rfl) (set ++ 0#5 ++ BitVec.ofNat 3 x ++ BitVec.ofBool w ++ d.bits ++ BitVec.ofNat 8 y ++ BitVec.ofNat 8 code)

/-- The sixteen bytes of a lane's park condition (log entry 12). A condition that is only a wait to try its instruction again has no
fields: the lane that it is restored for comes back to the instruction. -/
def parkWord (st : LaneSt) (i : Nat) : Word :=
  let none_ : Word := BitVec.ofNat 64 (parkCode st)
  match st with
  | .parked c =>
    (match c, i with
     | .pop q d w set, 0 => parkHead 7 0 q.toNat d w set
     | .rejoin k, 0 => parkHead 9 0 k.toNat (.g 0) false 0
     | .future sp _ d w set j _, 0 => parkHead 10 (spaceCode sp) j.val d w set
     | .future _ a _ _ _ _ _, _ => a
     | .phaser key _ d w set, 0 => parkHead 11 key.lvl key.inst d w set
     | .phaser key t _ _ _, _ => .cast (by rfl) (BitVec.ofNat 32 key.num ++ t)
     | .rte b, 0 => parkHead 13 0 b.toNat (.g 0) false 0
     | .mmode b, 0 => parkHead 14 0 b.toNat (.g 0) false 0
     | .ctxsv opn fnum _ set, 0 => parkHead 16 opn.toNat fnum (.g 0) false set
     | .ctxsv _ _ addr _, _ => addr
     | _, 0 => none_
     | _, _ => 0)
  | _ => 0

/-- The state of a parked lane from the sixteen bytes of its condition (log entry 12). `old`: the state that the image was written
from, where the part has kept it. -/
def parkFrom (w0 w1 : Word) (old : LaneSt) : LaneSt :=
  let code := (w0.extractLsb' 0 8).toNat
  let y := (w0.extractLsb' 8 8).toNat
  let d := (dstOf (w0.extractLsb' 16 7)).getD (.g 0)
  let w := w0.getLsbD 23
  let x := (w0.extractLsb' 24 3).toNat
  let set : LaneSet := w0.extractLsb' 32 32
  match code with
  | 7 => .parked (.pop (BitVec.ofNat 3 y) d w set)
  | 9 => .parked (.rejoin (BitVec.ofNat 3 y))
  | 10 => .parked (.future (spaceFrom x) w1 d w set (Fin.ofNat 32 y) [])
  | 11 => .parked (.phaser ⟨x, y, (w1.extractLsb' 32 32).toNat⟩ (w1.extractLsb' 0 32) d w set)
  | 12 => .parked .bar
  | 13 => .parked (.rte (y != 0))
  | 14 => .parked (.mmode (y != 0))
  | 15 => .parked .service
  | 16 => .parked (.ctxsv (BitVec.ofNat 2 x) y w1 set)
  | _ => if code ≠ 0 ∧ parkCode old = code then old else .ready

/-- Words 0 to 15 of a lane's block (R340). -/
def laneImageWord (l : Lane) (i : Nat) : Word :=
  match i with
  | 0 => .cast (by rfl) (0#44 ++ BitVec.ofBool l.inS ++ BitVec.ofNat 2 (stateCode l.st) ++ l.pc)
  | 1 => parkWord l.st 0
  | 2 => parkWord l.st 1
  | 3 => l.p.setWidth 64
  | 4 => l.fpstat.setWidth 64
  | 5 => l.istat.setWidth 64
  | 6 => l.temask
  | 7 => l.tval
  | 8 => BitVec.ofNat 64 (l.lat.codes + 256 * l.shadow.codes)
  | 9 => BitVec.ofNat 64 (l.pos + 256 * l.shPos)
  | 10 => l.repcnt
  | _ => 0

/-- The sixteen bytes of a phaser registration (log entry 12). -/
def regImageWord (r : Option PhReg) (i : Nat) : Word :=
  match r with
  | none => 0
  | some r =>
    if i = 0 then .cast (by rfl) (1#1 ++ BitVec.ofBool r.counts ++ BitVec.ofBool r.inArr ++ BitVec.ofBool r.inArrn ++ 0#2 ++ r.mode ++ 0#12 ++ BitVec.ofNat 4 r.key.lvl ++
      BitVec.ofNat 8 r.key.inst ++ 0#16 ++ BitVec.ofNat 16 r.key.num)
    else r.a.setWidth 64

/-- A phaser registration from its sixteen bytes. -/
def regFrom (w0 w1 : Word) : Option PhReg :=
  if w0.getLsbD 63 then
    some { key := ⟨(w0.extractLsb' 40 4).toNat, (w0.extractLsb' 32 8).toNat, (w0.extractLsb' 0 16).toNat⟩,
           mode := w0.extractLsb' 56 2, a := w1.extractLsb' 0 32, counts := w0.getLsbD 62, inArr := w0.getLsbD 61,
           inArrn := w0.getLsbD 60 }
  else none

/-- The word of a queue entry (R240, R242): its result word; where none is present yet, bit 63 is 0, and DATA is a marker's value or the
number of the command (log entry 12). -/
def entryImageWord (e : QEntry) : Word :=
  match e.result with
  | some w => w
  | none =>
    resultWord e.cmd.isNone 0 false 0 e.seq (match e.cmd with | some n => BitVec.ofNat 32 n | none => e.value) &&&
      0x7FFFFFFFFFFFFFFF#64

/-- The acceptance number of an entry from its low eight bits and the number of the next (R240). -/
def entrySeq (next : BitVec 32) (low : BitVec 8) : BitVec 32 := next - ((next.extractLsb' 0 8) - low).setWidth 32

/-- A queue entry from its word; one whose word is present waits for no command. -/
def entryFrom (next : BitVec 32) (w : Word) : QEntry :=
  let mark := w.getLsbD 62
  { cmd := if mark || w.getLsbD 63 then none else some (w.extractLsb' 0 32).toNat, seq := entrySeq next (w.extractLsb' 32 8),
    value := if mark then w.extractLsb' 0 32 else 0, result := if w.getLsbD 63 then some w else none }

/-- A footprint region as FOOT takes it (R256). -/
def footImageWord (x : Option Foot) (i : Nat) : Word :=
  match x with
  | none => 0
  | some f => if i = 0 then f.base else .cast (by rfl) (f.sp ++ BitVec.ofBool f.wr ++ 0#12 ++ BitVec.ofNat 48 f.len)

/-- A footprint region from its two words. -/
def footFrom (w0 w1 : Word) : Foot :=
  { base := w0, sp := w1.extractLsb' 61 3, wr := w1.getLsbD 60, len := (w1.extractLsb' 0 48).toNat }

/-- A queue register from an image (R240, R250, R340). -/
def queueFrom (rd : Nat → Word) (k : Nat) : Queue :=
  let w := rd (64 + 2 * k)
  let next := (rd (65 + 2 * k)).extractLsb' 0 32
  let n := Nat.min 16 ((w.extractLsb' 0 8).toNat + (w.extractLsb' 8 8).toNat)
  { cls := w.extractLsb' 20 3, lvl := w.extractLsb' 24 4, nr := w.getLsbD 28, seq := next,
    entries := (List.range n).map fun i => entryFrom next (rd (192 + 16 * k + i)),
    foots := (List.range (Nat.min 4 (w.extractLsb' 16 3).toNat)).map fun i =>
      footFrom (rd (320 + 8 * k + 2 * i)) (rd (321 + 8 * k + 2 * i)) }

/-- The pending launches of an image (R279, R340): a record has at least one lane, so an empty place reads zero. -/
def launchesFrom (rd : Nat → Word) : List (List Word) :=
  ((List.range 4).map fun i => (List.range 16).map fun j => rd (128 + 16 * i + j)).filter fun ws => ws.headD 0 != 0

/-- Words of the first 4,096 bytes (R340). -/
def headImageWord (f : Flight) (i : Nat) : Word :=
  match i with
  | 0 => 0x2001
  | 1 => .cast (by rfl) (0#37 ++ BitVec.ofBool f.stopped ++ BitVec.ofNat 6 f.passed ++ BitVec.ofNat 2 f.eclass ++
      BitVec.ofNat 2 f.lclass ++ 0#2 ++ f.ctx ++ 0#2 ++ BitVec.ofNat 6 f.id.fnum)
  | 2 => modeWord f
  | 4 => f.dphase.setWidth 64
  | 5 => f.fpctl.setWidth 64
  | 6 => f.ictl.setWidth 64
  | 7 => f.tcause.setWidth 64
  | 8 => f.tmask.setWidth 64
  | 9 => f.tpc.setWidth 64
  | 10 => f.tinsn
  | 11 => f.merr
  | 12 => f.merrxy
  | 13 => f.rflat
  | 14 => f.mpasses.setWidth 64
  | 15 => .cast (by rfl) (0#32 ++ f.resv ++ 0#4 ++ BitVec.ofNat 4 f.depth ++ f.rootlvl ++ f.level)
  | 16 => f.teamidx
  | 17 => f.teamcnt
  | 18 => f.ginst.setWidth 64
  | i =>
    if 32 ≤ i ∧ i < 48 then
      let m := f.mask (BitVec.ofNat 3 ((i - 32) / 2))
      if i % 2 = 0 then m.enrolled.setWidth 64 else m.arrived.setWidth 64
    else if 48 ≤ i ∧ i < 64 then regImageWord (f.phregs[(i - 48) / 2]?) (i % 2)
    else if 64 ≤ i ∧ i < 80 then
      let q := f.queue (BitVec.ofNat 3 ((i - 64) / 2))
      if i % 2 = 0 then qcntWord q else q.seq.setWidth 64
    else if 128 ≤ i ∧ i < 192 then (f.launches.getD ((i - 128) / 16) []).getD (i % 16) 0
    else if 192 ≤ i ∧ i < 320 then
      ((f.queue (BitVec.ofNat 3 ((i - 192) / 16))).entries[i % 16]?.map entryImageWord).getD 0
    else if 320 ≤ i ∧ i < 384 then
      footImageWord ((f.queue (BitVec.ofNat 3 ((i - 320) / 8))).foots[i % 8 / 2]?) (i % 2)
    else 0

/-- Word i of the image of a flight (R340). -/
def imageWord (f : Flight) (i : Nat) : Word :=
  let lane (k : Nat) : Lane := f.lane (Fin.ofNat 32 k)
  if i < 0x200 then headImageWord f i
  else if i < 0x400 then laneImageWord (lane ((i - 0x200) / 16)) (i % 16)
  else if i < 0x800 then latchWord ((lane ((i - 0x400) / 32)).lat.entry (i % 32 / 8)) (i % 8)
  else if i < 0xC00 then latchWord ((lane ((i - 0x800) / 32)).shadow.entry (i % 32 / 8)) (i % 8)
  else if i < 0x1400 then (lane ((i - 0xC00) / 64)).getG (BitVec.ofNat 6 (i % 64))
  else ((lane ((i - 0x1400) / 256)).getV (BitVec.ofNat 5 (i % 256 / 8))).extractLsb' (64 * (i % 8)) 64

/-- Words of an image (R340). -/
def imageLen : Nat := 0x3400

/-- The image of a flight. -/
def imageWords (f : Flight) : List Word := (List.range imageLen).map (imageWord f)

/-- Latch entries from the words of a block. -/
def latchesFrom (codes : Nat) (rd : Nat → Word) (old : Latches) : Latches :=
  let e (k : Nat) : Option LatchVal := latchFrom (codes / 4 ^ k % 4) (fun i => rd (8 * k + i)) (old.entry k)
  ⟨e 0, e 1, e 2, e 3⟩

/-- A lane from its image (R340); what the image has no field for is that of `old`. -/
def laneFrom (rd : Nat → Word) (k : Nat) (old : Lane) : Lane :=
  let w (i : Nat) : Word := rd (0x200 + 16 * k + i)
  let codes := (w 8).toNat
  let st : LaneSt := match ((w 0).extractLsb' 17 2).toNat with
    | 0 => .ready
    | 1 => parkFrom (w 1) (w 2) old.st
    | _ => .exited
  let rep := w 10
  let l : Lane :=
    { old with pc := (w 0).extractLsb' 0 17, st := st, inS := (w 0).getLsbD 19, p := (w 3).extractLsb' 0 8 ||| 1,
               fpstat := (w 4).extractLsb' 0 5, istat := (w 5).extractLsb' 0 3, temask := w 6, tval := w 7,
               pos := (w 9).toNat % 256, shPos := (w 9).toNat / 256 % 256,
               lat := latchesFrom (codes % 256) (fun i => rd (0x400 + 32 * k + i)) old.lat,
               shadow := latchesFrom (codes / 256 % 256) (fun i => rd (0x800 + 32 * k + i)) old.shadow,
               g := tab fun i => if i.val = 0 then 0 else rd (0xC00 + 64 * k + i.val),
               v := tab fun i =>
                 let x (j : Nat) : Word := rd (0x1400 + 256 * k + 8 * i.val + j)
                 .cast (by rfl) (x 7 ++ x 6 ++ x 5 ++ x 4 ++ x 3 ++ x 2 ++ x 1 ++ x 0) }
  if rep = old.repcnt then l
  else { l with done := rep.extractLsb' 8 7, remain := rep.extractLsb' 0 7, repInt := rep.extractLsb' 0 7 != 0,
                repCont := false, repFin := false }

/-- A registration from an image: what the image was written with is newer in the record of it, where phases have ended since
(R313). -/
def PhReg.since (r : PhReg) (old : List PhReg) : PhReg :=
  match old.find? fun x => decide (x.key = r.key) with
  | some x => { r with counts := x.counts, inArr := x.inArr, inArrn := x.inArrn }
  | none => r

/-- A flight from its image (R340); what the image has no field for is that of `old`, and so are its number and its core. -/
def flightFrom (rd : Nat → Word) (old : Flight) : Flight :=
  let w1 := rd 1
  let m := rd 2
  let w15 := rd 15
  let f : Flight :=
    { old with stopped := w1.getLsbD 26, passed := (w1.extractLsb' 20 6).toNat, eclass := (w1.extractLsb' 18 2).toNat,
               lclass := (w1.extractLsb' 16 2).toNat, ctx := w1.extractLsb' 8 6,
               mm := m.getLsbD 0, priv := m.getLsbD 1, hnd := m.getLsbD 2, dphase := (rd 4).extractLsb' 0 6,
               fpctl := (rd 5).extractLsb' 0 8, ictl := (rd 6).extractLsb' 0 2, tcause := (rd 7).extractLsb' 0 10,
               tmask := (rd 8).extractLsb' 0 32, tpc := (rd 9).extractLsb' 0 17, tinsn := rd 10, merr := rd 11,
               merrxy := rd 12, rflat := rd 13, mpasses := (rd 14).extractLsb' 0 32,
               level := w15.extractLsb' 0 4, rootlvl := w15.extractLsb' 4 4, depth := (w15.extractLsb' 8 4).toNat,
               resv := w15.extractLsb' 16 16, teamidx := rd 16, teamcnt := rd 17, ginst := (rd 18).extractLsb' 0 32,
               rejoin := tab fun j => ⟨(rd (32 + 2 * j.val)).extractLsb' 0 32, (rd (33 + 2 * j.val)).extractLsb' 0 32⟩,
               phregs := (List.range 8).filterMap fun i => (regFrom (rd (48 + 2 * i)) (rd (49 + 2 * i))).map (·.since old.phregs),
               queues := tab fun k => queueFrom rd k.val, launches := launchesFrom rd }
  f.mapLanes fun k l => laneFrom rd k.val l

/-! The swap area (R134, R194). -/

/-- First address and end of the swap area of a die's mezzanine. -/
def swapBase : Nat := 0x8000000
def swapEnd : Nat := 0x9D40000

/-- Bytes of an image (R340). -/
def imageBytes : Nat := 8 * imageLen

/-- An image kept in a die's area overlaps the place at an address. -/
def areaUsed (s : State) (die addr : Nat) : Bool :=
  s.images.any fun i => decide (i.die = die) && decide (i.addr < addr + imageBytes) && decide (addr < i.addr + imageBytes)

/-- The lowest free place of a die's swap area, if there is one. -/
def areaFree (s : State) (die : Nat) : Option Nat :=
  ((List.range 288).map fun n => swapBase + imageBytes * n).find? fun a => !areaUsed s die a

/-- The room in a die's swap area, in images. -/
def areaRoom (s : State) (die : Nat) : Nat :=
  (((List.range 288).map fun n => swapBase + imageBytes * n).filter fun a => !areaUsed s die a).length

/-- The place of the newel's image of a swapped-out flight. -/
def areaOf (s : State) (f : FlightId) : Option ImageSide := s.images.find? fun i => decide (i.swapped = some f)

/-- The area without the newel's image of a flight. -/
def areaDrop (s : State) (f : FlightId) : State :=
  { s with images := s.images.filter fun i => decide (i.swapped ≠ some f) }

/-! Residency (R134 to R137). -/

/-- A flight is resident. -/
def Flight.resident (f : Flight) : Bool := f.slot.isSome

/-- A live flight that is swapped out; a flight whose every lane has exited holds no slot and no image (R127). -/
def Flight.swapped (f : Flight) : Bool := f.slot.isNone && f.alive != 0

/-- The live flights of a core. -/
def liveOn (s : State) (core : Nat) : List Flight := (allFlights s).filter fun f => decide (f.id.coreNo = core)

/-- The free engine slot of a core that a flight takes (R136): the lowest-numbered (DESIGN CHOICE: R136 takes any free slot; log
entry 35). -/
def freeSlot (s : State) (core : Nat) : Option Nat :=
  (List.range 8).find? fun k => (liveOn s core).all fun f => decide (f.slot ≠ some k)

/-- The FNUM of a new flight (R126, R134): the lowest unused (DESIGN CHOICE: R126 says only that it is unique; log entry 35). -/
def freeNum (s : State) (core : Nat) : Option Nat :=
  (List.range 64).find? fun n => (liveOn s core).all fun f => decide (f.id.fnum ≠ n)

/-- One more flight of a core can be swapped out (R134, R135): the core has fewer than 56, and its die's area has room. -/
def swapRoom (s : State) (core : Nat) : Bool :=
  (areaFree s (core / 48)).isSome && decide (((liveOn s core).filter Flight.swapped).length < 56)

/-- A resident flight that the newel may swap out, but for the room in the area (R135). -/
def evictable (s : State) (f : Flight) : Bool :=
  f.resident && f.alive != 0 && allParked f && f.run.isNone && f.halted.isNone && f.stall.isNone && f.pendTrap.isNone &&
    f.awaitImage.isNone && f.ending.isNone && gridOps s f == []

/-- Of two flights, the one to swap out first: the lower launch class, then the longer parked (R135). -/
def evictFirst (a b : Flight) : Flight :=
  if b.lclass < a.lclass ∨ (b.lclass = a.lclass ∧ b.since < a.since) then b else a

/-- The first by a choice between two. -/
def bestOf (better : Flight → Flight → Flight) : List Flight → Option Flight
  | [] => none
  | f :: rest => some (rest.foldl better f)

/-- The flight of a core that the newel would swap out (R135). -/
def victim (s : State) (core : Nat) : Option Flight :=
  if swapRoom s core then bestOf evictFirst ((liveOn s core).filter (evictable s)) else none

/-- The image of a flight written to a place of a die's swap area (R340): every line of it is written whole (R215). -/
def putImage (s : State) (die addr : Nat) (f : Flight) : State :=
  let s1 := writeWords s (mezzKey die addr) (imageWords f)
  let lo := lineOf (mezzKey die addr)
  { s1 with poison := s1.poison.filter fun l => !(decide (lo ≤ l) && decide (l < lo + imageBytes / 64)) }

/-- A line of an image in a swap area has an uncorrectable error (R333, R341). -/
def imageBad (s : State) (die addr : Nat) : Bool :=
  (List.range (imageBytes / 64)).any fun i => s.poison.contains (lineOf (mezzKey die addr) + i)

/-- A flight moved to its die's swap area where there is room: its image is written and its slot is free (R134, R340). A flight with
a READY lane is eligible for a slot from then on (R136). -/
def swapOut (s : State) (f : Flight) : State :=
  match areaFree s f.id.die with
  | none => s
  | some a =>
    if swapRoom s f.id.coreNo then
      let s1 := putImage s f.id.die a f
      let side : ImageSide := ⟨f.id.die, a, some f.id, false, f⟩
      let since := if allParked f then f.since else (ccountOf s f.id.die).toNat
      setFlight { s1 with images := s1.images ++ [side] } { f with slot := none, since := since }
    else s

/-- The newel itself stopped the flight in order to swap it out (R338). -/
def newelStopped (f : Flight) : Bool := f.stopped && f.stoppedBy == some .newel

/-- A flight that is eligible for swap-in (R136): swapped out with a READY lane. One that a core switch took off its core waits for a
resume (R338, R387). -/
def wantsSlot (f : Flight) : Bool := f.swapped && !f.switched && f.ending.isNone && !allParked f

/-- Of two flights, the one to swap in first: the higher launch class, then the longer eligible (R136). -/
def swapInFirst (a b : Flight) : Flight :=
  if a.lclass < b.lclass ∨ (b.lclass = a.lclass ∧ b.since < a.since) then b else a

/-- The flight of a core that the newel would swap in (R136). -/
def nextIn (s : State) (core : Nat) : Option Flight := bestOf swapInFirst ((liveOn s core).filter wantsSlot)

/-- A swapped-out flight as its image has it (R340): a word of the image that software has written since the swap-out takes the place
of the flight's own. Its identity, its context and MODE are no such word's to change (R12, R137). -/
def imaged (s : State) (f : Flight) : Flight :=
  match areaOf s f.id with
  | none => f
  | some i =>
    let word (n : Nat) : Word := readWord s (mezzKey i.die (i.addr + 8 * n))
    if (List.range imageLen).all fun n => word n == imageWord i.flight n then f
    else
      { flightFrom (fun n => if word n = imageWord i.flight n then imageWord f n else word n) f with
        ctx := f.ctx, mm := f.mm, priv := f.priv, hnd := f.hnd, stopped := f.stopped }

/-- A flight brought into a slot (R136, R137): its pass count is zero and its effective class its launch class; a stop of
the newel's own ends (R338). -/
def swapIn (s : State) (f : Flight) (slot : Nat) : State :=
  let own := newelStopped f
  let g := imaged s f
  setFlight (areaDrop s f.id) { g with slot := some slot, passed := 0, eclass := g.lclass, stopped := f.stopped && !own,
                                       stoppedBy := if own then none else f.stoppedBy }

/-- SWAP_OUT (R135): the newel swaps the flight out when a swapped-out flight of the core waits for a slot. -/
def execSwapOut (f : FlightId) (s : State) : Res :=
  if (freeSlot s f.coreNo).isSome || (nextIn s f.coreNo).isNone then .next s
  else
    match victim s f.coreNo with
    | none => .next s
    | some v => if v.id = f then .next (swapOut s v) else .next s

/-- SWAP_IN (R136). -/
def execSwapIn (f : FlightId) (slot : Nat) (s : State) : Res :=
  match nextIn s f.coreNo with
  | none => .next s
  | some x =>
    if x.id = f ∧ slot < 8 ∧ (liveOn s f.coreNo).all (fun y => decide (y.slot ≠ some slot)) then .next (swapIn s x slot)
    else .next s

/-- The newel's next swap on a core. -/
def nextSwap (s : State) (core : Nat) : Option Instr :=
  match nextIn s core with
  | none => none
  | some x =>
    match freeSlot s core with
    | some k => some (.swapIn x.id k)
    | none => (victim s core).map fun v => .swapOut v.id

end Sys2Proof.Machine
end

