-- ==== Sys2Proof/Machine/Launch.lean ====
section
/-! DEFINITION. LAUNCH, TSPLIT and CANCEL, and the newels' acceptance of records: R13, R276 to R281, R291 to R294, R382,
R383. -/

namespace Sys2Proof.Machine

/-! LAUNCH (R276 to R279). -/

/-- The checks of LAUNCH, in order (R277): the resolved team level. -/
def launchCheck (f : Flight) (o : OpsX) (ws : List Word) : Rd Nat :=
  match resolveLevel f o.lvl with
  | none => .error (lt5 .illegal (o.lvl.setWidth 64))
  | some m =>
    if f.level.toNat < m then .error (lt5 .illegal (BitVec.ofNat 64 m))
    else
      match recBad ws m true true with
      | i :: _ => .error (lt5 .illegal (groupNum o i))
      | [] =>
        if recJoin ws ≠ 0 ∧ (recJoin ws).extractLsb' 0 3 ≠ 0 then .error (lt5 .align (recJoin ws))
        else if f.depth = 10 then .error (lt5 .launchDepth 10)
        else .ok m

/-- A record completed by LAUNCH (R278). -/
def launchRecord (f : Flight) (ws : List Word) (m : Nat) : List Word :=
  recComplete ws m f.rootlvl (f.depth + 1) f.ginst f.resv

/-- The pending-launch queue holds four records (R278). -/
def launchFull (f : Flight) : Bool := decide (4 ≤ f.launches.length)

/-- The flight with a record at the tail of its pending-launch queue. -/
def Flight.pushLaunch (f : Flight) (ws : List Word) : Flight := { f with launches := f.launches ++ [ws] }

/-- LAUNCH (R276 to R278), a release of its issuing lane (R227). -/
def execLaunch (h : Hdr) (o : OpsX) (s : State) : Res :=
  .next (onceX s h o (groupSrcs o 16) fun t k l => do
    let ws ← readGroup l o 16
    let m ← launchCheck t.fl o ws
    let ws1 := launchRecord t.fl ws m
    let val (b : Bool) : OnceVal := if o.nb then .pred b else .none
    if launchFull t.fl ∧ o.nb = true then pure (.fin t (val false))
    else
      match waitRelease t 2 (oneLane k) false with
      | some s1 => pure (.stall (s1.fl.stall.getD .flightGrid))
      | none =>
        if launchFull t.fl then pure (.park t (.launch ws1 (active s h)))
        else pure (.fin { t with fl := t.fl.pushLaunch ws1 } (val true)))

/-! TSPLIT (R280). -/

/-- The dimension word of a child (R280). -/
def tsplit (q : Nat) (a b c : Word) : Word :=
  let e := (a.extractLsb' 32 32).toNat
  let o := (a.extractLsb' 0 32).toNat
  let i := (b.extractLsb' 0 32).toNat
  let n := (c.extractLsb' 0 32).toNat
  let u := (e + q - 1) / q
  let st := if n ≤ i then e else Nat.min (q * (i * u / n)) e
  let en := if n ≤ i then e else Nat.min (q * ((i + 1) * u / n)) e
  .cast (by rfl) (BitVec.ofNat 32 (en - st) ++ BitVec.ofNat 32 (o + st))

/-- TSPLIT (R280). -/
def execTsplit (h : Hdr) (o : OpsA) (s : State) : Res := .next (scalar3 s h o (tsplit (2 ^ o.cc.toNat)))

/-! CANCEL and its token (R292 to R294). -/

/-- CANCEL (R292): the token of an instance of the flight's context is sent. -/
def execCancel (h : Hdr) (o : OpsX) (s : State) : Res :=
  .next (onceX s h o (groupSrcs o 1) fun t _ l => do
    let g ← readGroup l o 1
    let v := g.getD 0 0
    if v.extractLsb' 32 32 ≠ 0 then .error (lt5 .illegal (groupNum o 0))
    let inst := if v = 0 then t.fl.ginst else v.extractLsb' 0 32
    pure (.fin { t with tokens := t.tokens ++ [(t.fl.ctx, inst)] } .none))

/-- Something of an instance is live: a flight, a record, a grid, a continuation or a command (R294). -/
def instLive (s : State) (ctx : BitVec 6) (inst : BitVec 32) : Bool :=
  (allFlights s).any (fun f => decide (f.ctx = ctx ∧ f.ginst = inst)) ||
    s.grids.any (fun g => decide (g.ctx = ctx ∧ recInst g.words = inst)) ||
    s.conts.any (fun c => decide (c.ctx = ctx ∧ c.ginst = inst)) ||
    s.cmds.any (fun c => decide (c.ctx = ctx ∧ c.ginst = inst)) ||
    s.images.any (fun i => i.freed && decide (i.flight.ctx = ctx ∧ i.flight.ginst = inst))

/-- Cancel marks of a context that are kept (R294). -/
def pruneMarks (s : State) (ctx : BitVec 6) : State :=
  let c := ctxOf s ctx
  setCtx s ctx { c with cancels := c.cancels.filter fun i => instLive s ctx i }

/-- Every placed member of a grid that has not retired fails with a cause. -/
def failMembers (s : State) (g : Grid) (c : Cause) : State :=
  g.members.foldl (fun s m => if m.retired then s else failMember s ⟨g.id, m.team, m.mem⟩ c) s

/-- Another package holds members of an instance, as this one knows: it runs members that were placed from here, or members of its
grids run here (R293). -/
def holdsInstance (s : State) (ctx : BitVec 6) (inst : BitVec 32) (p : BitVec 10) : Bool :=
  s.grids.any fun g => decide (g.ctx = ctx ∧ recInst g.words = inst) &&
    ((g.home.map (·.1)) == some p || g.members.any fun m => !m.retired && m.peer == some p)

/-- The packages that a token goes on to (R293): those of the group that hold members of the instance, but not the one that it came
from. -/
def tokenTargets (s : State) (ctx : BitVec 6) (inst : BitVec 32) (from_ : Option (BitVec 10)) : List (BitVec 10) :=
  (otherMembers s).filter fun p => holdsInstance s ctx inst p && from_ != some p

/-- A cancel token takes effect in this package, and goes on (R293): the instance is marked, and its placed members fail and stop. -/
def tokenArrives (s : State) (ctx : BitVec 6) (inst : BitVec 32) (from_ : Option (BitVec 10)) : State :=
  let s1 := { s with
    outbox := s.outbox ++ (tokenTargets s ctx inst from_).map fun p => .cancel p s.podgen ctx inst }
  if !(ctxOf s ctx).live || !instLive s ctx inst then s1
  else
    let c := ctxOf s1 ctx
    let s2 := setCtx s1 ctx { c with cancels := if c.cancels.contains inst then c.cancels else inst :: c.cancels }
    let s3 := (s2.grids.filter fun g => decide (g.ctx = ctx ∧ recInst g.words = inst)).foldl
      (fun s g => failMembers s g .cancelled) s2
    mapFlights s3 fun f =>
      if f.ctx = ctx ∧ f.ginst = inst ∧ f.ending.isNone then { f with ending := some .cancelled } else f

/-- CANCEL_TOKEN_ARRIVAL (R293): of a token that began here, or of one that a package of the current generation sent (R368). -/
def execCancelTokenArrival (ctx : BitVec 6) (inst : Token) (s : State) : Res :=
  match inst.src with
  | none => .next (tokenArrives { s with tokens := s.tokens.erase (ctx, inst.inst) } ctx inst.inst none)
  | some p => if p.gen ≠ s.podgen then .next (answerStale s p.pkg) else .next (tokenArrives s ctx inst.inst (some p.pkg))

/-! A leader that stops for good (R289, R293). -/

/-- The flight is to stop and stands at a run boundary, or is parked, stopped or swapped out. -/
def canEnd (f : Flight) : Bool := f.ending.isSome && f.alive != 0 && (f.run.isNone || f.stall.isSome)

/-- The flight with every lane EXITED, without the effects of EXIT. -/
def Flight.ended (f : Flight) : Flight :=
  { f.mapLanes (fun _ l => { l with st := .exited, inS := false, fail := none }) with
    run := none, halted := none, stall := none, pendTrap := none, service := false, hnd := false, stopped := false,
    preempt := none, stoppedBy := none, switched := false, awaitImage := none, ending := none, slot := none }

/-- A leader stopped for good: it leaves its slot, and answers to its loads find no lane; a cancelled flight's registrations are dropped (R309). -/
def endFlight (s : State) (f : FlightId) : State :=
  match flightOf s f with
  | none => s
  | some x =>
    let s0 := { s with outstanding := s.outstanding.filter fun o =>
      match o.owner with | .lane g _ _ => decide (g ≠ f) | _ => true }
    let s1 := dropGridOps (areaDrop s0 f) f
    let s2 := if x.ending = some .cancelled then dropRegs s1 f else s1
    freePhasers (updFlight s2 f Flight.ended)

/-! Acceptance (R281, R382, R383). -/

/-- Fields of a slot header (R382). -/
def hdrCtx (h : Word) : BitVec 6 := h.extractLsb' 58 6
def hdrLvl (h : Word) : Nat := (h.extractLsb' 54 4).toNat
def hdrUnit (h : Word) : Nat := (h.extractLsb' 46 8).toNat
def hdrSeq (h : Word) : BitVec 32 := h.extractLsb' 0 32

/-- A unit exists in the package, on a present die (R382, R383). -/
def unitOk (s : State) (u : HwUnit) : Bool :=
  match u.lvl with
  | 1 => decide (u.num < 192) && (dieOf s (u.num / 48)).present
  | 2 => decide (u.num < 24) && (dieOf s (u.num / 6)).present
  | 3 => decide (u.num < 4) && (dieOf s u.num).present
  | 4 | 5 => u.num == 0
  | _ => false

/-- The header of a slot is as required (R382, R383); a team level above 5 is for the record's own check. -/
def hdrOk (s : State) (h : Word) (ws : List Word) : Bool :=
  (ctxOf s (hdrCtx h)).live &&
    (decide (5 < recLvl ws) ||
      (decide (hdrLvl h = if recLvl ws = 5 then 5 else recLvl ws + 1) && unitOk s ⟨hdrLvl h, hdrUnit h⟩))

/-- The next instance number of a context (R291). -/
def nextInst (c : BitVec 32) : BitVec 32 := if c + 1 = 0 then 1 else c + 1

/-- An event of a slot that is skipped (R383, R388). -/
def slotRejected (s : State) (pos : BitVec 32) (h : Word) : State :=
  hubEvent s evSlotRejected Cause.illegal.code (hdrCtx h) (pos.setWidth 64) h

/-- A record of the host or of firmware taken by the package newel (R13, R281, R383). `pos`: its ring position. A record of firmware
that is skipped is reported as the host's is, with position 0: DESIGN CHOICE, R13 does not say where its rejection goes (log entry 23).
Unsafe. -/
def acceptHost (s : State) (ws : List Word) (h : Word) (firmware : Bool) (pos : BitVec 32) : State :=
  let ctx := hdrCtx h
  if !hdrOk s h ws then slotRejected s pos h
  else if recBad ws (recLvl ws) false false ≠ [] ∨ (recJoin ws).extractLsb' 0 3 ≠ 0 then
    if recJoin ws = 0 then slotRejected s pos h
    else pushDue s ctx 0 (recJoin ws) (some Cause.illegal.code) 0
  else
    let s0 := pruneMarks s ctx
    let c := ctxOf s0 ctx
    let inst := nextInst c.inst
    let s1 := setCtx s0 ctx { c with inst := inst }
    acceptGrid s1 (recComplete ws (recLvl ws) (BitVec.ofNat 4 (recLvl ws)) 0 inst (recResv ws)) ctx
      ⟨hdrLvl h, hdrUnit h⟩ none [] firmware

/-- Address of the control line of the package launch queue (R382). -/
def lqLine (s : State) : Nat := (s.host.lqctl.extractLsb' 0 48).toNat

/-- Address of the slot that the newel reads next (R382). -/
def lqSlot (s : State) : Nat := ringAddr s.host.lqbase + 256 * (s.lqPos.toNat % ringSize s.host.lqbase)

/-- The package launch queue has a slot to accept, by the newel's copy of TAIL (R382). -/
def lqReady (s : State) : Bool :=
  match s.lqTail with
  | some t => t.extractLsb' 0 32 != s.lqPos
  | none => false

/-- The slot at HEAD accepted or skipped, and HEAD advanced (R382). -/
def acceptSlot (s : State) : State :=
  let ws := readWords s (mainKey (lqSlot s)) 16
  let h := readWord s (mainKey (lqSlot s + 128))
  let pos := s.lqPos
  let s1 := if hdrSeq h ≠ pos then slotRejected s pos h else acceptHost s ws h false pos
  writeWord { s1 with lqPos := pos + 1 } (mainKey (lqLine s + 8)) ((pos + 1).setWidth 64)

/-- The oldest record of a flight's pending-launch queue accepted (R279, R281). -/
def acceptPending (s : State) (f : FlightId) : State :=
  match flightOf s f with
  | none => s
  | some x =>
    match x.launches with
    | [] => s
    | ws :: rest =>
      acceptGrid (setFlight s { x with launches := rest }) ws x.ctx (launchDomain x (recLvl ws)) x.member
        (lineOfMember s x.member) false

/-- A package tells another that a member of its grid has retired (R287, R289). -/
def tellRetired (s : State) (p : BitVec 10) (grid team mem : Nat) (c : Option (BitVec 8)) : State :=
  { s with outbox := s.outbox ++ [.retired p s.podgen grid team mem c] }

/-- A member of another package's grid taken in (R271, R285, R368): the grid has a part here, whose members this package's newel
places. A member of a context that is not live here has ended. -/
def acceptPeer (s : State) (m : PeerMember) (ctx : BitVec 6) (ws : List Word) : State :=
  if m.gen ≠ s.podgen then answerStale s m.pkg
  else if !(ctxOf s ctx).live then tellRetired s m.pkg m.grid m.team m.mem (some Cause.contextEnded.code)
  else if cancelled s ctx (recInst ws) then tellRetired s m.pkg m.grid m.team m.mem (some Cause.cancelled.code)
  else
    let i := memIndex ws m.team m.mem
    match s.grids.find? fun g => decide (g.home = some (m.pkg, m.grid)) with
    | some g => updGrid s g.id fun x => { x with redo := x.redo ++ [i] }
    | none =>
      let g : Grid :=
        { id := s.uid, words := ws, ctx := ctx, domain := ⟨if recLvl ws = 5 then 5 else 4, 0⟩, parent := none, firmware := false,
          pri := recPri ws, passed := 0, next := recTeams ws * recMemb ws, redo := [i], members := [],
          childFail := [], cause := none, hallDone := [], galDone := [], stopped := false, line := [],
          home := some (m.pkg, m.grid), loadFail := none }
      { s with uid := s.uid + 1, grids := s.grids ++ [g] }

/-- RECORD_ACCEPT (R281): a newel takes the next record of a source. -/
def execRecordAccept (src : RecSource) (s : State) : Res :=
  match src with
  | .flight f => .next (acceptPending s f)
  | .host => if lqReady s then .next (acceptSlot s) else .next s
  | .firmware ws h => .next (acceptHost s ws h true 0)
  | .peer m ctx ws => .next (acceptPeer s m ctx ws)

/-- LAUNCH_QUEUE_WAKE (R382): the newel reads TAIL again. -/
def execLaunchQueueWake (s : State) : Res :=
  .next { s with lqTail := some (readWord s (mainKey (lqLine s))) }

/-- The next record that a newel can take. -/
def nextRecord (s : State) : Option Instr :=
  if lqReady s then some (.recordAccept .host)
  else ((allFlights s).find? fun f => f.launches != []).map fun f => .recordAccept (.flight f.id)

end Sys2Proof.Machine
end

