-- ==== Sys2Proof/Machine/Place.lean ====
section
/-! DEFINITION. Placement of members, the loading of images, and retirement: R8, R13, R271, R275, R282 to R289, R294. -/

namespace Sys2Proof.Machine

/-! Free units (R271, R282, R285). -/

/-- The units of level CORE and above that members hold (R271): those that have not retired, each with its member. -/
def heldUnits (s : State) : List (MemberRef × HwUnit) :=
  s.grids.flatMap fun g =>
    (g.members.filter fun m => !m.retired && decide (1 ≤ recLvl g.words ∧ m.unit.lvl = recLvl g.words)).map fun m =>
      (⟨g.id, m.team, m.mem⟩, m.unit)

/-- A unit is closed to a grid (R271): it lies in a unit that a member holds which the grid was not launched inside of. `whole`: the
unit itself is to be held, and it contains a held one, or is one. -/
def unitClosed (s : State) (line : List MemberRef) (u : HwUnit) (whole : Bool) : Bool :=
  (heldUnits s).any fun h => (HwUnit.holds h.2 u && !line.contains h.1) || (whole && HwUnit.holds u h.2)

/-- Free flight slots of a unit (R285): live flights of a core count to 64 (R134). What another package has free is a free value (log
entry 10). -/
def freeSlots (s : State) (u : HwUnit) : Nat :=
  if u.lvl = 4 ∧ u.num ≠ 0 then Config.peerSlots (u.num - 1) s.fresh
  else ((unitsIn s u 1).map fun c => 64 - (liveOn s c.num).length).sum

/-- The packages that the pod's newel places members in, in ascending package number (R271, R367): a member that another package has
placed here, and a firmware grid (log entry 10), stay in this one. -/
def podPackages (s : State) (g : Grid) : List HwUnit :=
  if g.home.isSome || g.firmware then [⟨4, 0⟩]
  else ((groupMembers s).filter fun p => p == s.host.pkgnum.toNat || !(groupEntry s p).getLsbD 62).map fun p =>
    ⟨4, if p = s.host.pkgnum.toNat then 0 else p + 1⟩

/-- The child units of a unit (R271, R285). -/
def childUnits (s : State) (g : Grid) (u : HwUnit) : List HwUnit :=
  if u.lvl = 5 then podPackages s g else unitsIn s u (u.lvl - 1)

/-- Another package of the group: its own newels place the member further (R285). -/
def HwUnit.isPeer (u : HwUnit) : Bool := decide (u.lvl = 4) && decide (u.num ≠ 0)

/-- The reservation lets a unit take members of a grid (R282). `member`: the unit itself is to be the member. -/
def resvAllows (s : State) (g : Grid) (u : HwUnit) (member : Bool) : Bool :=
  g.firmware || decide (3 < u.lvl) ||
    (if member then resvOf s u == recResv g.words
     else ([3, 2, 1].filter fun l => decide (l ≤ u.lvl)).any fun l =>
       (unitsIn s u l).any fun x => resvOf s x == recResv g.words)

/-- The team's units lie in one instance of the next level (R271): the instance that a member of the team already has. -/
def teamHome (g : Grid) (team : Nat) : Option HwUnit :=
  (g.members.find? fun m => decide (m.team = team)).map fun m => HwUnit.up m.unit (recLvl g.words + 1)

/-- A unit is free for a member of a grid (R271, R282, R285). -/
def unitFree (s : State) (g : Grid) (team : Nat) (u : HwUnit) : Bool :=
  let m := recLvl g.words
  let member := decide (u.lvl = Nat.max m 1)
  !unitClosed s g.line u (decide (u.lvl = m)) && resvAllows s g u member && decide (0 < freeSlots s u) &&
    (match teamHome g team with
     | some x => HwUnit.holds u x || HwUnit.holds x u
     | none => true)

/-- A unit can hold a member of a grid (R285): of each level below it down to the member's, a unit is free. `fuel` is the number of
levels. -/
def canHold (s : State) (g : Grid) (team : Nat) : Nat → HwUnit → Bool
  | 0, _ => true
  | n + 1, u => decide (u.lvl ≤ Nat.max (recLvl g.words) 1) || u.isPeer ||
      (childUnits s g u).any fun x => unitFree s g team x && canHold s g team n x

/-- The unit with the most free flight slots, the lowest-numbered on a tie (R285). -/
def mostFree (s : State) : List HwUnit → Option HwUnit
  | [] => none
  | u :: rest => some (rest.foldl (fun a b => if freeSlots s a < freeSlots s b then b else a) u)

/-- The descent of PlaceMember (R285) to a unit of the team level, or to another package; `fuel` is the number of levels. -/
def descend (s : State) (g : Grid) (team : Nat) : Nat → HwUnit → Option HwUnit
  | 0, u => some u
  | n + 1, u =>
    if u.lvl ≤ Nat.max (recLvl g.words) 1 ∨ u.isPeer then some u
    else
      match mostFree s ((childUnits s g u).filter fun x => unitFree s g team x && canHold s g team n x) with
      | none => none
      | some x => descend s g team n x

/-- Where a member's leader runs: on a core, or in another package. -/
inductive Seat where
  | core (n : Nat)
  | peer (p : BitVec 10)
deriving DecidableEq, Repr

/-- The core of a unit of this package that takes a leader (R285): at each level the child with the most free flight slots. -/
def leaderCore (s : State) : Nat → HwUnit → Option Nat
  | 0, u => some u.num
  | n + 1, u =>
    if u.lvl ≤ 1 then some u.num
    else
      match mostFree s ((unitsIn s u (u.lvl - 1)).filter fun x => decide (0 < freeSlots s x)) with
      | none => none
      | some x => leaderCore s n x

/-- The leader's seat in a unit (R271, R285): the leader of the pod descends first through the packages of the group table. -/
def leaderSeat (s : State) (g : Grid) (u : HwUnit) : Option Seat :=
  let v := if u.lvl = 5 then mostFree s ((podPackages s g).filter fun x => decide (0 < freeSlots s x)) else some u
  match v with
  | none => none
  | some x => if x.isPeer then some (.peer (BitVec.ofNat 10 (x.num - 1))) else (leaderCore s 5 x).map .core

/-- The unit for a member, and its leader's seat (R285). A flight is placed on a core of its domain. -/
def chooseUnit (s : State) (g : Grid) (team : Nat) : Option (HwUnit × Seat) :=
  let m := recLvl g.words
  if m = 0 ∧ g.domain.lvl = 1 then
    if unitFree s g team g.domain then some (⟨0, g.domain.num⟩, .core g.domain.num) else none
  else if m = g.domain.lvl then
    if unitClosed s g.line g.domain true then none else (leaderSeat s g g.domain).map fun x => (g.domain, x)
  else
    match descend s g team 5 g.domain with
    | none => none
    | some u => (leaderSeat s g u).map fun x => (if m = 0 ∧ u.isPeer = false then ⟨0, u.num⟩ else u, x)

/-! Leaders (R8, R127, R286). -/

/-- The lanes of a new leader (R8, R127, R274). -/
def leaderLane (ws : List Word) (k : LaneId) : Lane :=
  if k.val < recLanes ws then
    { Lane.blank with st := .ready, pc := recEntry ws,
                      g := tab fun i => if 1 ≤ i.val ∧ i.val ≤ 6 then recWord ws (5 + i.val) else 0 }
  else Lane.blank

/-- A new leader (R8, R13, R126, R273). -/
def leaderFlight (s : State) (g : Grid) (team mem core num : Nat) (slot : Option Nat) : Flight :=
  let ws := g.words
  { Flight.blank with
    id := ⟨core / 48, core % 48, num⟩, live := true, slot := slot, ctx := g.ctx, level := BitVec.ofNat 4 (recLvl ws),
    rootlvl := recRoot ws,
    teamidx := .cast (by rfl) (0#16 ++ BitVec.ofNat 16 team ++ 0#16 ++ BitVec.ofNat 16 mem),
    teamcnt := .cast (by rfl) (0#15 ++ BitVec.ofNat 17 (recTeams ws) ++ 0#15 ++ BitVec.ofNat 17 (recMemb ws)),
    ginst := recInst ws, depth := recDepth ws, resv := recResv ws, lclass := recPri ws, eclass := recPri ws,
    priv := g.firmware, tvec := (ctxOf s g.ctx).tvec, lanes := tab (leaderLane ws), member := some ⟨g.id, team, mem⟩,
    awaitImage := some [], since := (ccountOf s (core / 48)).toNat }

/-- A leader placed on a core (R286): in a free slot, in the slot of a flight that is swapped out for it, or swapped out
itself; `none` where it cannot be live. -/
def placeLeader (s : State) (g : Grid) (team mem core : Nat) : Option (State × FlightId) :=
  match freeNum s core with
  | none => none
  | some num =>
    let id : FlightId := ⟨core / 48, core % 48, num⟩
    match freeSlot s core with
    | some k => some (addFlight s (leaderFlight s g team mem core num (some k)), id)
    | none =>
      match victim s core with
      | some v => some (addFlight (swapOut s v) (leaderFlight s g team mem core num v.slot), id)
      | none =>
        if swapRoom s core then
          let f := leaderFlight s g team mem core num none
          some (swapOut (addFlight s f) f, id)
        else none

/-- A member put into its grid's list. -/
def addMember (s : State) (gid : Nat) (x : Member) : State :=
  updGrid s gid fun g =>
    { g with members := (g.members.filter fun y => !decide (y.team = x.team ∧ y.mem = x.mem)) ++ [x] }

/-- One member placed (R285): `none` where no unit is free. A member that goes to another package is sent to its newel with the
record. -/
def placeOne (s : State) (gid i : Nat) : Option State :=
  match gridById s gid with
  | none => none
  | some g =>
    let team := i / recMemb g.words
    let mem := i % recMemb g.words
    match chooseUnit s g team with
    | none => none
    | some (u, .peer p) =>
      let s1 := addMember s gid ⟨team, mem, u, none, some p, false, none⟩
      some { s1 with fresh := s1.fresh + 1, outbox := s1.outbox ++ [.place p s.podgen g.ctx gid team mem g.words] }
    | some (u, .core core) =>
      (placeLeader s g team mem core).map fun r => addMember r.1 gid ⟨team, mem, u, some r.2, none, false, none⟩

/-- The members that a grid has still to place, in ascending order (R284, R351). -/
def unplaced (g : Grid) : List Nat :=
  g.redo ++ (List.range (recTeams g.words * recMemb g.words)).filter fun i => decide (g.next ≤ i)

/-- The next member of a grid, or every member of a gang, placed (R284). -/
def placeNext (s : State) (gid : Nat) : Option State :=
  match gridById s gid with
  | none => none
  | some g =>
    match unplaced g with
    | [] => none
    | i :: rest =>
      if recGang g.words ∧ g.redo = [] then
        ((i :: rest).foldl (fun acc j => acc.bind fun t => placeOne t gid j) (some s)).map fun t =>
          updGrid t gid fun g => { g with next := recTeams g.words * recMemb g.words }
      else
        (placeOne s gid i).map fun t =>
          updGrid t gid fun g => if g.redo = [] then { g with next := i + 1 } else { g with redo := g.redo.tail }

/-! The end of a grid (R287 to R289, R294). -/

/-- The failure of a member, by its place (R289): its own cause before a child's. -/
def memberCause (g : Grid) (i : Nat) : Option Cause :=
  match (g.members.find? fun m => decide (memIndex g.words m.team m.mem = i)).bind (·.cause) with
  | some c => some c
  | none => g.childFail.lookup i

/-- The failure of a grid (R289): the cause of its failing member with the lowest (TEAM, MEMBER). -/
def gridCause (s : State) (g : Grid) : Option Cause :=
  if g.cause.isSome then g.cause
  else if cancelled s g.ctx (recInst g.words) then some .cancelled
  else (List.range (recTeams g.words * recMemb g.words)).findSome? (memberCause g)

/-- A grid whose every member has been placed and has retired, retires: its join future, its parent, its marks (R13, R287 to
R289, R294). Of a grid of another package the members have been reported one by one. -/
def settleGrid (s : State) (gid : Nat) : State :=
  match gridById s gid with
  | none => s
  | some g =>
    if unplaced g ≠ [] ∨ g.members.any (fun m => !m.retired) = true then s
    else
      let c := gridCause s g
      let s0 := { s with grids := s.grids.filter fun x => decide (x.id ≠ gid) }
      let s1 := if g.home.isSome then s0 else joinDue s0 g.words g.ctx g.firmware (c.map Cause.code)
      let s2 := match c, g.parent with
        | some e, some r => if recNb g.words then s1 else failChild s1 r e
        | _, _ => s1
      pruneMarks s2 g.ctx

/-- A grid whose instance is cancelled, or that a die loss has stopped, places nothing more (R293, R351). -/
def dropUnplaced (s : State) (gid : Nat) : State :=
  settleGrid (updGrid s gid fun g => { g with next := recTeams g.words * recMemb g.words, redo := [] }) gid

/-- A grid that places nothing more (R293, R351). -/
def Grid.dropped (s : State) (g : Grid) : Bool := cancelled s g.ctx (recInst g.words) || g.stopped

/-- The newel of a domain (R283): the package newel has the domains of the package and of the pod. -/
def newelOf (u : HwUnit) : HwUnit := if 4 ≤ u.lvl then ⟨4, 0⟩ else u

/-- The grids of one newel that are not fully placed, the highest class first, each class in acceptance order (R283). -/
def waitingGrids (s : State) (newel : HwUnit) : List Grid :=
  let w := s.grids.filter fun g => decide (newelOf g.domain = newel) && unplaced g != [] && !g.dropped s
  [3, 2, 1, 0].flatMap fun p => w.filter fun g => decide (g.pri = p)

/-- The grids of a newel's highest non-empty class (R283). -/
def topGrids (s : State) (newel : HwUnit) : List Grid :=
  match waitingGrids s newel with
  | [] => []
  | g :: rest => g :: rest.filter fun x => decide (x.pri = g.pri)

/-- The placeable grids that a placement of a higher class passes over (R283): at the 64th, a grid moves to the tail of the
next class. -/
def passGrids (s : State) (passed_ : List Grid) : State :=
  passed_.foldl (fun s g =>
    if g.passed + 1 < 64 then updGrid s g.id fun x => { x with passed := x.passed + 1 }
    else { s with grids := (s.grids.filter fun x => decide (x.id ≠ g.id)) ++
             ((gridById s g.id).map fun x => { x with passed := 0, pri := Nat.min (x.pri + 1) 3 }).toList }) s

/-- A grid that its newel can place next (R283). -/
def placeable (s : State) (g : Grid) : Bool := (placeNext s g.id).isSome

/-- The grid that a newel places next (R283): the first of its highest non-empty class that it can place. -/
def placeTurn (s : State) (newel : HwUnit) : Option Grid := (topGrids s newel).find? (placeable s)

/-- MEMBER_PLACE (R283 to R285): the grid's next member, or a whole gang, is placed when it is this grid's turn. -/
def execMemberPlace (grid : Nat) (s : State) : Res :=
  match gridById s grid with
  | none => .next s
  | some g =>
    if g.dropped s then .next (dropUnplaced s grid)
    else
      match placeTurn s (newelOf g.domain) with
      | none => .next s
      | some x =>
        if x.id ≠ grid then .next s
        else
          let low := (waitingGrids s (newelOf g.domain)).filter fun y => decide (y.pri < g.pri) && placeable s y
          match placeNext s grid with
          | none => .next s
          | some s1 => .next (passGrids s1 low)

/-- The next grid with a member to place or to drop. -/
def nextPlace (s : State) : Option Instr :=
  (s.grids.find? fun g => unplaced g != [] && (g.dropped s ||
    (placeTurn s (newelOf g.domain)).map (·.id) == some g.id)).map fun g => .memberPlace g.id

/-! Images (R275). -/

/-- The kernel image of a flight's grid as a fill source. -/
def imageSrc (g : Grid) (off : Nat) : FillSrc :=
  { ctx := g.ctx, buf := recBuf g.words, off := 4096 * (recImgOff g.words).toNat + off, image := some (recImgOff g.words) }

/-- The header of a kernel image (R275). -/
structure ImageHead where
  seg : BitVec 32
  hlen : Nat
  hbase : Nat
  glen : Nat
  gbase : Nat

/-- A header from its first three words. -/
def ImageHead.ofBytes (bs : List Byte) : ImageHead :=
  let w (i : Nat) : Word := BitVec.ofNat 64 (bytesToNat ((bs.drop (8 * i)).take 8))
  { seg := (w 0).extractLsb' 0 32, hlen := ((w 1).extractLsb' 0 19).toNat, hbase := ((w 1).extractLsb' 32 19).toNat,
    glen := ((w 2).extractLsb' 0 23).toNat, gbase := ((w 2).extractLsb' 32 23).toNat }

/-- The segments of an image below a slot: the place of the slot's segment. -/
def segRank (m : BitVec 32) (slot : Nat) : Nat := ((List.range slot).filter fun i => m.getLsbD i).length

/-- The checks of an image before anything is loaded (R275). -/
def imageCheck (ws : List Word) (x : ImageHead) : Option Cause :=
  if x.seg.getLsbD ((recEntry ws).toNat / 4096) = false then some .illegal
  else if recImg ws = true ∧ (0x60000 < x.hbase + x.hlen ∨ 0x600000 < x.gbase + x.glen) then some .bounds
  else none

/-- A slot is PRESENT from the grid's image (R275). -/
def slotFrom (s : State) (core slot : Nat) (src : FillSrc) : Bool :=
  let c := coreOf s core
  let i := Fin.ofNat 32 slot
  decide (c.slots.get i = .present) &&
    (match c.src.get i with | some y => decide (y.ctx = src.ctx ∧ y.buf = src.buf ∧ y.image = src.image) | none => false)

/-- The segments that a leader's core has to load (R275): slot and place in the image. -/
def imageSegs (s : State) (core : Nat) (g : Grid) (x : ImageHead) : List (Nat × Nat) :=
  let want (i : Nat) : Bool := if recImg g.words then x.seg.getLsbD i else decide (i = (recEntry g.words).toNat / 4096)
  ((List.range 32).filter fun i => want i && !slotFrom s core i (imageSrc g 0)).map fun i =>
    (i, 64 + 4096 * segRank x.seg i)

/-- The data of an image for a core and its cluster, where it has still to be written (R275): place in the image, flat
address, and length. -/
def imageData (g : Grid) (core : Nat) (x : ImageHead) : List (Nat × Nat × Nat) :=
  let cluster := core / 48 * 6 + core % 48 / 8
  let hoff := 64 + 4096 * segRank x.seg 32
  let goff := hoff + (x.hlen + 63) / 64 * 64
  if recImg g.words = false then []
  else
    (if g.hallDone.contains core then [] else [(hoff, hallKey core x.hbase, x.hlen)]) ++
      (if g.galDone.contains cluster then [] else [(goff, galleryKey cluster x.gbase, x.glen)])

/-- The failed translations of all the lines that a load reads. -/
def imageFaults (s : State) (g : Grid) (rs : List (Nat × Nat)) : List (Nat × BitVec 48 × Word) :=
  rs.flatMap fun r =>
    match mainBytes s g.ctx (imageHandle (imageSrc g r.1)) r.2 with
    | .fault recs => recs
    | _ => []

/-- One segment loaded (R275, R86); a failure leaves the slot ABSENT. `s0` is the state whose main memory is read. -/
def loadSegment (s0 s : State) (core : Nat) (g : Grid) (slot off : Nat) (f : FlightId) : State × Option Cause :=
  let x : Fetch := { slot := slot, src := imageSrc g off, fut := 0, flight := f, lane := 0, waits := [], reload := false,
                     ginst := recInst g.words }
  let s1 := acceptFetch s core x
  match mainBytes s0 g.ctx (imageHandle x.src) 4096 with
  | .ok bs => (endFetch (writeBytes s1 (storeKey core (4096 * slot)) bs) core x none, none)
  | .fail c => (endFetch s1 core x (some c), some c)
  | .fault _ => (endFetch s1 core x (some .pageFault), some .pageFault)

/-- Image data written as writes of the grid's context; a line of another context is not written (R195, R275). -/
def loadData (s0 s : State) (g : Grid) (off key len : Nat) : State × Option Cause :=
  match mainBytes s0 g.ctx (imageHandle (imageSrc g off)) len with
  | .ok bs =>
    (blockRanges (len / 64 + 2) key len).foldl (fun acc r =>
      match (lineSt acc.1 (lineOf r.1)).owner with
      | some c => if c ≠ g.ctx then (acc.1, some .owner)
          else (writeChip acc.1 false g.ctx r.1 ((bs.drop (r.1 - key)).take r.2), acc.2)
      | none => (writeChip acc.1 false g.ctx r.1 ((bs.drop (r.1 - key)).take r.2), acc.2)) (s, none)
  | .fail c => (s, some c)
  | .fault _ => (s, some .pageFault)

/-- Everything that a leader's image needs, loaded in order until a part fails (R275). -/
def loadImage (s0 s : State) (g : Grid) (f : FlightId) (x : ImageHead) : State × Option Cause :=
  let core := f.coreNo
  let r1 := (imageSegs s core g x).foldl (fun acc p =>
    match acc.2 with
    | some _ => acc
    | none => loadSegment s0 acc.1 core g p.1 p.2 f) (s, none)
  let r2 := (imageData g core x).foldl (fun acc p =>
    match acc.2 with
    | some _ => acc
    | none => loadData s0 acc.1 g p.1 p.2.1 p.2.2) r1
  match r2.2 with
  | some _ => r2
  | none => if recImg g.words then
      (updGrid r2.1 g.id fun g => { g with hallDone := core :: g.hallDone, galDone := f.clusterNo :: g.galDone }, none)
    else r2

/-- The load of a leader's image waits for translations (R207, R209, R275). -/
def waitImage (s : State) (g : Grid) (f : FlightId) (recs : List (Nat × BitVec 48 × Word)) : State :=
  let x : Fetch := { slot := 0, src := imageSrc g 0, fut := 0, flight := f, lane := 0, waits := [], reload := false,
                     ginst := recInst g.words }
  updFlight (fetchFaults s x recs) f fun y => { y with awaitImage := some (waitsOf (recs.map fun r => r.2.1)) }

/-- A leader whose image will not be loaded: its member fails (R275, R289). -/
def leaderFailed (s : State) (r : MemberRef) (f : FlightId) (c : Cause) : State :=
  updFlight (failMember s r c) f fun y => { y with awaitImage := none }

/-- The load of a grid's image has failed: the grid's members fail with the cause, those that are placed at once (R275, R289). -/
def imageFailed (s : State) (r : MemberRef) (c : Cause) : State :=
  let s1 := updGrid s r.grid fun g => { g with loadFail := some (g.loadFail.getD c) }
  ((gridById s1 r.grid).map (·.members)).getD [] |>.foldl (fun s m =>
    match m.retired, m.leader with
    | false, some f => leaderFailed s ⟨r.grid, m.team, m.mem⟩ f c
    | _, _ => s) s1

/-- IMAGE_LOAD (R275). -/
def execImageLoad (f : FlightId) (s : State) : Res :=
  match flightOf s f with
  | none => .next s
  | some y =>
    match y.awaitImage, y.member with
    | some ws, some r =>
      match gridById s r.grid with
      | none => .next s
      | some g =>
        if g.loadFail.isSome then .next (leaderFailed s r f (g.loadFail.getD .illegal))
        else if ws.any (fun w => w.answer.isNone) then .next s
        else if ws.any (fun w => w.answer == some false) then .next (imageFailed s r .pageFault)
        else
          let h := imageHandle (imageSrc g 0)
          let s1 := noteRanges s f.die g.ctx [⟨.rd, false, h, 0, 64⟩]
          match mainBytes s g.ctx h 64 with
          | .fail c => .next (imageFailed s1 r c)
          | .fault recs => .next (waitImage s1 g f recs)
          | .ok bs =>
            let x := ImageHead.ofBytes bs
            match imageCheck g.words x with
            | some c => .next (imageFailed s1 r c)
            | none =>
              let reads := (imageSegs s f.coreNo g x).map (fun p => (p.2, 4096)) ++
                (imageData g f.coreNo x).map fun p => (p.1, p.2.2)
              match imageFaults s g reads with
              | [] =>
                let z := loadImage s (noteRanges s f.die g.ctx (⟨.rd, false, h, 0, 64⟩ :: reads.map fun p =>
                  ⟨.rd, false, imageHandle (imageSrc g p.1), 0, p.2⟩)) g f x
                match z.2 with
                | some c => .next (imageFailed z.1 r c)
                | none => .next (updFlight z.1 f fun y => { y with awaitImage := none })
              | recs => .next (waitImage s1 g f recs)
    | _, _ => .next s

/-- The next leader whose image can be loaded. -/
def nextImage (s : State) : Option Instr :=
  ((allFlights s).find? fun f =>
    match f.awaitImage with | some ws => ws.all (fun w => w.answer.isSome) | none => false).map fun f => .imageLoad f.id

/-! Retirement (R127, R287, R386). -/

/-- Every grid launched from a member with NB = 0 has retired (R287). -/
def childrenDone (s : State) (r : MemberRef) : Bool :=
  s.grids.all fun g => !(decide (g.parent = some r) && !recNb g.words)

/-- What a member still has to wait for is done (R127, R287, R288). -/
def memberDone (s : State) (f : Flight) (r : MemberRef) : Bool :=
  f.alive == 0 && f.launches == [] && s.cmds.all (fun c => decide (c.flight ≠ f.id)) && unsettled s f == 0 && childrenDone s r

/-- Reservations that waited for members to retire take effect (R282, R386). -/
def settleResv (s : State) : State :=
  { s with resvs := s.resvs.map fun r =>
      match r.next with
      | none => r
      | some v =>
        let busy := s.grids.any fun g => recResv g.words != v && g.members.any fun m =>
          !m.retired && (HwUnit.holds r.unit m.unit || HwUnit.holds m.unit r.unit)
        if busy then r else { r with now := v, next := none } }

/-- A member retires (R287): its unit is released, its team's barrier, its reservation and its grid go on, and the package that
placed it hears of it. -/
def retireMember (s : State) (r : MemberRef) (c : Option Cause) : State :=
  let s1 := updGrid { s with barOwed := s.barOwed.filter fun y => decide (y ≠ r) } r.grid fun g =>
    { g with members := g.members.map fun m =>
        if m.team = r.team ∧ m.mem = r.mem then { m with retired := true, cause := if m.cause.isSome then m.cause else c } else m }
  let s2 := match gridById s1 r.grid with
    | some g =>
      (match g.home with
       | some (p, id) =>
         let cause := if cancelled s g.ctx (recInst g.words) then some Cause.cancelled
           else memberCause g (memIndex g.words r.team r.mem)
         tellRetired s1 p id r.team r.mem (cause.map Cause.code)
       | none => s1)
    | none => s1
  settleGrid (settleResv (settleBar s2 r)) r.grid

/-- A member has nothing more to wait for here: its leader is done, or it has none any more (R287, R289). -/
def canRetire (s : State) (r : MemberRef) (m : Member) : Bool :=
  !m.retired && m.peer.isNone &&
    (match m.leader with
     | some f => (match flightOf s f with | some x => x.member == some r && memberDone s x r | none => false)
     | none => childrenDone s r)

/-- MEMBER_RETIRE (R127, R191, R287): of a member of this package, or as another package of the current generation (R368) reports of
one that ran there. -/
def execMemberRetire (grid team : Nat) (mem : Retiring) (s : State) : Res :=
  let r : MemberRef := ⟨grid, team, mem.mem⟩
  match mem.report, memberOf s r with
  | some x, m =>
    if x.gen ≠ s.podgen then .next (answerStale s x.pkg)
    else if m.any fun y => !y.retired && y.peer == some x.pkg then .next (retireMember s r (x.cause.bind Cause.ofCode))
    else .next s
  | none, none => .next s
  | none, some m =>
    if !canRetire s r m then .next s
    else
      match m.leader with
      | some f => .next (retireMember (freePhasers (removeFlight (dropGridOps (dropRegs s f) f) f)) r none)
      | none => .next (retireMember s r none)

/-- The next member that can retire. -/
def nextRetire (s : State) : Option Instr :=
  s.grids.findSome? fun g =>
    (g.members.find? fun m => canRetire s ⟨g.id, m.team, m.mem⟩ m).map fun m => .memberRetire g.id m.team ⟨m.mem, none⟩

end Sys2Proof.Machine
end

