-- ==== Sys2Proof/Machine/Traps.lean ====
section
/-! DEFINITION. Trap entry after a drain, TFIX, RTE and service: R191, R325 to R331. -/

namespace Sys2Proof.Machine

/-- TRAP_ENTRY (R191, R325): a trap that waited for the flight's grid operations is entered. -/
def execTrapEntry (f : FlightId) (s : State) : Res :=
  match flightOf s f with
  | none => .next s
  | some x =>
    match x.pendTrap with
    | none => .next s
    | some t => if gridOps s x = [] then .next (enterTrap (focus s f) t) else .next s

/-! TFIX (R329, R330). -/

/-- The instruction has no register result (R330). -/
def noResult (i : Instr) : Bool :=
  match i with
  | .bra _ _ | .brx _ _ | .ret _ _ | .exit _ _ | .nop _ _ | .rep _ _ | .mts _ _ | .trap _ _ | .sth _ _ | .movQueueMarker _ _
  | .rje _ _ | .rjw _ _ | .rjx _ _ | .vsth _ _ | .vsthx _ _ | .mmodeOn _ _ | .mmodeOff _ _ | .mma _ _ | .mmai _ _
  | .mzero _ _ | .mdrain _ _ | .stg _ _ | .stz _ _ | .stm _ _ | .stx _ _ | .vstg _ _ | .vstz _ _ | .vstm _ _ | .vstmx _ _
  | .vstx _ _ | .prel _ _ | .pclr _ _ | .qbind _ _ | .foot _ _ | .migr _ _ | .cancel _ _ | .phdrop _ _ | .phset _ _
  | .phexp _ _ | .bar _ _ | .tfix _ _ | .rteRetry _ _ | .rteSkip _ _ | .ctxsvSave _ _ | .ctxsvRestore _ _
  | .ctxsvSaveFree _ _ | .ctxsvResume _ _ => true
  | .copy _ o | .mcast _ o | .reduce _ o | .gemv _ o | .launch _ o | .cfetch _ o => !o.nb
  | .fence h _ => !h.w
  | _ => false

/-- The type of the sub-elements of a vector destination (R330); `none` for one element of 512 bits, that of VBFLY's vector form among
them (log entry 36). -/
def resultTy (i : Instr) : Option Ty :=
  match i with
  | .vadd _ o | .vsub _ o | .vmul _ o | .vfma _ o | .vdiv _ o | .vsqrt _ o | .vmin _ o | .vmax _ o | .vand _ o | .vor _ o
  | .vxor _ o | .vshl _ o | .vshr _ o | .vsar _ o | .vcmp _ o | .vsel _ o | .vcvt _ o | .vcvt8 _ o | .vsplat _ o
  | .vins _ o | .vmov _ o | .vred _ o | .vreds _ o => some o.ty
  | .vldhx _ o | .vldmx _ o => some (idxType o.sz)
  | _ => none

/-- The destination of the trapped word as it names it, its W, and the type of its sub-elements (R330). -/
def wordDest (f : Flight) : Option (Dst × Bool × Option Ty) :=
  match decode f.tinsn with
  | .error _ => none
  | .ok (.dualWord _ a b) =>
    let x := if f.tcause.getLsbD 8 then b else a
    if x.hop = .nop then none
    else some (x.dst, x.w, match x.dst with | .v _ => some (Ty.ofCode (x.md.extractLsb' 0 4)) | _ => none)
  | .ok i =>
    if noResult i then none
    else
      match i.parts with
      | some (.a _ h o) => some (o.dst, h.w, resultTy i)
      | some (.b _ h o) => some (o.dst, h.w, none)
      | some (.c _ h o) => some (o.dst, h.w, none)
      | some (.m _ h o) => some (o.dst, h.w, resultTy i)
      | some (.x _ h o) => some (o.dst, h.w, none)
      | some (.t _ h o) => some (o.dst, h.w, none)
      | _ => none

/-- The destination of the trapped word: none for g0 and p0 (R330). -/
def trapDest (f : Flight) : Option (Dst × Bool × Option Ty) :=
  (wordDest f).filter fun x => match x.1 with
    | .g i => i != 0
    | .p i => i != 0
    | _ => true

/-- ILLEGAL of TFIX and RTE. -/
def fixIllegal {α : Type} : Rd α := .error (lt5 .illegal 0)

/-- The precision of a binary8 destination of the trapped word: P = IS of a VCVT8 (R99, R156). -/
def fixPrec (f : Flight) : Nat := match decode f.tinsn with | .ok (.vcvt8 _ o) => o.is.toNat | _ => 0

/-- The sub-element that an immediate of TFIX becomes (R45, R330), with the precision of a binary8 type. -/
def fixSub (t : Ty) (p : Nat) (s : BitVec 7) : Nat :=
  if t.isB8 then ((fmtOf t p).round (intVal s.toInt) .rne 0 false).1 else immSub t s

/-- Width of the sub-elements that TFIX takes (R330). -/
def fixWidth (ty : Option Ty) : Nat := match ty with | some t => t.width | none => 512

/-- The sub-elements that TEMASK marks (R330). -/
def fixMarked (ty : Option Ty) (mask : Word) : List Nat :=
  (List.range (match ty with | some t => t.count | none => 1)).filter fun j => mask.getLsbD j

/-- Sub-element j of width w reads or writes a bit of granule g. -/
def overGran (w j g : Nat) : Bool := if w ≤ 64 then inGran w j g else true

/-- The vector value that TFIX takes from its source, of which it reads the marked sub-elements (R330, R335). -/
def fixVec (l : Lane) (ty : Option Ty) (p : Nat) (js : List Nat) (src : Src) : Rd VWord :=
  match src with
  | .g _ | .p _ | .q _ | .j _ => fixIllegal
  | .imm s => (match ty with
    | some t => .ok (vecOf t.width t.count fun _ => fixSub t p s)
    | none => .ok (s.signExtend 512))
  | _ => do
    let a ← vecSrc l .uint64 src
    checkSub l src js (overGran (fixWidth ty))
    pure a

/-- A vector with the marked sub-elements taken from another (R330). -/
def mixVec (ty : Option Ty) (mask : Word) (new old : VWord) : VWord :=
  match ty with
  | some t => vecOf t.width t.count fun j => if mask.getLsbD j then subWord new t.width j else subWord old t.width j
  | none => if mask.getLsbD 0 then new else old

/-- The granules of a vector destination that a write of the marked sub-elements covers only in part, which it reads (R335). -/
def checkPart (l : Lane) (d : Dst) (w : Nat) (js : List Nat) : Rd Unit :=
  checkSub l d.asSrc js fun j g => overGran w j g && !granCovered w js.contains g

/-- TFIX in a lane of TMASK (R330): the destination where W = 1, and the latch value that RTE.SKIP will use, where TEMASK marks
anything. Sub-elements that it does not mark come from what TFIX wrote before, or from the trapped word's partial value. -/
def fixLane (l : Lane) (d : Dst) (w : Bool) (ty : Option Ty) (p : Nat) (src : Src) : Rd Lane :=
  let on := l.temask.getLsbD 0
  match d with
  | .g i =>
    match src with
    | .p _ | .v _ => fixIllegal
    | _ => do
      let a ← srcG l src
      pure (if on then { (if w then l.setG i a else l) with shFix := some (.gen a) } else l)
  | .p i =>
    match src with
    | .g _ | .v _ | .imm _ => fixIllegal
    | _ => do
      let a ← srcP l src
      checkDstP l d (w && on)
      pure (if on then { (if w then l.setP i a else l) with shFix := some (.pred a) } else l)
  | .v i => do
    let js := fixMarked ty l.temask
    let a ← fixVec l ty p js src
    if w then checkPart l d (fixWidth ty) js
    let kept := match l.shFix, l.shPart with | some (.vec v), _ => v | _, some (.vec v) => v | _, _ => l.getV i
    let l1 := if w then l.setVPart i (fixWidth ty) js.contains (mixVec ty l.temask a (l.getV i)) else l
    pure (if js.isEmpty then l else { l1 with shFix := some (.vec (mixVec ty l.temask a kept)) })
  | _ => fixIllegal

/-- The granules that TFIX reads in a lane of TMASK (R335): of a vector source those of the marked sub-elements, and of the
destination those that it writes in part. -/
def fixReads (f : Flight) (src0 : Src) (l : Lane) (src : Src) (g : BitVec 3) : Bool :=
  match trapDest f with
  | none => false
  | some (d, w, ty) =>
    let js := fixMarked ty l.temask
    let wd := fixWidth ty
    match d with
    | .v _ =>
      (decide (src = src0) && js.any fun j => overGran wd j g.toNat) ||
        (w && decide (src = d.asSrc) && js.any fun j => overGran wd j g.toNat && !granCovered wd js.contains g.toNat)
    | .p _ => l.temask.getLsbD 0 && (decide (src = src0) || (w && decide (src = d.asSrc)))
    | _ => decide (src = src0)

/-- The registers that TFIX names: its source, and the destination of the trapped word. -/
def fixSrcs (f : Flight) (src : Src) : List Src :=
  src :: match trapDest f with | some (.v i, _, _) => [.v i] | some (.p i, _, _) => [.p i] | _ => []

/-- TFIX (R329, R330). It acts in the lanes of Active that are also in TMASK; in the others it reads no granule. -/
def execTfix (h : Hdr) (o : OpsA) (s : State) : Res :=
  let rflat := logUnreadBy s ((Src.p h.pg) :: fixSrcs s.fl o.sa) fun k l src g =>
    isActive s h k && (decide (src = .p h.pg) || (s.fl.hnd && s.fl.tmask.has k && fixReads s.fl o.sa l src g))
  .next (finish { s with fl := { s.fl with rflat := rflat } } h.e false false (laneOuts s h fun k l => ofRd l do
    if s.fl.hnd = false then fixIllegal
    match trapDest s.fl with
    | none => fixIllegal
    | some (d, w, ty) =>
      if s.fl.tmask.has k then
        let l1 ← fixLane l d w ty (fixPrec s.fl) o.sa
        pure (retNone l1)
      else
        let _ ← fixLane { l with faulty := [], temask := 0 } d false ty (fixPrec s.fl) o.sa
        pure (retNone l)))

/-! RTE (R329, R331). -/

/-- The address of an RTE of the other kind at which a lane of the flight is parked. -/
def otherRte (f : Flight) (skip : Bool) : Option Pc :=
  allLanes.findSome? fun k =>
    match (f.lane k).st with
    | .parked (.rte b) => if b != skip then some (f.lane k).pc else none
    | _ => none

/-- RTE (R329, R331): the issuing set parks until every live lane of the trap set has come. -/
def rteWord (s : State) (h : Hdr) (skip : Bool) : State :=
  perLane s h [] fun _ l =>
    if !s.fl.hnd then .trap l none (lt5 .illegal 0)
    else
      match otherRte s.fl skip with
      | some p => .trap l none (lt5 .illegal (p.setWidth 64))
      | none => .park l (.rte skip)

/-- RTE.RETRY (R331). -/
def execRteRetry (h : Hdr) (_ : OpsA) (s : State) : Res := .next (rteWord s h false)
/-- RTE.SKIP (R331). -/
def execRteSkip (h : Hdr) (_ : OpsA) (s : State) : Res := .next (rteWord s h true)

/-- The RTE at which every lane of the trap set that is not EXITED is parked (R331). -/
def rteGathered (f : Flight) : Option Bool :=
  match allLanes.find? fun k => (f.lane k).inS && !(f.lane k).exited with
  | none => none
  | some k0 =>
    match (f.lane k0).st with
    | .parked (.rte skip) =>
      if f.hnd && allLanes.all fun k => !(f.lane k).inS || (f.lane k).exited || decide ((f.lane k).st = .parked (.rte skip))
      then some skip else none
    | _ => none

/-- The store address at which a trap set resumes (R331). -/
def resumeAt (f : Flight) (skip : Bool) : Nat :=
  if skip && !f.trapRep && !f.tinsn.getLsbD 62 then f.tpc.toNat + 8 else f.tpc.toNat

/-- The slot of a resumption is PRESENT (R19, R331). -/
def resumeOk (s : State) (f : Flight) (skip : Bool) : Bool :=
  decide (resumeAt f skip < 0x20000) && slotPresent s f.id.coreNo (BitVec.ofNat 17 (resumeAt f skip))

/-- CODE_ABSENT of an RTE whose target slot is not PRESENT (R19, R331), taken by the lanes that are parked at it. -/
def rteAbsent (s : State) (f : Flight) (skip : Bool) : TrapInfo :=
  let set := laneSetOf fun k => decide ((f.lane k).st = .parked (.rte skip))
  let t : LTrap := ⟨5, 0, .codeAbsent, BitVec.ofNat 64 (resumeAt f skip), 1⟩
  let pc := match lowest set with | some k => (f.lane k).pc | none => 0
  { issue := set, set := set, traps := (allLanes.filter fun k => set.has k).map fun k => (k, t), slot := false, rep := false,
    word := codeWord s f.id.coreNo pc }

/-- RTE_GATHER_COMPLETE (R331). -/
def execRteGatherComplete (f : FlightId) (s : State) : Res :=
  match flightOf s f with
  | none => .next s
  | some x =>
    match rteGathered x with
    | none => .next s
    | some skip =>
      if resumeOk s x skip then .next (wake s x (returned x skip))
      else .next (takeTrap (focus s f) (rteAbsent s x skip))

/-! Service by firmware (R327, R328, R385). -/

/-- The cause of the trap that a held flight is held for. -/
def heldCause (f : Flight) : Cause := (Cause.ofCode (f.tcause.extractLsb' 0 8)).getD .illegal

/-- The host handles the trap of a held flight (R327, R328, R385). -/
def heldForHost (s : State) (f : Flight) : Bool := toHost s f (heldCause f)

/-- The trap is NEST = 1 (R327). -/
def nested (f : Flight) : Bool := f.tcause.getLsbD 9

/-- The addresses that a CODE_ABSENT names, by lane of TMASK (R328). -/
def absentTargets (f : Flight) : List Nat :=
  (allLanes.filter fun k => f.tmask.has k).map fun k => (f.lane k).tval.toNat

/-- A reload cannot help (R328). -/
def reloadHopeless (f : Flight) : Bool :=
  (absentTargets f).any (fun a => decide (0x20000 ≤ a)) ||
    (match decode f.tinsn with
     | .ok (.bra _ _) | .ok (.brx _ _) | .ok (.call _ _) | .ok (.callx _ _) =>
       (absentTargets f).any fun a => decide (a / 4096 ≠ f.tpc.toNat / 4096)
     | _ => false)

/-- The slots of the targets that are not PRESENT (R328). -/
def missingSlots (s : State) (f : Flight) : List Nat :=
  ((absentTargets f).map (· / 4096)).dedup.filter fun i =>
    decide ((coreOf s f.id.coreNo).slots.get (Fin.ofNat 32 i) ≠ .present)

/-- Firmware's reload of a slot from the source last accepted into it (R328). -/
def reloadSlot (s : State) (f : FlightId) (slot : Nat) : State :=
  let c := coreOf s f.coreNo
  match c.src.get (Fin.ofNat 32 slot) with
  | none => s
  | some src =>
    if c.slots.get (Fin.ofNat 32 slot) = .loading ∨ fetcherFull s f.coreNo = true then s
    else acceptFetch s f.coreNo { slot := slot, src := src, fut := 0, flight := f, lane := 0, waits := [], reload := true, ginst := 0 }

/-- CODE_ABSENT of a resumption by service whose target slot is not PRESENT (R19, R331), taken by the held lanes. No word is at
issue: TINSN is 0 (log entry 5). -/
def serviceAbsent (f : Flight) (skip : Bool) : TrapInfo :=
  let set := laneSetOf fun k => decide ((f.lane k).st = .parked .service)
  let t : LTrap := ⟨5, 0, .codeAbsent, BitVec.ofNat 64 (resumeAt f skip), 1⟩
  { issue := set, set := set, traps := (allLanes.filter fun k => set.has k).map fun k => (k, t), slot := false, rep := false,
    word := 0 }

/-- A held flight resumed by service exactly as RTE would (R328): it takes CODE_ABSENT with NEST = 1 where the target slot is not
PRESENT (R19, R331). -/
def serviceResume (s : State) (f : Flight) (skip : Bool) : State :=
  if resumeOk s f skip then wake s f (returned f skip) else takeTrap (focus s f.id) (serviceAbsent f skip)

/-- What firmware as shipped does about a held flight (R327, R328). -/
def serviceFlight (s : State) (f : Flight) : State :=
  if nested f || heldCause f != .codeAbsent || reloadHopeless f then endMember s f (heldCause f)
  else
    let missing := missingSlots s f
    if missing.any fun i => ((coreOf s f.id.coreNo).src.get (Fin.ofNat 32 i)).isNone then endMember s f .codeAbsent
    else if missing = [] then serviceResume s f false
    else missing.foldl (fun s i => reloadSlot s f.id i) s

/-- A held flight that firmware has to act on. -/
def serviceDue (s : State) (f : Flight) : Bool := f.service && f.ending.isNone && !heldForHost s f

/-- FIRMWARE_SERVICE_ACTION (R328). -/
def execFirmwareServiceAction (f : FlightId) (s : State) : Res :=
  match flightOf s f with
  | none => .next s
  | some x => if serviceDue s x then .next (serviceFlight s x) else .next s

end Sys2Proof.Machine
end

