-- ==== Sys2Proof/Machine/Preempt.lean ====
section
/-! DEFINITION. Stopping a flight, stalled words, CTXSV and ERRQPOP: R184, R186, R208, R223, R244, R337 to R342, R374 to
R376. -/

namespace Sys2Proof.Machine

/-! Stalls (R184 to R186, R208, R223, R244). -/

/-- What a stalled word waited for has come. -/
def stallOver (s : State) (x : Flight) (st : Stall) : Bool :=
  match st with
  | .gridFull => decide ((gridOf s x).length < 8)
  | .drain regs => !drainNeeded s x regs
  | .flightGrid => gridOps s x == []
  | .engineGrid => gridOf s x == []
  | .queueFull q => !(x.queue q).full
  | .heldFull => decide (x.held.length ≤ 16)
  | .order lanes _ _ => unsettled s x &&& lanes == 0

/-- ENGINE_STALL_RELEASE (R184): the stalled word issues again. -/
def execEngineStallRelease (f : FlightId) (s : State) : Res :=
  match flightOf s f with
  | none => .next s
  | some x =>
    match x.stall with
    | none => .next s
    | some st => if stallOver s x st then .next (setFlight s { x with stall := none }) else .next s

/-! Pre-emption (R337, R338). -/

/-- A stalled word that a request to stop abandons (R337): one stalled under R184, R185, R208 or R244. -/
def abandons (st : Stall) : Bool :=
  match st with
  | .gridFull | .drain _ | .heldFull | .queueFull _ => true
  | _ => false

/-- The flight has come to a point at which it may stop: between runs, or at a REP boundary with no word in progress (R29, R337). -/
def atStop (x : Flight) : Bool :=
  match x.run with
  | none => true
  | some r => r.rep.isSome && x.stall.isNone

/-- The run in progress interrupted (R26, R29, R337): its remaining words issue later as the rest of the same run. -/
def haltRun (x : Flight) : Flight :=
  match x.run with
  | none => { x with stall := none }
  | some r =>
    let y := match r.rep with
      | none => x
      | some rp => x.mapLanes fun k l => if r.set.has k then holdRep l (rp.lanes.has k) else l
    { y with run := none, stall := none, halted := some { r with rep := none } }

/-- A flight with a request to stop (R337): a word that is stalled when the request arrives may be abandoned. A request of another
takes the place of the newel's own, which its swap-in would end (R338). -/
def askedStop (x : Flight) (now : Word) (by_ : StopBy) : Flight :=
  if x.stopped then (if x.stoppedBy = some .newel then { x with stoppedBy := some by_ } else x)
  else
    match x.preempt with
    | some (t, .newel) => { x with preempt := some (t, by_) }
    | some _ => x
    | none => { (if x.stall.any abandons then haltRun x else x) with preempt := some (now, by_) }

/-- A request to stop (R337). -/
def requestStop (s : State) (f : FlightId) (by_ : StopBy) : State :=
  updFlight s f fun x => askedStop x (ccountOf s f.die) by_

/-- The flight STOPPED (R338). -/
def stopped_ (x : Flight) (by_ : StopBy) : Flight :=
  { haltRun x with stopped := true, preempt := none, stoppedBy := some by_ }

/-- A STOPPED flight resumed (R338). -/
def resumed (x : Flight) : Flight := { x with stopped := false, stoppedBy := none, switched := false }

/-- BUSY and REFUSED of a host register, and the register's own value (R379). -/
def busyBit : Word := 0x8000000000000000
def refusedBit : Word := 0x4000000000000000
def ownValue (v : Word) : Word := v &&& 0x3FFFFFFFFFFFFFFF

/-- An event of kind request done (R388). -/
def requestDone (s : State) (code : BitVec 8) (v : Word) : State := hubEvent s evRequestDone code 0 v 0

/-- A stop or a core switch that FLTCTL has under way comes to its end (R387): BUSY clears where the register still shows that action
(log entry 29), and its event record is written. -/
def endFltctl (s : State) (w : Word) (code : BitVec 8) : State :=
  let h := s.host
  let rest := h.fltPending.erase w
  let reg := if ownValue h.fltctl = w ∧ rest.contains w = false then h.fltctl &&& ~~~busyBit else h.fltctl
  requestDone { s with host := { h with fltctl := reg, fltPending := rest } } code w

/-- What follows the stop of a flight (R338): the newel swaps out one that it stopped itself, and resumes it where the area has no room
left. -/
def afterStop (s : State) (x : Flight) (by_ : StopBy) : State :=
  match by_ with
  | .newel => if swapRoom s x.id.coreNo then swapOut s x else setFlight s (resumed x)
  | _ => s

/-- A flight that can become STOPPED now (R191, R337). -/
def canStop (s : State) (x : Flight) : Bool :=
  x.preempt.isSome && atStop x && x.pendTrap.isNone && gridOps s x == []

/-- PREEMPTION_REQUEST (R337): the core newel asks a resident flight to stop, to swap it out. -/
def execPreemptionRequest (f : FlightId) (s : State) : Res :=
  match flightOf s f with
  | none => .next s
  | some x =>
    if x.resident && !x.stopped && swapRoom s f.coreNo then .next (requestStop s f .newel) else .next s

/-- PREEMPTION_TIMEOUT (R337): 1,536 cycles after the request the run is interrupted after the word in progress; a stalled word is in
progress. -/
def execPreemptionTimeout (f : FlightId) (s : State) : Res :=
  match flightOf s f with
  | none => .next s
  | some x =>
    match x.preempt with
    | none => .next s
    | some (start, _) =>
      if start.toNat + 1536 ≤ (ccountOf s f.die).toNat ∧ x.stall.isNone = true then .next (setFlight s (haltRun x))
      else .next s

/-- PREEMPTION_STOP (R337, R338). -/
def execPreemptionStop (f : FlightId) (s : State) : Res :=
  match flightOf s f with
  | none => .next s
  | some x =>
    match x.preempt with
    | none => .next s
    | some (_, by_) =>
      if canStop s x then .next (afterStop (setFlight s (stopped_ x by_)) (stopped_ x by_) by_) else .next s

/-! CTXSV (R341). -/

/-- The checks of an image address of the issuing die (R194, R341). -/
def imageAddr (a : Word) : Rd Unit :=
  if a.toNat % 4096 ≠ 0 then .error (lt5 .align a)
  else if a.toNat < swapBase ∨ swapEnd < a.toNat + imageBytes then .error (lt5 .bounds a)
  else .ok ()

/-- The flight of the issuing core that g[SA] names. -/
def ctxsvFlight (s : State) (v : Word) : FlightId := { s.fl.id with fnum := (v.extractLsb' 0 6).toNat }

/-- CTXSV with an operation (R341): what its issuing lane does. -/
def ctxsvDo (s : State) (opn : BitVec 2) (v a : Word) (set : LaneSet) : Rd OnceOut :=
  let bad : Rd OnceOut := .error (lt5 .illegal v)
  let f := ctxsvFlight s v
  let wait (s : State) : OnceOut := .park s (.ctxsv opn f.fnum a set)
  if v.extractLsb' 10 54 ≠ 0 ∨ v.extractLsb' 6 2 ≠ 0 then bad
  else
    match opn.toNat, flightOf s f with
    | 3, some x => if a = 0 ∧ x.stopped = true then pure (.fin (setFlight s (resumed x)) .none) else bad
    | 3, none => bad
    | 1, some _ => bad
    | 1, none => do
      imageAddr a
      if (readWord s (mezzKey s.fl.id.die a.toNat)).extractLsb' 0 16 ≠ 0x2001 then bad else pure (wait s)
    | _, none => bad
    | _, some _ => do
      imageAddr a
      pure (wait (requestStop s f .ctxsv))

/-- CTXSV as a word (R53, R341): privileged, once for its issuing set. -/
def ctxsvWord (s : State) (h : Hdr) (o : OpsX) (opn : BitVec 2) : State :=
  if !s.fl.priv then wordTrap s 3 .priv 0 false
  else onceX s h o (groupSrcs o 2) fun t _ l => do
    let g ← readGroup l o 2
    ctxsvDo t opn (g.getD 0 0) (g.getD 1 0) (active s h)

/-- CTXSV with OPN 0 (R341). -/
def execCtxsvSave (h : Hdr) (o : OpsX) (s : State) : Res := .next (ctxsvWord s h o 0)
/-- CTXSV with OPN 1 (R341). -/
def execCtxsvRestore (h : Hdr) (o : OpsX) (s : State) : Res := .next (ctxsvWord s h o 1)
/-- CTXSV with OPN 2 (R341). -/
def execCtxsvSaveFree (h : Hdr) (o : OpsX) (s : State) : Res := .next (ctxsvWord s h o 2)
/-- CTXSV with OPN 3 (R341). -/
def execCtxsvResume (h : Hdr) (o : OpsX) (s : State) : Res := .next (ctxsvWord s h o 3)

/-- The image of a STOPPED flight written for CTXSV (R340, R341): with OPN 2 the flight leaves its core. -/
def saveImage (s : State) (x : Flight) (addr : Nat) (free : Bool) : State :=
  let die := x.id.die
  let s1 := putImage s die addr x
  let side : ImageSide := ⟨die, addr, none, free, x⟩
  let s2 := { s1 with images := (s1.images.filter fun i => !decide (i.die = die ∧ i.addr = addr ∧ i.swapped = none)) ++ [side] }
  if free then removeFlight (areaDrop s2 x.id) x.id else s2

/-- A lane waits for what an access that has been performed, or sent, returns (R337). -/
def Lane.inFlight (l : Lane) : Bool :=
  match l.st with
  | .parked (.atomic _ _) | .parked (.remote _ _ _ _) => true
  | _ => false

/-- A flight has nothing under way outside its core: no held store, no request to a peer, no access whose result it waits for, and no
command outstanding, whose result its queue register takes (R241). Its image can leave the core (log entry 12). -/
def detached (s : State) (x : Flight) : Bool :=
  x.held.isEmpty && allLanes.all (fun k => !(x.lane k).inFlight) && s.cmds.all (fun c => decide (c.flight ≠ x.id)) &&
    s.outstanding.all fun o =>
      match o.owner with | .lane f _ _ => decide (f ≠ x.id) | .store f _ => decide (f ≠ x.id) | .piece _ _ _ => true

/-- The translations that a restored flight waited on are tried again. -/
def retryWaits (ws : List Wait) : List Wait := ws.map fun w => { w with answer := some true }

/-- A parked lane of a restored flight. -/
def restoredLane (l : Lane) : Lane :=
  match l.st with
  | .parked (.fault a ws) => { l with st := .parked (.fault a (retryWaits ws)) }
  | .parked (.future sp a d w set k ws) => { l with st := .parked (.future sp a d w set k (retryWaits ws)) }
  | _ => l

/-- The member of a flight belongs to a firmware grid (R13). -/
def firmwareMember (s : State) (f : Flight) : Bool :=
  match f.member.bind fun r => gridById s r.grid with
  | some g => g.firmware
  | none => false

/-- The flight that an image restores on a core (R340, R341): live and STOPPED, privileged only in a firmware grid (R13). What the
layout has no bytes for comes from the record of the image, or is blank. -/
def restoredFlight (s : State) (die : Nat) (addr : Nat) (id : FlightId) : Flight :=
  let old := match s.images.find? fun i => decide (i.die = die ∧ i.addr = addr ∧ i.swapped = none) with
    | some i => i.flight
    | none => Flight.blank
  let f := flightFrom (fun i => readWord s (mezzKey die (addr + 8 * i))) old
  let f1 := f.mapLanes fun _ l => restoredLane l
  { f1 with id := id, live := true, slot := none, priv := f.priv && firmwareMember s f, stopped := true,
            stoppedBy := some .ctxsv, switched := false, preempt := none, run := none, stall := none, awaitImage := none,
            ending := none, tvec := (ctxOf s f.ctx).tvec, since := (ccountOf s die).toNat }

/-- A barrier that passed while a member was in its image passes for the restored flight (R318). -/
def passOwed (s : State) (x : Flight) : State :=
  match x.member with
  | none => s
  | some r =>
    if s.barOwed.contains r then
      updFlight { s with barOwed := s.barOwed.filter fun y => decide (y ≠ r) } x.id passBar
    else s

/-- The member of a restored flight has its leader there; a member that has failed meanwhile stops it (R289, R293). -/
def adopt (s : State) (x : Flight) : State :=
  let s1 := match x.member with
    | none => s
    | some r => updGrid s r.grid fun g => { g with members := g.members.map fun m =>
        if m.team = r.team ∧ m.mem = r.mem then { m with leader := some x.id } else m }
  let cause := match x.member.bind (memberOf s1) with
    | some m => m.cause
    | none => if cancelled s x.ctx x.ginst then some .cancelled else none
  passOwed (updFlight s1 x.id fun y => { y with ending := cause }) x

/-- An image restored (R341): resident if a slot is free, and swapped out otherwise. -/
def restoreImage (s : State) (id : FlightId) (addr : Nat) : State :=
  let x := restoredFlight s id.die addr id
  let others := s.images.filter fun i => !decide (i.die = id.die ∧ i.addr = addr ∧ i.swapped = none)
  match freeSlot s id.coreNo with
  | some k =>
    let y := { x with slot := some k }
    adopt (addFlight { s with images := others } y) y
  | none =>
    let side : ImageSide := ⟨id.die, addr, some id, false, Flight.blank⟩
    adopt (addFlight { s with images := others ++ [side] } x) x

/-! ERRQPOP (R374 to R376). -/

/-- The oldest record of a context's error queue removed: the state and the record's words, zeros where there is none. -/
def popError (s : State) (ctx : BitVec 6) : State × List Word :=
  let c := ctxOf s ctx
  if c.eqCount = 0 then (s, List.replicate 8 0)
  else
    let ws := readWords s (mainKey (c.eqBase + 64 * (c.eqHead.toNat % c.eqSize))) 8
    (setCtx s ctx { c with eqHead := BitVec.ofNat 16 ((c.eqHead.toNat + 1) % c.eqSize), eqCount := c.eqCount - 1 }, ws)

/-- ERRQPOP (R376). -/
def execErrqpop (h : Hdr) (o : OpsX) (s : State) : Res :=
  .next (onceX s h o [] fun t _ _ =>
    let r := popError t t.fl.ctx
    pure (.fin r.1 (.words r.2)))

end Sys2Proof.Machine
end

