-- ==== Sys2Proof/Machine/Resume.lean ====
section
/-! DEFINITION. The end of a park: R25, R30, R86, R198, R207, R210, R236, R243, R278, R302, R341, R371. -/

namespace Sys2Proof.Machine

/-- The word that a parked lane resumes at. -/
def parkedWord (s : State) (f : Flight) (l : Lane) : Word := codeWord s f.id.coreNo l.pc

/-- The state with a lane of a flight replaced. -/
def putLane (s : State) (f : Flight) (k : LaneId) (l : Lane) : State := wake s f (f.setLane k l)

/-- Lanes of a set that are parked on one condition, changed together. -/
def changeSet (s : State) (f : FlightId) (set : LaneSet) (c : Park) (g : LaneId → Lane → Lane) : State :=
  updFlight s f fun x =>
    x.woke (x.mapLanes fun k l => if set.has k && decide (l.st = .parked c) then g k l else l) (ccountOf s f.die).toNat

/-- The lanes of a set complete with a result (R25). -/
def completeSet (s : State) (f : FlightId) (set : LaneSet) (c : Park) : State :=
  changeSet s f set c fun _ l => l.complete none

/-- The lanes of a set come back to their instruction; the given lane traps there (R30). -/
def backSet (s : State) (f : FlightId) (set : LaneSet) (c : Park) (bad : Option (LaneId × LTrap)) : State :=
  changeSet s f set c fun k l =>
    match bad with
    | some (j, t) => if j = k then l.failPark none t 0 else { l.staleLat with st := .ready, parkRep := false }
    | none => { l.staleLat with st := .ready, parkRep := false }

/-- A lane whose load has its bytes completes (R25, R93). -/
def finishLoad (s : State) (f : Flight) (k : LaneId) (l : Lane) (a : Acc) (x : Nat) : State :=
  let r := takeLoad l a x
  putLane s f k (r.1.complete r.2)

/-- A lane whose access failed (R30), with the elements of a gather that passed. -/
def failLoad (s : State) (f : Flight) (k : LaneId) (l : Lane) (a : Acc) (t : LTrap) (ok : List (Elem × Nat)) : State :=
  let r := takePartial l a (ok.map (·.1.pos)) (assemble (oldOf l a) (readParts s f k a ok))
  putLane s f k (r.1.failPark r.2 t (parkedWord s f l))

/-- A parked load, gather or atomic tried again (R198, R207, R210, R236): `none` while it still has to wait. -/
def retryAcc (s : State) (f : Flight) (k : LaneId) (l : Lane) (a : Acc) : Option State :=
  let s1 := noteAcc s f a
  match attempt s f a false with
  | .trap t ok => some (failLoad s1 f k l a t ok)
  | .fault recs =>
    some (putLane (faultRecords s1 f k 3 (a.code false) recs) f k
      { l with st := .parked (.fault a (waitsOf (recs.map fun r => r.2.1))) })
  | .absent => none
  | .far parts => some (sendParts (putLane s1 f k { l with st := .parked (.remote a [] [] parts.length) }) f k a parts)
  | .ready ok =>
    match a.kind, ok with
    | .atomic _ _ _, [(e, key)] =>
      let r := performAtomic s1 f k a e key
      match flightOf r.1 f.id with
      | none => none
      | some g => some (finishLoad r.1 g k l a r.2.toNat)
    | _, _ => some (finishLoad s1 f k l a (assemble 0 (readParts s f k a ok)))

/-- The unit of a handle's byte (R383). -/
def unitOf (s : State) (ctx : BitVec 6) (h : Word) : BitVec 32 :=
  vpnOf (BitVec.ofNat 48 ((bufEntry s ctx (handleBuf h)).vbase + handleOff h))

/-- What each element of an access fails with once a unit of it is refused (R207, R213): a check that it fails now, or
PAGE_FAULT where its unit was refused or still has no translation (log entry 16). -/
def refusedFails (s : State) (f : Flight) (a : Acc) (ws : List Wait) : List (Elem × Option (Cause × Word)) :=
  (probes s f a false).map fun x =>
    (x.1, match x.2 with
      | .trap c v => some (c, v)
      | .fault _ _ => some (.pageFault, x.1.addr)
      | _ => if ws.any fun w => w.answer == some false && decide (w.vpn = unitOf s f.ctx x.1.addr) then
               some (.pageFault, x.1.addr) else none)

/-- The trap of an access of which a unit is refused (R207, R213): of a gather, every element that fails and the cause of the
lowest; PAGE_FAULT at the first faulting byte otherwise. -/
def refusedTrap (a : Acc) (fails : List (Elem × Option (Cause × Word))) : LTrap :=
  let bad := fails.filterMap fun x => x.2.map fun c => (x.1, c)
  match a.kind with
  | .gather =>
    let lead := (bad.head?.map (·.2)).getD (.pageFault, a.addr)
    ⟨5, 0, lead.1, lead.2, bad.foldl (fun m x => m ||| (1#64 <<< (x.1.pos / a.size))) 0⟩
  | _ =>
    let first := (bad.find? fun x => decide (x.2.1 = .pageFault)).map (·.1.addr)
    ⟨5, 0, .pageFault, first.getD ((a.elems.map (·.addr)).headD a.addr), 1⟩

/-- A parked access whose translation is answered (R207). -/
def answeredAcc (s : State) (f : Flight) (k : LaneId) (l : Lane) (a : Acc) (ws : List Wait) : Option State :=
  if ws.any (fun w => w.answer.isNone) then none
  else if ws.any (fun w => w.answer == some false) then
    let fails := refusedFails s f a ws
    let ok := (probes s f a false).filterMap fun x =>
      match x.2 with
      | .at_ key => if fails.any (fun y => decide (y.1 = x.1) && y.2.isNone) then some (x.1, key) else none
      | _ => none
    some (failLoad s f k l a (refusedTrap a fails) ok)
  else retryAcc s f k l a

/-- FWAIT again (R302). -/
def retryFuture (s : State) (f : Flight) (c : Park) (a : Acc) (set : LaneSet) (k : LaneId) (ws : List Wait) : Option State :=
  if ws.any (fun w => w.answer.isNone) then none
  else if ws.any (fun w => w.answer == some false) then
    some (backSet s f.id set c (some (k, lt5 .pageFault a.addr)))
  else
    match attempt s f a false with
    | .ready [(_, key)] =>
      let w := BitVec.ofNat 64 (bytesToNat (readLane s f k a.sp key 8))
      let s1 := noteAcc s f a
      if 4 ≤ futSt w then some (backSet s1 f.id set c (some (k, lt5 .illegal w)))
      else if futEnded w then some (changeSet s1 f.id set c fun _ l => l.completeG a.dst a.w w)
      else if ws = [] then none
      else some (changeSet s1 f.id set c fun _ l => { l with st := .parked (.future a.sp a.addr a.dst a.w set k []) })
    | .trap t _ => some (backSet (noteAcc s f a) f.id set c (some (k, t)))
    | .fault recs =>
      let ws1 := waitsOf (recs.map fun r => r.2.1)
      some (changeSet (faultRecords (noteAcc s f a) f k 3 2 recs) f.id set c fun _ l =>
        { l with st := .parked (.future a.sp a.addr a.dst a.w set k ws1) })
    | _ => none

/-- A CTXSV whose flight has stopped, or whose image can be read (R341). -/
def retryCtxsv (s : State) (f : Flight) (c : Park) (opn : BitVec 2) (fnum addr : Nat) (set : LaneSet) (k : LaneId) :
    Option State :=
  let id : FlightId := { f.id with fnum := fnum }
  let trap (t : LTrap) : Option State := some (backSet s f.id set c (some (k, t)))
  let bad := trap (lt5 .illegal (BitVec.ofNat 64 (256 * opn.toNat + fnum)))
  match flightOf s id with
  | none =>
    if opn ≠ 1 then bad
    else if imageBad s f.id.die addr then trap (lt5 .memPoison (BitVec.ofNat 64 addr))
    else some (completeSet (restoreImage s id addr) f.id set c)
  | some x =>
    if opn = 1 then bad
    else if !x.stopped then (if x.preempt.isSome then none else some (requestStop s id .ctxsv))
    else if opn = 2 ∧ detached s x = false then none
    else some (completeSet (saveImage s x addr (opn == 2)) f.id set c)

/-- A remote access whose every request is answered (R213, R371): it completes, or traps for its first failing element with
the elements that came. -/
def endRemote (s : State) (f : Flight) (k : LaneId) (l : Lane) (a : Acc) (got : List (Nat × List Byte))
    (bad : List (Nat × Cause × Word)) : State :=
  let parts := a.elems.filterMap fun e => (got.lookup e.pos).map fun bs => (e, bs)
  match a.elems.findSome? fun e => bad.lookup e.pos with
  | none => finishLoad s f k l a (assemble 0 parts)
  | some (c, v) =>
    let mask := match a.kind with
      | .gather => bad.foldl (fun m x => m ||| (1#64 <<< (x.1 / a.size))) 0
      | _ => 1
    let r := takePartial l a (parts.map (·.1.pos)) (assemble (oldOf l a) parts)
    putLane s f k (r.1.failPark r.2 ⟨5, 0, c, v, mask⟩ (parkedWord s f l))

/-- A parked lane goes on: `none` while its condition holds (R30). A LAUNCH whose flight is stopped or swapped out is abandoned: it
issues again (R278). -/
def resumeLane (s : State) (f : Flight) (k : LaneId) : Option State :=
  let l := f.lane k
  match l.st with
  | .parked c =>
    match c with
    | .line a | .load a => retryAcc s f k l a
    | .atomic a old => some (finishLoad s f k l a old.toNat)
    | .fault a ws => answeredAcc s f k l a ws
    | .remote a got bad left => if left ≠ 0 then none else some (endRemote s f k l a got bad)
    | .fetcher image slot fut set =>
      if fetcherFull s f.id.coreNo then none
      else some (completeSet (acceptFetch s f.id.coreNo (fetchOf f k image slot fut)) f.id set c)
    | .pop q d w set =>
      match (f.queue q).pop with
      | .wait => none
      | .empty => some (backSet s f.id set c none)
      | .got x rest => some (changeSet (setFlight s (f.setQueue q rest)) f.id set c fun _ l => l.completeG d w x)
    | .launch rec_ set =>
      if launchFull f then none
      else if f.stopped || f.preempt.isSome || !f.resident then some (backSet s f.id set c none)
      else some (completeSet (setFlight s (f.pushLaunch rec_)) f.id set c)
    | .future sp a d w set j ws => retryFuture s f c (futAcc sp a false d w) set j ws
    | .phaser key t d w _ =>
      if passed (phaserOf s key).phase t && (phaserOf s key).owner == some f.ctx then
        some (freeUnused (putLane s f k (l.completeG d w ((phaserOf s key).phase.setWidth 64))) key)
      else none
    | .ctxsv opn fnum addr set => retryCtxsv s f c opn fnum addr.toNat set k
    | .rejoin _ | .bar | .rte _ | .mmode _ | .service => none
  | _ => none

/-- LANE_RESUME (R30). -/
def execLaneResume (f : FlightId) (l : LaneId) (s : State) : Res :=
  match flightOf s f with
  | none => .next s
  | some x => .next ((resumeLane s x l).getD s)

/-- The next lane that can go on. -/
def nextLane (s : State) : Option Instr :=
  (allFlights s).findSome? fun f =>
    (allLanes.find? fun k => (resumeLane s f k).isSome).map fun k => .laneResume f.id k

/-! Held stores whose translation is answered (R207, R208). -/

/-- Parts of a held store performed again (R208): those whose translation now succeeds are written, a part that a check fails
is dropped and reported, and one that fails translation again is left with its new record. -/
def retryHeld (s : State) (f : FlightId) (ctx : BitVec 6) (h : HeldStore) (ps : List HeldPart) :
    State × List HeldPart × List (Nat × BitVec 48 × Word) :=
  ps.foldl (fun acc p =>
    let e : Elem := ⟨0, p.bytes.length, p.h, false⟩
    let t := noteHandle acc.1 f.die ctx .wr e true
    match probeMain acc.1 ctx .wr e true with
    | .at_ key =>
      (match writeMain t key (p.fill t key) with
       | some t1 => (coverHeld t1 f h.lane h.seq key p.bytes.length, acc.2.1.map (·.cover (key, p.bytes.length)), acc.2.2)
       | none => (dropStore t f ctx h.lane 0 0 Cause.memPoison.code p.h, acc.2))
    | .fault kind va => (t, acc.2.1 ++ [p], acc.2.2 ++ [(kind, va, p.h)])
    | .trap c _ => (dropStore t f ctx h.lane 0 0 c.code p.h, acc.2)
    | _ => (t, acc.2)) (s, [], [])

/-- Parts of a held store of a flight performed, and held again where translation fails again (R208). -/
def performHeld (s : State) (x : Flight) (h : HeldStore) (ps : List HeldPart) : State :=
  let r := retryHeld s x.id x.ctx h ps
  if r.2.1 = [] then r.1
  else
    let t := faultRecords r.1 x h.lane 3 1 r.2.2
    let again : HeldStore := { h with parts := r.2.1, waits := waitsOf (r.2.2.map fun y => y.2.1) }
    updFlight t x.id fun y => { y with held := y.held ++ [again] }

/-- One answered held store of a flight settled: the oldest whose every unit is answered (R208). The parts whose unit is
refused are dropped, with one report of cause PAGE_FAULT, and the others are performed (R212, R213). -/
def settleHeld (s : State) (x : Flight) : Option State :=
  let ready (h : HeldStore) : Bool := h.waits.all fun w => w.answer.isSome
  match x.held.find? ready with
  | none => none
  | some h =>
    let s1 := setFlight s { x with held := x.held.eraseP ready }
    if h.waits.any fun w => w.answer == some false then
      let resolved (p : HeldPart) : Bool :=
        h.waits.any fun w => w.answer == some true && decide (w.vpn = unitOf s x.ctx p.h)
      let gone := h.parts.filter fun p => !resolved p
      let s2 := if gone.isEmpty then s1
        else dropStore s1 x.id x.ctx h.lane 0 0 Cause.pageFault.code ((gone.map (·.h)).headD 0)
      some (performHeld s2 x h (h.parts.filter resolved))
    else some (performHeld s1 x h h.parts)

/-- A flight with a held store to settle. -/
def nextHeld (s : State) : Option State := (allFlights s).findSome? (settleHeld s)

end Sys2Proof.Machine
end

