-- ==== Sys2Proof/Machine/Migrate.lean ====
section
/-! DEFINITION. The migration engine: R268 to R270, R357, R359, R360. -/

namespace Sys2Proof.Machine

/-- The context and the virtual address of the page that a MIGR moves (R268). -/
def Cmd.pageCtx (c : Cmd) : BitVec 6 := (c.regs.getD 0 0).extractLsb' 48 6
def Cmd.pageVa (c : Cmd) : Nat := ((c.regs.getD 0 0).extractLsb' 0 48).toNat

/-- The leaf that a MIGR writes (R268). -/
def Cmd.newLeaf (c : Cmd) : Word := c.regs.getD 1 0

/-- The walk to the page's current leaf (R270). -/
def Cmd.pageWalk (s : State) (c : Cmd) : Walk :=
  if (ctxOf s c.pageCtx).live then walkFrom s c.pageCtx c.pageVa (ptRoot (ctxOf s c.pageCtx)) walkLevels else .fail 1

/-- The interleave by which a page's bytes are found in an HBM4E frame (R201, R206): that of the context's buffers that
cover the page, and free where they do not settle it (log entry 14). -/
def pageIl (s : State) (ctx : BitVec 6) (va size : Nat) (leaf : Word) : BitVec 3 :=
  if pteKnd leaf then 2
  else
    let ils := (List.range 4096).filterMap fun i =>
      let b := bufEntry s ctx i
      if b.v && !b.rem && decide (b.il.toNat < 2) && decide (b.vbase < va + size) && decide (va < b.vbase + b.len)
        then some b.il else none
    if ils ≠ [] ∧ ils.all (fun i => i == 0) then 0
    else if ils ≠ [] ∧ ils.all (fun i => i == 1) then 1
    else if Config.rowsOf4K s.fresh then 1 else 0

/-- A leaf's page cannot be reached (R202, R390). -/
def pathGone (s : State) (leaf : Word) : Bool := pteUa leaf || (pteTr leaf && portLost s (pteCl leaf))

/-- The current leaf of a page does not translate every byte of it (R204, R205): its layout, or a frame beyond its tier. -/
def leafMiss (s : State) (lvl : Nat) (e : Word) : Bool :=
  leafBroken e || decide (pteFrame e % leafFrames lvl ≠ 0) ||
    decide ((if pteTr e then cellarFrames s (pteCl e) else lineCapacity (retirements s) / 1024) < pteFrame e + leafFrames lvl)

/-- Why a page of `size` bytes cannot move to a new leaf (R270, R359): a lost path, or a frame beyond its tier. -/
def moveBad (s : State) (old new : Word) (size : Nat) : Option Cause :=
  let last := pteFrame new + size / 65536
  let room := if pteTr new then cellarFrames s (pteCl new) else lineCapacity (retirements s) / 1024
  if pathGone s old || pathGone s new then some .memPathLost
  else if room < last then some .illegal
  else none

/-- The migrations that run (R359). -/
def runningMigr (s : State) : List Migration := s.cmds.filterMap (·.migr)

/-- A MIGR ended with a cause and DATA (R270). -/
def Cmd.endMigr (c : Cmd) (cause : BitVec 8) (data : BitVec 32) : Cmd := { c.endWith cause data with migr := none }

/-- Lines of a page copied to its new frame (R359): the first poisoned one fails the command (R357). -/
def copyLines (m : Migration) (new : Word) : List Nat → State → State × Option Cause
  | [], s => (s, none)
  | j :: rest, s =>
    let src := pageKey m.old m.il (64 * j)
    if poisoned s src then (s, some .memPoison)
    else copyLines m new rest ((writeMain s (pageKey new m.il (64 * j)) (readBytes s src 64)).getD s)

/-- The lines of the blocks that the filter marks (R359). -/
def dirtyLines (m : Migration) : List Nat :=
  let n := m.size / 65536
  m.dirty.flatMap fun b => (List.range n).map fun i => b * n + i

/-- The bytes of the blocks that the filter marks. -/
def dirtyBytes (m : Migration) : Nat := m.dirty.length * (m.size / 1024)

/-- A round (R359): the filter is cleared, and the given lines are copied. -/
def migrRound (s : State) (id : Nat) (m : Migration) (new : Word) (lines : List Nat) : State :=
  let s1 := updCmd s id fun c => { c with migr := some { m with dirty := [] } }
  let r := copyLines m new lines s1
  match r.2 with
  | some e => updCmd r.1 id fun c => c.endMigr e.code 0
  | none => r.1

/-- MIGRATION_START (R359): round 0 copies the whole page. -/
def execMigrationStart (cmd : Nat) (s : State) : Res :=
  match cmdById s cmd with
  | none => .next s
  | some c =>
    let fail (e : Cause) : Res := .next (updCmd s cmd fun c => c.endMigr e.code 0)
    if c.cls ≠ 5 ∨ c.started ∨ c.result.isSome then .next s
    else if hazard s c ∨ 16 ≤ (runningMigr s).length then .next s
    else
      match c.pageWalk s with
      | .fail _ => if cancelled s c.ctx c.ginst then fail .cancelled else fail .pageFault
      | .leaf lvl at_ cur =>
        let size := leafBytes lvl
        if (runningMigr s).any (fun m => decide (m.leafAt = at_)) then .next s
        else if cancelled s c.ctx c.ginst then fail .cancelled
        else if leafMiss s lvl cur then fail .pageFault
        else if c.pageVa % size ≠ 0 ∨ pteFrame c.newLeaf % leafFrames lvl ≠ 0 ∨ pteKnd c.newLeaf ≠ pteKnd cur then
          fail .illegal
        else
          match moveBad s cur c.newLeaf size with
          | some e => fail e
          | none =>
            let m : Migration := ⟨0, [], size, at_, cur, pageIl s c.pageCtx c.pageVa size cur⟩
            let s1 := updCmd { s with fresh := s.fresh + 1 } cmd fun c => { c with started := true }
            .next (migrRound s1 cmd m c.newLeaf (List.range (size / 64)))

/-- MIGRATION_ROUND (R359): rounds 1 to 3, while the filter marks more than 16 KiB; after round 3 the mapping is kept. -/
def execMigrationRound (cmd : Nat) (s : State) : Res :=
  match cmdById s cmd with
  | none => .next s
  | some c =>
    match c.migr with
    | none => .next s
    | some m =>
      if dirtyBytes m ≤ 16384 then .next s
      else if m.round = 3 then .next (updCmd s cmd fun c => c.endMigr 0 1)
      else
        match moveBad s m.old c.newLeaf m.size with
        | some e => .next (updCmd s cmd fun c => c.endMigr e.code 0)
        | none => .next (migrRound s cmd { m with round := m.round + 1 } c.newLeaf (dirtyLines m))

/-- MIGRATION_SWITCH (R359, R360): the last blocks are copied, the leaf is written and its cached copy dropped, as one step:
the stall of writes. -/
def execMigrationSwitch (cmd : Nat) (s : State) : Res :=
  match cmdById s cmd with
  | none => .next s
  | some c =>
    match c.migr with
    | none => .next s
    | some m =>
      if 16384 < dirtyBytes m then .next s
      else
        match moveBad s m.old c.newLeaf m.size with
        | some e => .next (updCmd s cmd fun c => c.endMigr e.code 0)
        | none =>
          let r := copyLines m c.newLeaf (dirtyLines m) s
          match r.2, writeMain r.1 (mainKey m.leafAt) (natToBytes 8 c.newLeaf.toNat) with
          | some e, _ => .next (updCmd r.1 cmd fun c => c.endMigr e.code 0)
          | none, none => .next (updCmd r.1 cmd fun c => c.endMigr Cause.memPoison.code 0)
          | none, some s1 =>
            let x := ctxOf s1 c.pageCtx
            let s2 := setCtx s1 c.pageCtx { x with pteCache := x.pteCache.filter fun e => decide (e.1 ≠ m.leafAt) }
            .next (updCmd s2 cmd fun c => c.endMigr 0 0)

/-- A MIGR that can start now (R359). -/
def canMigrate (s : State) (c : Cmd) : Bool :=
  c.cls == 5 && !c.started && c.result.isNone &&
    !hazard s c && decide ((runningMigr s).length < 16) &&
    (match c.pageWalk s with
     | .leaf _ at_ _ => (runningMigr s).all fun m => decide (m.leafAt ≠ at_)
     | .fail _ => true)

/-- The next step of the migration engine. -/
def nextMigr (s : State) : Option Instr :=
  s.cmds.findSome? fun c =>
    match c.migr with
    | some m => if dirtyBytes m ≤ 16384 then some (.migrationSwitch c.id) else some (.migrationRound c.id)
    | none => if canMigrate s c then some (.migrationStart c.id) else none

end Sys2Proof.Machine
end

