-- ==== Sys2Proof/Machine/Remote.lean ====
section
/-! DEFINITION. Remote accesses and the connected group: R260, R312, R366 to R372. -/

namespace Sys2Proof.Machine

/-! The issuer's side (R371). -/

/-- A remote element of a parked lane: its bytes have come, or it has failed (R371). -/
def laneAnswer (s : State) (o : Outstanding) (f : FlightId) (k : LaneId) (pos : Nat) (r : Except Cause (List Byte)) : State :=
  updFlight s f fun x =>
    let l := x.lane k
    match l.st with
    | .parked (.remote a got bad left) =>
      let c : Park := match r with
        | .ok bs => .remote a (got ++ [(pos, bs)]) bad (left - 1)
        | .error e => .remote a got (bad ++ [(pos, e, o.handle)]) (left - 1)
      x.setLane k { l with st := .parked c }
    | _ => x

/-- Where a failed piece counts in its transfer: its offset and its child (R253). -/
def pieceWhere (s : State) (c : Cmd) (p child : Nat) : Nat × Nat :=
  match copyPiece s c p, c.cls.toNat with
  | some x, 1 => (x.off, x.child)
  | some x, 2 => (x.off, x.child)
  | _, _ => (p * c.redSize, child)

/-- A request of a piece answered: the bytes or the acknowledgement, or a cause that fails the piece (R253, R371). -/
def pieceAnswer (s : State) (id p child : Nat) (r : Except Cause (List Byte)) : State :=
  match cmdById s id with
  | none => s
  | some c =>
    let n := (pieceSize s c p).getD 0
    let w := pieceWhere s c p child
    updCmd s id fun c =>
      let d := { c with open_ := c.open_.filter fun x => decide (x ≠ (p, child)) }
      if c.done.contains p then d
      else match r with
        | .ok bs => { d with got := d.got ++ [(p, child, bs)] }
        | .error e => d.pieceFail p n w.1 w.2 e

/-- An open request that fails without the peer (R369, R371): PEER_UNREACHABLE for its owner. -/
def loseRequest (s : State) (o : Outstanding) : State :=
  let s1 := { s with outstanding := s.outstanding.filter fun x => decide (x.id ≠ o.id) }
  match o.owner with
  | .lane f k pos => laneAnswer s1 o f k pos (.error .peerUnreachable)
  | .store f k => dropStore s1 f o.ctx k 1 o.peer Cause.peerUnreachable.code o.handle
  | .piece id p child => pieceAnswer s1 id p child (.error .peerUnreachable)

/-- The error-queue record of a remote load that the peer failed (R371, R373). -/
def remoteRecord (s : State) (o : Outstanding) (code : BitVec 8) : State :=
  match o.owner with
  | .lane f k _ => errReport s o.ctx code { src := 2, flight := f, lane := k.val, peer := o.peer, tag := 0 } o.handle 0
  | _ => s

/-- An open request that the peer failed with a cause (R371). -/
def failRequest (s : State) (o : Outstanding) (code : BitVec 8) : State :=
  let s1 := { s with outstanding := s.outstanding.filter fun x => decide (x.id ≠ o.id) }
  match o.owner with
  | .lane f k pos => laneAnswer (remoteRecord s1 o code) o f k pos (.error .remoteLoadFail)
  | .store f k => dropStore s1 f o.ctx k 1 o.peer code o.handle
  | .piece id p child => pieceAnswer s1 id p child (.error ((Cause.ofCode code).getD .remoteLoadFail))

/-- An open request that the peer has performed (R371). -/
def endRequest (s : State) (o : Outstanding) (bs : List Byte) : State :=
  let s1 := { s with outstanding := s.outstanding.filter fun x => decide (x.id ≠ o.id) }
  match o.owner with
  | .lane f k pos => laneAnswer s1 o f k pos (.ok bs)
  | .store _ _ => s1
  | .piece id p child => pieceAnswer s1 id p child (.ok bs)

/-- An open request by its number. -/
def requestById (s : State) (id : Nat) : Option Outstanding := s.outstanding.find? fun o => decide (o.id = id)

/-- What an answer does with the request that it answers (R371). -/
def answered (s : State) (o : Outstanding) (a : RemAnswer) : State :=
  match a with
  | .data bs => endRequest s o bs
  | .done => endRequest s o []
  | .fail code => failRequest s o code
  | .notCurrent => loseRequest s o

/-- REMOTE_ANSWER (R368, R371): the peer's answer to a request. A packet of another generation is dropped and answered as not current; the
answer that a packet was not current is taken whatever its generation (log entry 26). -/
def execRemoteAnswer (id : ReplyTo) (a : RemAnswer) (s : State) : Res :=
  if id.gen ≠ s.podgen ∧ a ≠ .notCurrent then .next (answerStale s id.pkg)
  else
    match requestById s id.id with
    | none => .next s
    | some o => if o.peer = id.pkg then .next (answered s o a) else .next s

/-- The timeout of an open request has come: 2^24 local cycles of the issuing die (R371). -/
def timedOut (s : State) (o : Outstanding) : Bool := decide (o.start.toNat + 2 ^ 24 ≤ (ccountOf s o.die).toNat)

/-- REMOTE_TIMEOUT (R371, R372). -/
def execRemoteTimeout (id : Nat) (s : State) : Res :=
  match requestById s id with
  | none => .next s
  | some o => if timedOut s o then .next (loseRequest (markLost s o.peer) o) else .next s

/-- A keep-alive restarts the timeout of a request: a store of a lane gets none (R371). -/
def Outstanding.extended (o : Outstanding) (now : Word) : Outstanding :=
  match o.owner with
  | .store _ _ => o
  | _ => { o with start := now }

/-- KEEP_ALIVE (R368, R371). -/
def execKeepAlive (id : ReplyTo) (s : State) : Res :=
  if id.gen ≠ s.podgen then .next (answerStale s id.pkg)
  else
    .next { s with outstanding := s.outstanding.map fun o =>
      if o.id = id.id ∧ o.peer = id.pkg then o.extended (ccountOf s o.die) else o }

/-! The peer's side (R370, R371). -/

/-- The handle that a request names in this package (R370). -/
def reqHandle (r : RemRequest) : Word := .cast (by rfl) (r.pbuf ++ BitVec.ofNat 52 r.off)

/-- The bytes that a request touches, and the right that it needs (R370). -/
def reqLen (r : RemRequest) : Nat :=
  match r.op with
  | .load n => n
  | .store bs => bs.length
  | .atomic _ wide _ _ => if wide then 8 else 4
  | .counted bs _ _ => bs.length
def reqRight (r : RemRequest) : Right :=
  match r.op with
  | .load _ => .rd
  | .atomic _ _ _ _ => .at_
  | _ => .wr

/-- ACC of a fault record for a request (R209, R254). -/
def reqAcc (r : RemRequest) : Nat :=
  match r.op with
  | .load _ => if r.eng then 4 else 0
  | .atomic _ _ _ _ => 2
  | _ => if r.eng then 5 else 1

/-- Bytes that landed for a counted transfer: the phaser counts them, and the message where they are the last (R260, R312).
A phaser that the issuing context does not hold counts nothing. -/
def countBytes (s : State) (ctx : BitVec 6) (num : BitVec 12) (n : Nat) (last : Bool) : State :=
  let key : PhKey := ⟨4, 0, num.toNat⟩
  if (phaserOf s key).owner = some ctx then expect s key (0 - BitVec.ofNat 48 n) (if last then 0xFFFFFFFF else 0) else s

/-- What the peer does with a request: an answer, or a wait for translation. -/
inductive PeerOut where
  | answer (s : State) (a : RemAnswer)
  | wait (kind : Nat) (va : BitVec 48)

/-- A store of a lane of this package has been performed here: the earlier stores of that lane that are not performed yet leave its bytes
as they are (R226, R370). -/
def ownCover (s : State) (r : RemRequest) (key n : Nat) : State :=
  if r.pkg ≠ s.host.pkgnum then s
  else
    match requestById s r.id with
    | some o => (match o.owner with | .store f k => coverHeld s f k r.id key n | _ => s)
    | none => s

/-- A request performed at a flat address (R236, R370, R371). `later`: what later writes of its lane have written (R226). -/
def peerPerform (s : State) (r : RemRequest) (later : List (Nat × Nat)) (key : Nat) : PeerOut :=
  let bad (c : Cause) : PeerOut := .answer s (.fail c.code)
  match r.op with
  | .load n => if poisoned s key then bad .memPoison else .answer s (.data (readBytes s key n))
  | .store bs =>
    (match writeMain s key (HeldPart.fill s ⟨reqHandle r, bs, later⟩ key) with
     | some s1 => .answer (ownCover s1 r key bs.length) .done
     | none => bad .memPoison)
  | .counted bs num last =>
    (match writeMain s key bs with
     | some s1 => .answer (countBytes s1 r.ctx num bs.length last) .done
     | none => bad .memPoison)
  | .atomic op wide v cmp =>
    let size := if wide then 8 else 4
    if !pathCarries s key (atomClass op size) then bad .atomicPath
    else if poisoned s key then bad .memPoison
    else
      let old := bytesToNat (readBytes s key size)
      let s1 := match atomNew op (8 * size) old (v.toNat % 2 ^ (8 * size)) (cmp.toNat % 2 ^ (8 * size)) with
        | some x => (writeMain s key (natToBytes size x)).getD s
        | none => s
      .answer s1 (.data (natToBytes size old))

/-- The range of a handle that a request needs checked (R202, R370). -/
def reqElem (r : RemRequest) : Elem := ⟨0, reqLen r, reqHandle r, decide (2 ^ 52 ≤ r.off)⟩

/-- The alignment that a request needs (R202, R236). -/
def reqAligned (r : RemRequest) : Bool :=
  match r.op with | .atomic _ wide _ _ => r.off % (if wide then 8 else 4) == 0 | _ => true

/-- The checks of a request against this package's own tables in `s0` (R202, R370), and its effect. -/
def peerAct (s0 s : State) (r : RemRequest) (later : List (Nat × Nat)) : PeerOut :=
  let bad (c : Cause) : PeerOut := .answer s (.fail c.code)
  if !(ctxOf s r.pctx).live then bad .contextEnded
  else
    match probeMain s0 r.pctx (reqRight r) (reqElem r) (reqAligned r) with
    | .trap c _ => bad c
    | .fault kind va => .wait kind va
    | .at_ key => peerPerform s r later key
    | _ => bad .space

/-- An answer sent to a request's package, where that belongs to the group (R368). -/
def sendAnswer (s : State) (r : RemRequest) (a : RemAnswer) : State :=
  if (groupEntry s r.pkg.toNat).getLsbD 63 then { s with outbox := s.outbox ++ [.answer r.pkg s.podgen r.id a] } else s

/-- A request acted on (R370): answered, or kept until its translation is answered. `arrived`, `kept`: its arrival and its
last keep-alive. -/
def peerAccess (s : State) (r : RemRequest) (arrived kept : Word) (later : List (Nat × Nat)) : State :=
  let s1 := if (ctxOf s r.pctx).live then noteHandle s 0 r.pctx (reqRight r) (reqElem r) (reqAligned r) else s
  match peerAct s s1 r later with
  | .answer t a => sendAnswer t r a
  | .wait kind va =>
    let s2 := pushFault s1 (faultRecord s r.pctx noFlight true 0 3 (reqAcc r) kind (reqHandle r) va 0)
    let w : Inbound := ⟨s2.uid, r, waitsOf [va], arrived, kept, later⟩
    { s2 with uid := s2.uid + 1, inbound := s2.inbound ++ [w] }

/-- PEER_REMOTE_ACCESS (R368, R370): a packet of another generation is answered as not current. -/
def execPeerRemoteAccess (r : RemRequest) (s : State) : Res :=
  if r.gen ≠ s.podgen then .next (sendAnswer s r .notCurrent) else .next (peerAccess s r s.hubcount s.hubcount [])

/-- A waiting request whose translation is answered (R371, R383). -/
def settleInbound (s : State) : Option State :=
  match s.inbound.find? fun x => x.waits.all fun w => w.answer.isSome with
  | none => none
  | some x =>
    let s1 := { s with inbound := s.inbound.filter fun y => decide (y.id ≠ x.id) }
    if x.waits.any fun w => w.answer == some false then some (sendAnswer s1 x.req (.fail Cause.pageFault.code))
    else some (peerAccess s1 x.req x.arrived x.kept x.later)

/-- A store of a flight: it gets no keep-alive (R371). -/
def reqIsStore (r : RemRequest) : Bool :=
  match r.op with
  | .store _ => !r.eng
  | _ => false

/-- REMOTE_STORE_DEADLINE (R371): a store that has waited for 2^22 local cycles of the hub is dropped. -/
def execRemoteStoreDeadline (id : Nat) (s : State) : Res :=
  match s.inbound.find? fun x => decide (x.id = id) with
  | none => .next s
  | some x =>
    if reqIsStore x.req && decide (x.arrived.toNat + 2 ^ 22 ≤ s.hubcount.toNat) then
      .next (sendAnswer { s with inbound := s.inbound.filter fun y => decide (y.id ≠ id) } x.req (.fail Cause.pageFault.code))
    else .next s

/-- KEEP_ALIVE_SEND (R371): every 2^20 local cycles of the hub. -/
def execKeepAliveSend (id : Nat) (s : State) : Res :=
  match s.inbound.find? fun x => decide (x.id = id) with
  | none => .next s
  | some x =>
    if !reqIsStore x.req && decide (x.kept.toNat + 2 ^ 20 ≤ s.hubcount.toNat) then
      .next { s with inbound := s.inbound.map (fun y => if y.id = id then { y with kept := s.hubcount } else y),
                     outbox := s.outbox ++ (if (groupEntry s x.req.pkg.toNat).getLsbD 63 then
                       [.keepAlive x.req.pkg s.podgen x.req.id] else []) }
    else .next s

/-- The next timer of a remote access that has run out. -/
def remoteTimer (s : State) : Option Instr :=
  match s.outstanding.find? (timedOut s) with
  | some o => some (.remoteTimeout o.id)
  | none =>
    s.inbound.findSome? fun x =>
      if reqIsStore x.req then
        (if x.arrived.toNat + 2 ^ 22 ≤ s.hubcount.toNat then some (.remoteStoreDeadline x.id) else none)
      else if x.kept.toNat + 2 ^ 20 ≤ s.hubcount.toNat then some (.keepAliveSend x.id) else none

/-- A message of this package to itself comes back through its hub (R370): the step, and the messages that remain. -/
def loopback (s : State) : List Message → Option (Instr × List Message)
  | [] => none
  | m :: rest =>
    let on := (loopback s rest).map fun x => (x.1, m :: x.2)
    match m with
    | .request p r => if p = s.host.pkgnum then some (.peerRemoteAccess r, rest) else on
    | .answer p gen id a => if p = s.host.pkgnum then some (.remoteAnswer ⟨p, gen, id⟩ a, rest) else on
    | .keepAlive p gen id => if p = s.host.pkgnum then some (.keepAlive ⟨p, gen, id⟩, rest) else on
    | _ => on

/-! The group (R366 to R369). -/

/-- A staging entry has a nonzero reserved bit (R367). -/
def groupReserved (w : Word) : Bool := w.extractLsb' 56 6 != 0 || w.extractLsb' 0 48 != 0

/-- A commit is refused (R368). -/
def commitBad (s : State) (gen : BitVec 32) : Bool :=
  !(assocGet 0 s.staging s.host.pkgnum.toNat).getLsbD 63 || gen == s.podgen || s.staging.any fun e => groupReserved e.2

/-- A pod-mode phaser gathers its condition over the new group (R369). -/
def regather (s : State) (k : PhKey) : State :=
  let p := phaserOf s k
  if !p.pod then s
  else
    let s1 := tellGroup s k p .claimed
    settlePhaser (if phaserMet p then tellGroup s1 k p .met else s1) k (phaserMet p)

/-- A command whose work lies in the group and has not completed (R369): MCAST and REDUCE at level POD. -/
def podWork (c : Cmd) : Bool := c.result.isNone && (c.cls == 2 || c.cls == 3) && decide (c.lvl = 5)

/-- A command of the group caught by a commit fails (R253, R369): at the first piece that is not done. -/
def cutPod (s : State) (c : Cmd) : Cmd :=
  let p := ((List.range c.total).find? fun p => !c.done.contains p).getD 0
  let w := pieceWhere s c p 0
  Cmd.finish { c with fails := ⟨w.1, w.2, .peerUnreachable⟩ :: c.fails, left := 0, waits := [], open_ := [] }

/-- A commit in force (R368), and the work that it catches (R369). -/
def commit (s : State) (gen : BitVec 32) : State :=
  let table := (s.staging.filter fun e => e.2.getLsbD 63).map fun e => (e.1, e.2 &&& 0xBFFFFFFFFFFFFFFF#64)
  let s0 := { s with cmds := s.cmds.map fun c => if podWork c then cutPod s c else c }
  let s1 : State := s0.outstanding.foldl loseRequest { s0 with group := table, podgen := gen, committed := true, podPeers := [] }
  let s2 : State := s1.inbound.foldl (fun t x => sendAnswer t x.req .notCurrent) s1
  let s3 : State := { s2 with inbound := [] }
  (s3.phasers.map (·.1)).foldl regather s3

/-- GENCOMMIT (R368, R369). -/
def execGencommit (v : Word) (s : State) : Res :=
  let gen := v.extractLsb' 0 32
  if commitBad s gen then .next (hubEvent s evCommitRefused Cause.illegal.code 0 v 0) else .next (commit s gen)

/-- Some context is live. -/
def anyLive (s : State) : Bool := s.contexts.toList.any fun c => c.live

/-- PKGNUM_WRITE (R366): before the first commit the group is the package alone. -/
def execPkgnumWrite (v : Word) (s : State) : Res :=
  if anyLive s then .next s
  else
    let n := v.extractLsb' 0 10
    let s1 := { s with host := { s.host with pkgnum := n } }
    .next (if s.committed then s1 else { s1 with group := [(n.toNat, 0x8000000000000000#64)] })

end Sys2Proof.Machine
end

