-- ==== Sys2Proof/Machine/Context.lean ====
section
/-! DEFINITION. Contexts, invalidation and fault answers: R196, R203, R209, R379 to R381, R383, R384. -/

namespace Sys2Proof.Machine

/-! Creating a context (R380, R381). -/

/-- The descriptor of a context in main memory (R379, R380). -/
def descAddr (s : State) (ctx : BitVec 6) : Nat := (s.host.ctxtab.extractLsb' 0 48).toNat + 64 * ctx.toNat

/-- A descriptor that a create accepts (R380, R381): V = 1 and no reserved bit set. -/
def descOk (ws : List Word) : Bool :=
  let w (i : Nat) : Word := ws.getD i 0
  (w 0).getLsbD 63 && (w 0).extractLsb' 48 15 == 0 && (w 1).extractLsb' 48 16 == 0 && (w 2).extractLsb' 48 16 == 0 &&
    (w 3).extractLsb' 32 20 == 0 && (w 4).extractLsb' 48 8 == 0 && (w 4).extractLsb' 60 4 == 0 &&
    (w 5).extractLsb' 16 48 == 0 && w 6 == 0 && w 7 == 0

/-- CTX and OP of CTXCTL (R379). -/
def ctlCtx (v : Word) : BitVec 6 := v.extractLsb' 0 6
def ctlOp (v : Word) : Nat := (v.extractLsb' 8 2).toNat

/-- CTXCTL_CREATE (R381). -/
def execCtxctlCreate (v : Word) (s : State) : Res :=
  let ctx := ctlCtx v
  let at_ := descAddr s ctx
  let ws := readWords s (mainKey at_) 8
  let s1 := { s with host := { s.host with ctxctl := v &&& 0x7FFFFFFFFFFFFFFF } }
  if ctlOp v ≠ 1 then .next s
  else if (ctxOf s ctx).live || poisoned s (mainKey at_) || !descOk ws then .next (requestDone s1 Cause.illegal.code v)
  else .next (setCtx s1 ctx { Context.blank with live := true, desc := tab fun i => ws.getD i.val 0 })

/-! Ending a context (R196, R333, R381). -/

/-- The flights of a context leave their cores, with their grid operations. -/
def dropFlights (s : State) (ctx : BitVec 6) : State :=
  ((allFlights s).filter fun f => decide (f.ctx = ctx)).foldl (fun s f => removeFlight (dropGridOps s f.id) f.id) s

/-- Lines set to zero and FREE (R196). -/
def freeLine (s : State) (line : Nat) : State :=
  setLine (writeBytes s (64 * line) (List.replicate 64 0)) line .free

/-- The lines tagged with a context (R196). -/
def linesOf (s : State) (ctx : BitVec 6) : List Nat :=
  (s.lines.filter fun e => decide (e.2.owner = some ctx)).map (·.1)

/-- The lines of a context freed (R196), with the PRELs that had not taken effect on them. -/
def freeLines (s : State) (ctx : BitVec 6) : State :=
  let ls := linesOf s ctx
  let s1 := ls.foldl freeLine s
  { s1 with prels := s1.prels.filter fun p =>
      let line := match p.sp with
        | .hall => lineOf (hallKey p.unit 0) + p.line
        | .gallery => lineOf (galleryKey p.unit 0) + p.line
        | .mezzanine => lineOf (mezzKey p.unit 0) + p.line
      !ls.contains line }

/-- The segment fetches of a context dropped; a slot that was LOADING for one becomes ABSENT. -/
def dropFetches (s : State) (ctx : BitVec 6) : State :=
  { s with cores := s.cores.map fun e =>
      let gone := e.2.fetches.filter fun f => decide (f.src.ctx = ctx)
      let slots := tab fun i => if gone.any fun f => decide (f.slot = i.val) then SlotSt.absent else e.2.slots.get i
      (e.1, { e.2 with fetches := e.2.fetches.filter (fun f => decide (f.src.ctx ≠ ctx)), slots := slots }) }

/-- The images of a context's flights in the swap areas dropped. -/
def dropImages (s : State) (ctx : BitVec 6) : State :=
  let ids := ((allFlights s).filter fun f => decide (f.ctx = ctx)).map (·.id)
  { s with images := s.images.filter fun i =>
      match i.swapped with
      | some f => !ids.contains f
      | none => decide (i.flight.ctx ≠ ctx) }

/-- The packages that placed members of a context here hear that they have ended with it (R287, R381). -/
def tellHomes (s : State) (ctx : BitVec 6) : State :=
  (s.grids.filter fun g => decide (g.ctx = ctx)).foldl (fun s g =>
    match g.home with
    | none => s
    | some (p, id) =>
      let left := (g.members.filter fun m => !m.retired).map (fun m => memIndex g.words m.team m.mem) ++ g.redo
      left.foldl (fun s i => tellRetired s p id (i / recMemb g.words) (i % recMemb g.words) (some Cause.contextEnded.code)) s) s

/-- The phasers of a context become free (R307, R381). -/
def dropPhasers (s : State) (ctx : BitVec 6) : State :=
  ((s.phasers.filter fun p => decide (p.2.owner = some ctx)).map (·.1)).foldl freePhaser
    s

/-- The records, commands and reports of a context dropped, without resolving a future (R381). -/
def dropWork (s : State) (ctx : BitVec 6) : State :=
  let gids := (s.grids.filter fun g => decide (g.ctx = ctx)).map (·.id)
  let gone := s.inbound.filter fun x => decide (x.req.pctx = ctx)
  let s0 := tellHomes (dropPhasers s ctx) ctx
  let s1 := { s0 with grids := s0.grids.filter (fun g => decide (g.ctx ≠ ctx)),
                      bars := s0.bars.filter (fun b => !gids.contains b.1.grid),
                      barOwed := s0.barOwed.filter (fun r => !gids.contains r.grid) }
  let s2 := { s1 with cmds := s1.cmds.filter (fun c => decide (c.ctx ≠ ctx)),
                      dues := s1.dues.filter (fun d => decide (d.ctx ≠ ctx)),
                      conts := s1.conts.filter (fun c => decide (c.ctx ≠ ctx)) }
  let s3 := { s2 with outstanding := s2.outstanding.filter (fun o => decide (o.ctx ≠ ctx)),
                      tokens := s2.tokens.filter (fun t => decide (t.1 ≠ ctx)),
                      inbound := s2.inbound.filter (fun x => decide (x.req.pctx ≠ ctx)) }
  gone.foldl (fun s x => sendAnswer s x.req (.fail Cause.contextEnded.code)) s3

/-- A context ends (R196, R381), with the cause that its event carries. -/
def endContext (s : State) (ctx : BitVec 6) (code : BitVec 8) : State :=
  let s1 := dropFetches (dropFlights (dropImages s ctx) ctx) ctx
  let s2 := setCtx (freeLines (dropWork s1 ctx) ctx) ctx Context.blank
  hubEvent (settleResv s2) evContextEnded code ctx 0 0

/-- CTXCTL_END (R381). -/
def execCtxctlEnd (v : Word) (s : State) : Res :=
  if ctlOp v ≠ 2 ∨ (ctxOf s (ctlCtx v)).live = false then .next s
  else
    .next (endContext { s with host := { s.host with ctxctl := v &&& 0x7FFFFFFFFFFFFFFF } } (ctlCtx v)
      Cause.contextEnded.code)

/-! Answers to faults (R207 to R209, R254, R383). -/

/-- A wait that an answer of a unit settles. -/
def Wait.answered (w : Wait) (vpn : BitVec 32) (a : Bool) : Wait :=
  if w.vpn = vpn ∧ w.answer.isNone then { w with answer := some a } else w

/-- Waits that an answer of a unit settles. -/
def answerWaits (vpn : BitVec 32) (a : Bool) (ws : List Wait) : List Wait := ws.map fun w => w.answered vpn a

/-- A park with its waits answered. -/
def Park.answered (vpn : BitVec 32) (a : Bool) : Park → Park
  | .fault x ws => .fault x (answerWaits vpn a ws)
  | .future sp x d w set k ws => .future sp x d w set k (answerWaits vpn a ws)
  | c => c

/-- A flight of the context with its waits answered: parked lanes, held stores, and the load of its image. -/
def Flight.answered (f : Flight) (vpn : BitVec 32) (a : Bool) : Flight :=
  let f1 := f.mapLanes fun _ l =>
    match l.st with
    | .parked c => { l with st := .parked (Park.answered vpn a c) }
    | _ => l
  { f1 with held := f1.held.map (fun h => { h with waits := answerWaits vpn a h.waits }),
            awaitImage := f1.awaitImage.map (answerWaits vpn a) }

/-- A command with its waits answered. -/
def Cmd.answered (ctx : BitVec 6) (vpn : BitVec 32) (a : Bool) (c : Cmd) : Cmd :=
  if c.ctx = ctx then
    { c with waits := c.waits.map (fun w => (w.1, answerWaits vpn a w.2)), futWaits := answerWaits vpn a c.futWaits }
  else c

/-- Work of an agent with its waits answered. -/
def Due.answered (ctx : BitVec 6) (vpn : BitVec 32) (a : Bool) (d : Due) : Due :=
  if d.ctx = ctx then { d with waits := answerWaits vpn a d.waits } else d

/-- An access of another package with its waits answered. -/
def Inbound.answered (ctx : BitVec 6) (vpn : BitVec 32) (a : Bool) (x : Inbound) : Inbound :=
  if x.req.pctx = ctx then { x with waits := answerWaits vpn a x.waits } else x

/-- A firmware fetch with its waits answered. -/
def Fetch.answered (ctx : BitVec 6) (vpn : BitVec 32) (a : Bool) (f : Fetch) : Fetch :=
  if f.src.ctx = ctx then { f with waits := answerWaits vpn a f.waits } else f

/-- A core whose fetches have their waits answered. -/
def Core.answered (ctx : BitVec 6) (vpn : BitVec 32) (a : Bool) (e : Core) : Core :=
  { e with fetches := e.fetches.map (Fetch.answered ctx vpn a) }

/-- Every access of a context that waits on a unit is answered (R383). -/
def answerUnit (s : State) (ctx : BitVec 6) (vpn : BitVec 32) (a : Bool) : State :=
  let s1 := mapFlights s fun f => if f.ctx = ctx then f.answered vpn a else f
  let cmds := s1.cmds.map (Cmd.answered ctx vpn a)
  let dues := s1.dues.map (Due.answered ctx vpn a)
  let inbound := s1.inbound.map (Inbound.answered ctx vpn a)
  let cores := s1.cores.map fun e => (e.1, e.2.answered ctx vpn a)
  { s1 with cmds := cmds, dues := dues, inbound := inbound, cores := cores }

/-- CTX, ACT and VPN of FANS (R383). -/
def fansCtx (v : Word) : BitVec 6 := v.extractLsb' 58 6
def fansAct (v : Word) : Nat := (v.extractLsb' 56 2).toNat
def fansVpn (v : Word) : BitVec 32 := v.extractLsb' 16 32

/-- FANS_RESOLVE (R383). -/
def execFansResolve (v : Word) (s : State) : Res :=
  if fansAct v = 1 then .next (answerUnit { s with host := { s.host with fans := v } } (fansCtx v) (fansVpn v) true)
  else .next s

/-- FANS_REFUSE (R383). -/
def execFansRefuse (v : Word) (s : State) : Res :=
  if fansAct v = 2 then .next (answerUnit { s with host := { s.host with fans := v } } (fansCtx v) (fansVpn v) false)
  else .next s

/-! Invalidation (R203, R384). -/

/-- Addresses of the entries that a walk can reach when each entry is read in either way (R203, R204). -/
def walkPaths (rds : List (Nat → Word)) (va : Nat) : List (Nat × Nat × Nat × Nat) → Nat → List Nat
  | [], _ => []
  | (_, lo, bits, _) :: rest, table =>
    let a := table + 8 * (va / 2 ^ lo % 2 ^ bits)
    a :: rds.flatMap fun rd => if pteV (rd a) && !pteLf (rd a) then walkPaths rds va rest (pteAddr (rd a)) else []

/-- The page-table entries that cover a unit, each by its cached copy or by memory (R384). -/
def coveringEntries (s : State) (ctx : BitVec 6) (vpn : BitVec 32) : List Nat :=
  let c := ctxOf s ctx
  let now (a : Nat) : Word := readWord s (mainKey a)
  let old (a : Nat) : Word := (c.pteCache.lookup a).getD (now a)
  walkPaths [now, old] (65536 * vpn.toNat) walkLevels (ptRoot c)

/-- The copies that an invalidation names dropped (R384); kind 0 reads the descriptor again (R380). -/
def dropCopies (s : State) (v : Word) : State :=
  let ctx : BitVec 6 := v.extractLsb' 58 6
  let c := ctxOf s ctx
  if !c.live then s
  else
    match (v.extractLsb' 56 2).toNat with
    | 0 =>
      let at_ := descAddr s ctx
      let ws := readWords s (mainKey at_) 8
      let c1 := { c with bufCache := [], pteCache := [], scopeCache := [] }
      if poisoned s (mainKey at_) then storageEvent (setCtx s ctx c1) 0 (mainKey at_) 3
      else setCtx s ctx { c1 with desc := tab fun i => ws.getD i.val 0 }
    | 1 => setCtx s ctx { c with bufCache := c.bufCache.filter fun e => decide (e.1 ≠ (v.extractLsb' 0 12).toNat) }
    | 2 =>
      let gone := coveringEntries s ctx (v.extractLsb' 16 32)
      setCtx s ctx { c with pteCache := c.pteCache.filter fun e => !gone.contains e.1 }
    | _ => setCtx s ctx { c with scopeCache := [] }

/-- A write of INVAL (R384): BUSY from now on. An invalidation that is still under way completes first. -/
def invalWord (s : State) (kind : Nat) (v : Word) : State :=
  if (v.extractLsb' 56 2).toNat ≠ kind then s
  else
    let s1 := if s.host.invalBusy then dropCopies s s.host.inval else s
    { s1 with host := { s1.host with inval := v, invalBusy := true } }

/-- INVAL_CONTEXT (R384). -/
def execInvalContext (v : Word) (s : State) : Res := .next (invalWord s 0 v)
/-- INVAL_BUFFER (R384). -/
def execInvalBuffer (v : Word) (s : State) : Res := .next (invalWord s 1 v)
/-- INVAL_PAGE (R384). -/
def execInvalPage (v : Word) (s : State) : Res := .next (invalWord s 2 v)
/-- INVAL_SCOPE (R384). -/
def execInvalScope (v : Word) (s : State) : Res := .next (invalWord s 3 v)

/-- Every access that used an old copy has ended (R384): the others read their entries again when they go on. -/
def invalReady (s : State) : Bool :=
  s.host.invalBusy && s.outstanding.all fun o => decide (o.ctx ≠ s.host.inval.extractLsb' 58 6)

/-- INVAL_COMPLETE (R203, R384): the copies are dropped and BUSY clears. -/
def execInvalComplete (s : State) : Res :=
  if invalReady s then
    let s1 := dropCopies s s.host.inval
    .next { s1 with host := { s1.host with invalBusy := false } }
  else .next s

/-! Fault records (R209, R379). -/

/-- FAULT_RECORD_WRITE (R209): the oldest waiting record, while the ring has room. -/
def execFaultRecordWrite (s : State) : Res :=
  match s.faultWait with
  | [] => .next s
  | r :: rest =>
    let base := s.host.frbase
    if (s.host.frprod - s.host.frcons).toNat < ringSize base then
      let s1 := hubWrite s (ringAddr base + 64 * (s.host.frprod.toNat % ringSize base)) r
      .next { s1 with faultWait := rest, host := { s1.host with frprod := s1.host.frprod + 1 } }
    else .next s

end Sys2Proof.Machine
end

