-- ==== Sys2Proof/Machine/Package.lean ====
section
/-! DEFINITION. The package's own events: R14, R332 to R335, R344 to R365, R390, R395. -/

namespace Sys2Proof.Machine

/-! Time (R14, R4). -/

/-- CCOUNT_INCREMENT (R4, R14): one local cycle of the die whose turn it is, a compute die or the hub; log entry 3. -/
def execCcountIncrement (s : State) : Res := .next (tick { s with turn := (s.turn + 1) % 8 } s.turn)

/-! Errors (R332 to R335). -/

/-- SCRUB (R332): the corrected errors are counted. -/
def execScrub (die fixed : Nat) (s : State) : Res :=
  let d := dieOf s die
  .next (if d.present && decide (die < 4) then setDie s die { d with corrected := d.corrected + fixed, scrubbed := d.ccount }
    else s)

/-- The line of a space as a line of the flat address space, its die, and SP (R41). -/
def spaceLine (sp : Space) (unit line : Nat) : Nat × Nat × Nat :=
  match sp with
  | .hall => (lineOf (hallKey unit 0) + line, unit / 48, 0)
  | .gallery => (lineOf (galleryKey unit 0) + line, unit / 6, 1)
  | .mezzanine => (lineOf (mezzKey unit 0) + line, unit, 2)

/-- A flight image lies on a line of a mezzanine (R333). -/
def imageOn (s : State) (die line : Nat) : Option ImageSide :=
  s.images.find? fun i => decide (i.die = die ∧ i.addr < 64 * line + 64 ∧ 64 * line < i.addr + imageBytes)

/-- The join future of a dropped record faulted (R289, R351). -/
def dropRecord (ctx : BitVec 6) (c : Cause) (s : State) (ws : List Word) : State :=
  pushDue s ctx 0 (recJoin ws) (some c.code) (recInst ws)

/-- A registration in an image dropped (R309, R310). -/
def dropSaved (s : State) (r : PhReg) : State :=
  let p := phaserOf s r.key
  settlePhaser (setPhaser s r.key (p.dropped r)) r.key (phaserMet p)

/-- A member has no leader any more (R289). -/
def noLeader (s : State) (r : MemberRef) : State :=
  updGrid s r.grid fun g => { g with members := g.members.map fun m =>
    if m.team = r.team ∧ m.mem = r.mem then { m with leader := none } else m }

/-- A flight that left its core for its image is gone with it: its pending records are dropped, its registrations, and its member's
leader. -/
def forgetImage (s : State) (i : ImageSide) (c : Cause) : State :=
  let s1 := { s with images := s.images.filter fun x => !decide (x.die = i.die ∧ x.addr = i.addr ∧ x.swapped = none) }
  let s2 := i.flight.phregs.foldl dropSaved (i.flight.launches.foldl (dropRecord i.flight.ctx c) s1)
  match i.flight.member with
  | none => s2
  | some r => noLeader s2 r

/-- The member of a flight whose image is lost ends (R333): of a live flight, or of one that left its core for the image. -/
def loseImage (s : State) (i : ImageSide) : State :=
  match i.swapped with
  | some f => (match flightOf s f with | some x => endMember s x .memPoison | none => s)
  | none =>
    if i.freed then
      let s1 := match i.flight.member with | some r => failMember s r .memPoison | none => s
      forgetImage s1 i .memPoison
    else
      match flightOf s i.flight.id with
      | some x => if x.member = i.flight.member then endMember s x .memPoison else s
      | none => s

/-- UNCORRECTABLE_LINE_ERROR (R333): a line of an image is bad until an image is written over it (R341). -/
def execUncorrectableLineError (sp : Space) (unit line : Nat) (s : State) : Res :=
  let x := spaceLine sp unit line
  let s1 := storageEvent s x.2.1 (64 * line) x.2.2
  match (match sp with | .mezzanine => imageOn s unit line | _ => none), (lineSt s x.1).owner with
  | some i, _ => .next (loseImage { s1 with poison := if s1.poison.contains x.1 then s1.poison else x.1 :: s1.poison } i)
  | none, some c => .next (endContext s1 c Cause.memPoison.code)
  | none, none => .next (writeBytes s1 (64 * x.1) (List.replicate 64 0))

/-- INSTRUCTION_STORE_ERROR (R18, R334). -/
def execInstructionStoreError (core slot : Nat) (s : State) : Res :=
  .next (setSlot s core slot .absent ((coreOf s core).src.get (Fin.ofNat 32 slot)))

/-- The granule that an error strikes, as reads name it (R335, R336): a predicate error strikes the whole byte. -/
def struckGran (sel : BitVec 8) (gran : BitVec 3) : Option Gran :=
  match srcOf sel with
  | some (.g i) => if i = 0 then none else some ⟨sel, 0⟩
  | some (.v _) => some ⟨sel, gran⟩
  | some (.p _) => some ⟨0x60, 0⟩
  | some (.latch _) => some ⟨sel, gran⟩
  | _ => none

/-- REGISTER_FILE_ERROR (R335): the granule is faulty until it is written whole. -/
def execRegisterFileError (f : FlightId) (l : LaneId) (sel : BitVec 8) (gran : BitVec 3) (s : State) : Res :=
  match struckGran sel gran with
  | none => .next s
  | some x => .next (updFlight s f fun y =>
      let k := y.lane l
      if k.faulty.contains x then y else y.setLane l { k with faulty := k.faulty ++ [x] })

/-! The loss of a compute die (R350 to R352). -/

/-- A unit lies on a die. -/
def unitOnDie (u : HwUnit) (n : Nat) : Bool := decide (u.lvl ≤ 3) && decide ((HwUnit.up u 3).num = n)

/-- A placed member is lost with a die (R346). -/
def memberOnDie (m : Member) (n : Nat) : Bool :=
  !m.retired && (unitOnDie m.unit n || (match m.leader with | some f => decide (f.die = n) | none => false))

/-- The members that a die takes with it. -/
def lostMembers (s : State) (n : Nat) : List MemberRef :=
  s.grids.flatMap fun g => (g.members.filter fun m => memberOnDie m n).map fun m => ⟨g.id, m.team, m.mem⟩

/-- The grids that were launched inside lost members, at any depth (R351 step 2). -/
def lostGrids (s : State) (ms : List MemberRef) : List Nat :=
  (s.grids.filter fun g => g.line.any fun r => ms.contains r).map (·.id)

/-- The work of a lost flight dropped (R351 step 1): its pending launches, and its commands that have not completed. -/
def dropFlightWork (s : State) (x : Flight) : State :=
  let s1 := x.launches.foldl (dropRecord x.ctx .dieLost) s
  let isLost := s1.cmds.filter fun c => decide (c.flight = x.id) && c.result.isNone
  let s2 := { s1 with
    cmds := s1.cmds.filter (fun c => !(decide (c.flight = x.id) && c.result.isNone)),
    dues := s1.dues ++ (isLost.filter fun c => c.fut != 0).map fun c =>
      ⟨c.ctx, 0, c.fut, some Cause.dieLost.code, engTag c, []⟩ }
  updFlight s2 x.id fun y => { y with launches := [] }

/-- The flights of lost members that left their cores for images are gone (R351 steps 1 and 2). -/
def dropSavedFlights (s : State) (ms : List MemberRef) : State :=
  (s.images.filter fun i => i.freed && (match i.flight.member with | some r => ms.contains r | none => false)).foldl
    (fun s i => forgetImage s i .dieLost) s

/-- Every continuation that lost members, or members launched inside them, registered is one to drop (R351 step 1). -/
def dropConts (s : State) (ms : List MemberRef) : State :=
  { s with conts := s.conts.map fun c => if c.line.any fun r => ms.contains r then { c with dropped := true } else c }

/-- A grid that a die loss stops (R351 step 2): its members stop, and its join future will be faulted with DIE_LOST. -/
def stopGrid (s : State) (gid : Nat) : State :=
  match gridById s gid with
  | none => s
  | some g =>
    let s1 := updGrid s gid fun g => { g with stopped := true, cause := some (g.cause.getD .dieLost) }
    failMembers s1 g .dieLost

/-- The flights of a die leave it (R351 steps 1 and 3): their phaser registrations are dropped, and their open requests. -/
def clearFlights (s : State) (n : Nat) : State :=
  let isLost := (allFlights s).filter fun f => decide (f.id.die = n)
  let s1 := isLost.foldl (fun s f => dropRegs s f.id) s
  let s2 := freePhasers (isLost.foldl (fun s f => removeFlight s f.id) s1)
  { s2 with outstanding := s2.outstanding.filter fun o => decide (o.die ≠ n) }

/-- The segment fetches of a die are lost; a future of theirs is faulted. -/
def loseFetches (s : State) (n : Nat) : State :=
  s.cores.foldl (fun s e =>
    if e.1 / 48 = n then
      e.2.fetches.foldl (fun s f => pushDue s f.src.ctx 0 f.fut (some Cause.dieLost.code) 0) s
    else s) s

/-- A flat address on a die: halls, galleries, the mezzanine and instruction stores. -/
def keyOnDie (key n : Nat) : Bool :=
  let within (lo hi : Nat) : Bool := decide (lo ≤ key) && decide (key < hi)
  within (hallKey (48 * n) 0) (hallKey (48 * n + 48) 0) || within (galleryKey (6 * n) 0) (galleryKey (6 * n + 6) 0) ||
    within (mezzKey n 0) (mezzKey (n + 1) 0) || within (storeKey (48 * n) 0) (storeKey (48 * n + 48) 0)

/-- A phaser of a core, a cluster or a die lies on a die (R307). -/
def phaserOnDie (k : PhKey) (n : Nat) : Bool :=
  match k.lvl with
  | 1 => decide (k.inst / 48 = n)
  | 2 => decide (k.inst / 6 = n)
  | 3 => decide (k.inst = n)
  | _ => false

/-- What a die holds is gone (R351 steps 3 and 5): its memories, lines, slots, images, PRELs and phasers. -/
def wipeDie (s : State) (n : Nat) : State :=
  let s1 := { s with mem := s.mem.filter (fun c => !keyOnDie c.1 n),
                     lines := s.lines.filter (fun e => !keyOnDie (64 * e.1) n),
                     cores := s.cores.filter (fun e => decide (e.1 / 48 ≠ n)) }
  { s1 with images := s1.images.filter (fun i => decide (i.die ≠ n)),
            prels := s1.prels.filter (fun p => decide ((spaceLine p.sp p.unit 0).2.1 ≠ n)),
            phasers := s1.phasers.filter (fun e => !phaserOnDie e.1 n) }

/-- A place of a command lies on a die. -/
def placeOnDie (n : Nat) (x : Place × Word × Nat × Nat) : Bool :=
  match x.1 with
  | .chip .h u => decide (u / 48 = n)
  | .chip .g u => decide (u / 6 = n)
  | .chip _ u => decide (u = n)
  | _ => false

/-- Commands of other dies that need the lost die fail (R351 step 4). -/
def failCommands (s : State) (n : Nat) : State :=
  { s with cmds := s.cmds.map fun c =>
      if c.result.isNone && ((c.reads s).any (placeOnDie n) || (c.writes s).any (placeOnDie n)) then
        c.endWith Cause.dieLost.code 0 else c }

/-- The lost members of a grid placed again, or failed (R351 step 6, R352). `again`: a standby serves. A member that runs again launches
its descendants anew, so the old ones are no children of it; one that has failed waits for its children (R287, R289). -/
def redoGrid (s : State) (lost : List MemberRef) (again : Bool) (gid : Nat) : State :=
  match gridById s gid with
  | none => s
  | some g =>
    let isLost (m : Member) : Bool := lost.contains ⟨g.id, m.team, m.mem⟩
    if recReplay g.words && again && !g.stopped then
      let idx := (g.members.filter isLost).map fun m => memIndex g.words m.team m.mem
      let s1 := updGrid s gid fun g =>
        { g with redo := g.redo ++ (List.range (recTeams g.words * recMemb g.words)).filter (fun i => idx.contains i),
                 members := g.members.filter (fun m => !isLost m),
                 childFail := g.childFail.filter (fun e => !idx.contains e.1) }
      { s1 with grids := s1.grids.map fun x =>
          match x.parent with
          | some r => if r.grid = gid ∧ lost.contains r then { x with parent := none } else x
          | none => x }
    else
      let failed (m : Member) : Member := { m with leader := none, cause := some (m.cause.getD .dieLost) }
      updGrid s gid fun g => { g with members := g.members.map fun m => if isLost m then failed m else m }

/-- Cores and clusters of a die no longer hold the data of a grid's image (R275, R351). -/
def forgetData (s : State) (n : Nat) : State :=
  { s with grids := s.grids.map fun g =>
      { g with hallDone := g.hallDone.filter (fun c => decide (c / 48 ≠ n)),
               galDone := g.galDone.filter (fun c => decide (c / 6 ≠ n)) } }

/-- Barrier arrivals of lost members are gone. -/
def forgetBars (s : State) (ms : List MemberRef) : State :=
  { s with barOwed := s.barOwed.filter (fun r => !ms.contains r),
           bars := (s.bars.map fun b => (b.1, b.2.filter fun m => !ms.contains { b.1 with mem := m })).filter fun b =>
      b.2 != [] }

/-- The last reading of a sensor (R365). -/
def tempOf (s : State) (x : Sensor) : Nat := assocGet 0 s.power.temps x

/-- A logical number belongs to another die: its junction's reading is that of the standby die, or there is none (R365). -/
def moveTemps (s : State) (n : Nat) (standby : Bool) : State :=
  let t := tempOf s .standby
  let rest := s.power.temps.filter fun e => decide (e.1 ≠ .die (Fin.ofNat 4 n)) && decide (e.1 ≠ .standby)
  { s with power := { s.power with temps := if standby then (.die (Fin.ofNat 4 n), t) :: rest else rest } }

/-- The standby die serves as die n, or die n is absent (R351 steps 5 and 7, R352). -/
def replaceDie (s : State) (n : Nat) : State :=
  let s1 := moveTemps s n s.standby.isSome
  match s.standby with
  | some p => setDie { s1 with standby := none } n ⟨true, p, 0, 0, 0, decide (100 ≤ tempOf s .standby), none⟩
  | none => setDie s1 n ⟨false, (dieOf s n).phys, 0, 0, 0, false, none⟩

/-- Grids whose domain lies on a die that is now absent place nothing more (R352). -/
def closeDomains (s : State) (n : Nat) : State :=
  (s.grids.filter fun g => unitOnDie g.domain n).foldl (fun s g => dropUnplaced (stopGrid s g.id) g.id) s

/-- Stops and core switches that FLTCTL has under way on a die that is gone have failed (R387). -/
def loseFltctl (s : State) (n : Nat) : State :=
  (s.host.fltPending.filter fun w => decide ((w.extractLsb' 39 3).toNat = n)).foldl
    (fun s w => endFltctl s w Cause.dieLost.code) s

/-- A compute die declared lost (R350 to R352). -/
def loseDie (s : State) (n : Nat) : State :=
  if !(dieOf s n).present || decide (4 ≤ n) then s
  else
    let again := s.standby.isSome
    let lost := lostMembers s n
    let gids := lostGrids s lost
    let deep := lost ++ (s.grids.filter fun g => gids.contains g.id).flatMap fun g =>
      (g.members.filter fun m => !m.retired).map fun m => ⟨g.id, m.team, m.mem⟩
    let gone := (allFlights s).filter fun f => decide (f.id.die = n) ||
      (match f.member with | some r => deep.contains r | none => false)
    let s1 := dropConts (dropSavedFlights (gone.foldl dropFlightWork s) deep) lost
    let s2 := gids.foldl stopGrid s1
    let s3 := failCommands (clearFlights (loseFetches s2 n) n) n
    let s4 := replaceDie (wipeDie (forgetData (forgetBars s3 lost) n) n) n
    let s5 := hubEvent s4 evDieLost Cause.dieLost.code 0 (BitVec.ofNat 64 n) 0
    let s6 := (s5.grids.map (·.id)).foldl (fun s g => redoGrid s lost again g) s5
    loseFltctl (settleResv (if again then s6 else closeDomains s6 n)) n

/-- DIE_LOST (R350, R351). -/
def execDieLost (die : Nat) (s : State) : Res := .next (loseDie s die)

/-- HEARTBEAT_TIMEOUT (R4, R350): a heartbeat of a die is missed; when it has been missed for 2^20 local cycles of the hub, the die is
declared lost. -/
def execHeartbeatTimeout (die : Nat) (s : State) : Res :=
  let d := dieOf s die
  if !d.present || decide (4 ≤ die) then .next s
  else
    match d.silent with
    | none => .next (setDie s die { d with silent := some s.hubcount })
    | some t => if t.toNat + 2 ^ 20 ≤ s.hubcount.toNat then .next (loseDie s die) else .next s

/-- DIE_LINK_RETRAIN (R347): every promise is kept, and only timing changes; the die's heartbeat is heard again. -/
def execDieLinkRetrain (die : Nat) (s : State) : Res :=
  if 4 ≤ die then .next s else .next (setDie s die { dieOf s die with silent := none })

/-! The anneal (R353 to R358). -/

/-- The rank of the second retired stack among the seven survivors of the first. -/
def survivorRank (k1 k2 : Nat) : Nat := if k1 < k2 then k2 - 1 else k2

/-- Line 8w + r lies on stack k2 after stack k1 has been retired (R354). -/
def onSecond (k1 k2 w r : Nat) : Bool :=
  decide (r = k2) || (decide (r = k1) && decide (w % 7 = survivorRank k1 k2))

/-- The lines of seven rows from row w on that lie on the second stack, or do not, in ascending order, as row and place. -/
def sevenRows (k1 k2 w : Nat) (on : Bool) : List (Nat × Nat) :=
  (List.range 56).filterMap fun x =>
    let p := (w + x / 8, x % 8)
    if onSecond k1 k2 p.1 p.2 == on then some p else none

/-- The line of index i among the lines on the second stack from row 0, or those off it from row w (R354). -/
def secondLine (k1 k2 w : Nat) (on : Bool) (i : Nat) : Nat :=
  let rows := sevenRows k1 k2 w on
  match rows[i % rows.length]? with
  | some p => 8 * (p.1 + 7 * (i / rows.length)) + p.2
  | none => 0

/-- The index of a line on the second stack (R354). -/
def secondIndex (k1 k2 h : Nat) : Nat :=
  let w := h / 8
  let rows := sevenRows k1 k2 (w / 7 * 7) true
  w / 7 * rows.length + (rows.findIdx fun p => decide (8 * p.1 + p.2 = h))

/-- Locate after at most one retirement (R354). -/
def locate1 (k1 h : Nat) (a : Nat) : Nat × Nat :=
  if a = 0 ∨ h % 8 ≠ k1 then (h % 8, h / 8)
  else
    let j := h / 8 % 7
    (if j < k1 then j else j + 1, lineCapacity 1 / 8 + h / 8 / 7)

/-- Locate (R354): stack and row of a line after a retirements of stacks k1 and k2. -/
def locate (k1 k2 h a : Nat) : Nat × Nat :=
  if a < 2 then locate1 k1 h a
  else if (locate1 k1 h 1).1 ≠ k2 then locate1 k1 h 1
  else locate1 k1 (secondLine k1 k2 (lineCapacity 2 / 8) false (secondIndex k1 k2 h)) 1

/-- The lines that the current sweep moves (R354, R355). -/
def sweepTotal (a : Anneal) : Nat :=
  if a.count = 0 then lineCapacity 1 / 8
  else
    let rows := lineCapacity 2 / 8
    rows + (rows + 6 - survivorRank a.ret1.toNat a.stk.toNat) / 7

/-- The line of a sweep index (R354). -/
def sweepLine (a : Anneal) (i : Nat) : Nat :=
  if a.count = 0 then 8 * i + a.stk.toNat else secondLine a.ret1.toNat a.stk.toNat 0 true i

/-- A stack is retired. -/
def Anneal.retired (a : Anneal) (k : Nat) : Bool :=
  (decide (1 ≤ a.count.toNat) && decide (a.ret1.toNat = k)) || (decide (2 ≤ a.count.toNat) && decide (a.ret2.toNat = k))

/-- A journal copy on a stack that is to be retired moves to the lowest surviving stack without one (R348). -/
def moveJournal (s : State) : State :=
  let a := s.anneal
  let j := s.journal
  let other (x : Nat) : Nat :=
    ((List.range 8).find? fun k => decide (k ≠ a.stk.toNat) && decide (k ≠ x) && !a.retired k).getD x
  if j.1 = a.stk.toNat then { s with journal := (other j.2, j.2) }
  else if j.2 = a.stk.toNat then { s with journal := (j.1, other j.1) }
  else s

/-- A sweep can start (R355): the GEMVs that were running on the stack have completed. -/
def sweepReady (s : State) : Bool :=
  s.anneal.act && s.anneal.total == 0 && !s.cmds.any fun c => c.started && c.result.isNone && gemvParked s c

/-- SWEEP_START (R355 steps 3 and 4). -/
def execSweepStart (s : State) : Res :=
  if sweepReady s then
    let s1 := moveJournal s
    .next { s1 with anneal := { s1.anneal with total := BitVec.ofNat 32 (sweepTotal s1.anneal), next := 0 } }
  else .next s

/-- The retirement has taken full effect (R355 step 5, R388). -/
def endSweep (s : State) : State :=
  let a := s.anneal
  let b : Anneal :=
    { a with act := false, total := 0, next := 0, count := a.count + 1, ret1 := if a.count = 0 then a.stk else a.ret1,
             ret2 := if a.count = 0 then a.ret2 else a.stk }
  requestDone { s with anneal := b } 0 a.req

/-- LINE_MOVE (R354, R355, R357): `bad`, the old copy is lost and the line lands poisoned. -/
def execLineMove (bad : Bool) (s : State) : Res :=
  let a := s.anneal
  if !a.act || decide (a.total.toNat ≤ a.next.toNat) then .next s
  else
    let line := sweepLine a a.next.toNat
    let s1 := if bad && !s.poison.contains line then { s with poison := line :: s.poison } else s
    let s2 := { s1 with anneal := { a with next := a.next + 1 } }
    if a.next.toNat + 1 = a.total.toNat then .next (endSweep s2) else .next s2

/-! Power, temperature and monitors (R361 to R365, R395). -/

/-- The rate point at which a stack or the module cellar runs (R361, R364, R365): the lowest of what was asked for and what
heat and the limiter impose. -/
def rateOf (s : State) (unit : Nat) : BitVec 2 :=
  let p := s.power
  let asked := p.rate.get (Fin.ofNat 9 unit)
  if 8 ≤ unit then asked
  else
    let heat := p.heat.get (Fin.ofNat 8 unit)
    let lim : BitVec 2 := if p.limited then 1 else 0
    let x := if asked < heat then heat else asked
    if x < lim then lim else x

/-- RATE_POINT_IN_EFFECT (R361, R388). -/
def execRatePointInEffect (unit : Nat) (s : State) : Res :=
  match s.power.pending.find? fun p => decide (p.1 = unit) with
  | none => .next s
  | some p =>
    let w := { s.power with rate := s.power.rate.set (Fin.ofNat 9 unit) p.2.1,
                            pending := s.power.pending.eraseP fun q => decide (q.1 = unit) }
    .next (requestDone { s with power := w } 0 p.2.2)

/-- CURRENT_LIMIT_TRIP (R364). -/
def execCurrentLimitTrip (s : State) : Res :=
  if s.power.limited then .next s
  else .next { s with power := { s.power with limited := true, limiterEvents := s.power.limiterEvents + 1 } }

/-- CURRENT_LIMIT_RELEASE (R364). -/
def execCurrentLimitRelease (s : State) : Res := .next { s with power := { s.power with limited := false } }

/-- An idle cycle follows each run of a die (R364, R365). -/
def idleCycle (s : State) (die : Nat) : Bool := s.power.limited || (dieOf s die).idle

/-- The rate point that a stack's temperature imposes (R365). -/
def heatPoint (old : BitVec 2) (deg : Nat) : BitVec 2 :=
  if 105 ≤ deg ∨ (old = 2 ∧ 100 ≤ deg) then 2
  else if 95 ≤ deg ∨ (old ≠ 0 ∧ 90 ≤ deg) then 1
  else 0

/-- A junction at or above 95 °C reported to the host, once for each crossing (R365). -/
def thermalEvent (s : State) (old deg die : Nat) : State :=
  if old < 95 ∧ 95 ≤ deg then
    pushEvent s (eventRecord evThermal 0 0 ⟨die, 0, 0⟩ (BitVec.ofNat 64 deg) 0 s.hubcount)
  else s

/-- TEMPERATURE_THRESHOLD (R365). -/
def execTemperatureThreshold (at_ : Sensor) (deg : Nat) (s : State) : Res :=
  let old := assocGet 0 s.power.temps at_
  let s1 := { s with power := { s.power with temps := assocPut at_ deg s.power.temps } }
  match at_ with
  | .die n =>
    let s2 := thermalEvent s1 old deg n.val
    let d := dieOf s2 n.val
    let s3 := setDie s2 n.val { d with idle := decide (100 ≤ deg) || (d.idle && decide (95 ≤ deg)) }
    .next (if 110 ≤ deg then loseDie s3 n.val else s3)
  | .standby =>
    let s2 := thermalEvent s1 old deg 4
    .next (if 110 ≤ deg then { s2 with standby := none } else s2)
  | .hub =>
    let s2 := thermalEvent s1 old deg 0
    .next (if 110 ≤ deg then { s2 with power := { s2.power with shutDown := true } } else s2)
  | .stack k =>
    .next { s1 with power := { s1.power with heat := s1.power.heat.set k (heatPoint (s1.power.heat.get k) deg) } }

/-- The part's own counts as MONITORS presents them (R332, R364, R395): corrected errors of the dies, then limiter events. R395 gives
no offsets: DESIGN CHOICE (log entry 34). -/
def countReadings (s : State) : List (Nat × Word) :=
  ((List.range 4).map fun d => (0x4F00 + 8 * d, BitVec.ofNat 64 (dieOf s d).corrected)) ++
    [(0x4F20, BitVec.ofNat 64 s.power.limiterEvents)]

/-- MONITOR_REFRESH (R363, R395): the sensors' readings, and the part's own counts. -/
def execMonitorRefresh (readings : List (Nat × Word)) (s : State) : Res :=
  .next { s with power := { s.power with
    monitors := (readings ++ countReadings s).foldl (fun m r => assocPut r.1 r.2 m) s.power.monitors } }

/-! Cellar expanders (R389, R390). -/

/-- An expander port lost (R270, R390): running migrations that need it fail; what else is caught finds the path lost. -/
def losePort (s : State) (port : Fin 2) : State :=
  let x := s.expanders.get port
  let s1 := { s with expanders := s.expanders.set port { x with lost := true, waiting := none } }
  let s2 := { s1 with cmds := s1.cmds.map fun c =>
    match c.migr with
    | some m => if pathGone s1 m.old || pathGone s1 c.newLeaf then c.endMigr Cause.memPathLost.code 0 else c
    | none => c }
  hubEvent s2 evExpanderLost Cause.memPathLost.code 0 (BitVec.ofNat 64 port.val) 0

/-- EXPANDER_LOST (R4, R390): the port's link goes down, or a request to it has no completion; without one for 2^22 local cycles of the
hub the port is lost. -/
def execExpanderLost (port : PortSeen) (s : State) : Res :=
  let down := port.down
  let port := port.port
  let x := s.expanders.get port
  if !x.pres || x.lost then .next s
  else if down then .next (losePort s port)
  else
    match x.waiting with
    | none => .next { s with expanders := s.expanders.set port { x with waiting := some s.hubcount } }
    | some t => if t.toNat + 2 ^ 22 ≤ s.hubcount.toNat then .next (losePort s port) else .next s

/-- EXPANDER_LINK_UP (R388, R390): the retraining that a request began has ended; without one, the port has completed the request that
it was asked. -/
def execExpanderLinkUp (port : Fin 2) (up : Bool) (s : State) : Res :=
  let x := s.expanders.get port
  match x.up with
  | none => .next { s with expanders := s.expanders.set port { x with waiting := if up then none else x.waiting } }
  | some v =>
    let y := { x with up := none, lost := x.lost && !up, waiting := none }
    .next (requestDone { s with expanders := s.expanders.set port y } (if up then 0 else Cause.memPathLost.code) v)

/-! Timers of the hub and of fences (R4, R231, R350, R390). -/

/-- 2^20 local cycles of the hub have passed since a die's heartbeat is missed (R350). -/
def silentDie (s : State) : Option Instr :=
  ((List.range 4).find? fun d => (dieOf s d).silent.any fun t => decide (t.toNat + 2 ^ 20 ≤ s.hubcount.toNat)).map
    fun d => .heartbeatTimeout d

/-- 2^22 local cycles of the hub have passed since a port's request has no completion (R390). -/
def silentPort (s : State) : Option Instr :=
  ((List.finRange 2).find? fun i => !(s.expanders.get i).lost &&
    (s.expanders.get i).waiting.any fun t => decide (t.toNat + 2 ^ 22 ≤ s.hubcount.toNat)).map fun i => .expanderLost ⟨i, false⟩

/-- A fence at POD scope has waited for 2^24 local cycles of its die for a store of a lane (R231). -/
def lateFence (s : State) : Option Instr :=
  (allFlights s).findSome? fun f =>
    match f.stall with
    | some (.order lanes start true) =>
      if start.toNat + 2 ^ 24 ≤ (ccountOf s f.id.die).toNat then
        (allLanes.find? fun k => lanes.has k && s.outstanding.any fun o =>
          match o.owner with | .store g j => decide (g = f.id ∧ j = k) | _ => false).map fun k => .fencePodTimeout f.id k
      else none
    | _ => none

/-- The next of these timers that has run out. -/
def hubTimer (s : State) : Option Instr :=
  (silentDie s).orElse fun _ => (silentPort s).orElse fun _ => lateFence s

end Sys2Proof.Machine
end

