-- ==== Sys2Proof/Machine/HostRegs.lean ====
section
/-! DEFINITION. The host register block, service by the host, and the host's memory accesses: R282, R361, R378, R379, R382,
R385 to R388, R390, R394. -/

namespace Sys2Proof.Machine

/-! Fields that SVCCTL and FLTCTL share (R385, R387). -/

def ctlAct (v : Word) : Nat := (v.extractLsb' 52 4).toNat
def ctlFlight (v : Word) : FlightId :=
  ⟨(v.extractLsb' 39 3).toNat, (v.extractLsb' 33 6).toNat, (v.extractLsb' 27 6).toNat⟩

/-! Service (R385). -/

/-- SVCCTL as the host reads it after an action: the value written, and REFUSED. -/
def svcctlSet (s : State) (v : Word) (refused : Bool) : State :=
  { s with host := { s.host with svcctl := if refused then ownValue v ||| refusedBit else ownValue v } }

/-- The flight that an action of SVCCTL names, where it is held for service (R328, R385). -/
def heldFlight (s : State) (v : Word) : Option Flight :=
  match flightOf s (ctlFlight v) with
  | some x => if x.service && x.ending.isNone then some x else none
  | none => none

/-- An action of SVCCTL on the flight that it names; it is refused where that is not held, or where the action refuses. -/
def svcAction (s : State) (act : Nat) (v : Word) (go : State → Flight → Option State) : State :=
  if ctlAct v ≠ act then s
  else
    match heldFlight s v with
    | none => svcctlSet s v true
    | some x =>
      match go s x with
      | none => svcctlSet s v true
      | some s1 => svcctlSet s1 v false

/-- The address of an image in main memory (R379, R385), where all of it lies below MCAP. -/
def svcAddr (s : State) : Option Nat :=
  let a := (s.host.svcaddr.extractLsb' 12 36).toNat * 4096
  if a + imageBytes ≤ 64 * lineCapacity (retirements s) then some a else none

/-- The words of an image written line by line (R215, R340, R385). -/
def writeImage (s : State) (addr : Nat) (ws : List Word) : State :=
  (List.range (ws.length / 8)).foldl (fun s i => hubWrite s (addr + 64 * i) ((ws.drop (8 * i)).take 8)) s

/-- SVCCTL_WRITE_IMAGE (R385). -/
def execSvcctlWriteImage (v : Word) (s : State) : Res :=
  .next (svcAction s 0 v fun s x => (svcAddr s).map fun a => writeImage s a (imageWords x))

/-- A held flight read back from an image (R340, R385): it keeps its identity and its context, stays held, and keeps MODE, whose bits
change by no such action (R12). -/
def heldFrom (rd : Nat → Word) (x : Flight) : Flight :=
  { flightFrom rd x with ctx := x.ctx, stopped := x.stopped, mm := x.mm, priv := x.priv, hnd := x.hnd }

/-- SVCCTL_READ_IMAGE (R340, R385). -/
def execSvcctlReadImage (v : Word) (s : State) : Res :=
  .next (svcAction s 1 v fun s x =>
    match svcAddr s with
    | none => none
    | some a =>
      let rd (i : Nat) : Word := readWord s (mainKey (a + 8 * i))
      if (List.range (imageBytes / 64)).any (fun i => poisoned s (mainKey (a + 64 * i))) then none
      else if (rd 0).extractLsb' 0 16 ≠ 0x2001 then none
      else some (wake s x (heldFrom rd x)))

/-- SVCCTL_RETRY (R385). -/
def execSvcctlRetry (v : Word) (s : State) : Res :=
  .next (svcAction s 2 v fun s x => if nested x then none else some (serviceResume s x false))

/-- SVCCTL_SKIP (R385). -/
def execSvcctlSkip (v : Word) (s : State) : Res :=
  .next (svcAction s 3 v fun s x => if nested x then none else some (serviceResume s x true))

/-- SVCCTL_END_MEMBER (R289, R385): the member fails with the trap's cause. -/
def execSvcctlEndMember (v : Word) (s : State) : Res :=
  .next (svcAction s 4 v fun s x => some (endMember s x (heldCause x)))

/-- SVCCTL_END_CONTEXT (R385). -/
def execSvcctlEndContext (v : Word) (s : State) : Res :=
  .next (svcAction s 5 v fun s x => some (endContext s x.ctx Cause.contextEnded.code))

/-! Reservations (R282, R386). -/

/-- The unit that RESVSET names. -/
def resvUnit (v : Word) : HwUnit := ⟨(v.extractLsb' 60 4).toNat, (v.extractLsb' 52 8).toNat⟩

/-- RESVSET (R386). -/
def execResvset (v : Word) (s : State) : Res :=
  let u := resvUnit v
  let r : BitVec 16 := v.extractLsb' 0 16
  if u.lvl = 0 ∨ 3 < u.lvl ∨ unitOk s u = false then .next s
  else
    let rs := if s.resvs.any (fun x => decide (x.unit = u)) then s.resvs else s.resvs ++ [⟨u, 0, none⟩]
    .next (settleResv { s with resvs := rs.map fun x => if x.unit = u then { x with next := some r } else x })

/-! Stopping and resuming flights (R387). -/

/-- An action of FLTCTL refused, with its event (R387, R388). -/
def fltctlRefuse (s : State) (v : Word) : State :=
  requestDone { s with host := { s.host with fltctl := ownValue v ||| refusedBit } } Cause.illegal.code (ownValue v)

/-- An action of FLTCTL that has taken full effect at once. -/
def fltctlEnd (s : State) (v : Word) : State :=
  requestDone { s with host := { s.host with fltctl := ownValue v } } 0 (ownValue v)

/-- An action of FLTCTL under way. -/
def fltctlBusy (s : State) (v : Word) : State :=
  { s with host := { s.host with fltctl := ownValue v ||| busyBit, fltPending := s.host.fltPending ++ [ownValue v] } }

/-- FLTCTL_STOP (R387): BUSY until the flight has stopped. -/
def execFltctlStop (v : Word) (s : State) : Res :=
  if ctlAct v ≠ 1 then .next s
  else
    match flightOf s (ctlFlight v) with
    | none => .next (fltctlRefuse s v)
    | some x =>
      let s1 := requestStop s x.id .host
      .next (if x.stopped then fltctlEnd s1 v else fltctlBusy s1 v)

/-- A flight that the host resumes (R338, R387): one that a core switch took off its core is eligible for a slot from now on (R136). -/
def hostResumed (x : Flight) (now : Word) : Flight :=
  { resumed x with since := if x.switched then now.toNat else x.since }

/-- FLTCTL_RESUME (R338, R387). -/
def execFltctlResume (v : Word) (s : State) : Res :=
  if ctlAct v ≠ 2 then .next s
  else
    match flightOf s (ctlFlight v) with
    | none => .next (fltctlRefuse s v)
    | some x =>
      if x.stopped then .next (fltctlEnd (setFlight s (hostResumed x (ccountOf s x.id.die))) v) else .next (fltctlRefuse s v)

/-- The core that an action of FLTCTL names is one of the package's. -/
def fltctlCore (s : State) (v : Word) : Option Nat :=
  let f := ctlFlight v
  if f.die < 4 ∧ f.core < 48 ∧ (dieOf s f.die).present = true then some f.coreNo else none

/-- A resident flight with the request of a core switch (R342, R387), which takes the place of any other request to stop it. -/
def switchAsked (x : Flight) (now : Word) : Flight :=
  let y := askedStop x now .coreSwitch
  { y with switched := true, preempt := y.preempt.map fun p => (p.1, .coreSwitch) }

/-- A core's swapped-out flights, and its die's area, have room for its resident flights (R134, R387). -/
def switchRoom (s : State) (core : Nat) : Bool :=
  let xs := liveOn s core
  let n := (xs.filter Flight.resident).length
  decide (n ≤ areaRoom s (core / 48)) && decide ((xs.filter Flight.swapped).length + n ≤ 56)

/-- FLTCTL_SWITCH_OUT (R134, R342, R387): every resident flight is asked to stop; each is swapped out when it has. -/
def execFltctlSwitchOut (v : Word) (s : State) : Res :=
  if ctlAct v ≠ 3 then .next s
  else
    match fltctlCore s v with
    | none => .next (fltctlRefuse s v)
    | some core =>
      if switchRoom s core then
        .next (fltctlBusy (mapFlights s fun x =>
          if x.live ∧ x.resident ∧ x.id.coreNo = core then switchAsked x (ccountOf s (core / 48)) else x) v)
      else .next (fltctlRefuse s v)

/-- A flight of a core at ACT 4 (R387): one that a core switch stopped is resumed, and one that was STOPPED before it stays so. -/
def switchBack (x : Flight) (now : Word) : Flight :=
  if !x.switched || !x.stopped then x
  else if x.stoppedBy = some .coreSwitch then hostResumed x now
  else { x with switched := false, since := now.toNat }

/-- FLTCTL_RESUME_CORE (R387). -/
def execFltctlResumeCore (v : Word) (s : State) : Res :=
  if ctlAct v ≠ 4 then .next s
  else
    match fltctlCore s v with
    | none => .next (fltctlRefuse s v)
    | some core =>
      .next (fltctlEnd (mapFlights s fun f =>
        if f.id.coreNo = core then switchBack f (ccountOf s (core / 48)) else f) v)

/-- A core switch goes on (R342, R387): a flight of it that has STOPPED is swapped out, and it ends when none of the core's resident
flights is left in it. -/
def settleSwitch (s : State) (w : Word) : Option State :=
  let core := (ctlFlight w).coreNo
  let xs := (liveOn s core).filter fun x => x.resident && x.switched
  match xs.find? fun x => x.stopped && swapRoom s core with
  | some x => some (swapOut s x)
  | none => if xs = [] then some (endFltctl s w 0) else none

/-- What follows at once from an action of FLTCTL under way (R387): a stop of a flight that is no longer live has failed, and one of a
flight that is STOPPED is done. -/
def settleAction (s : State) (w : Word) : Option State :=
  if ctlAct w = 1 then
    match flightOf s (ctlFlight w) with
    | none => some (endFltctl s w Cause.illegal.code)
    | some x => if x.stopped then some (endFltctl s w 0) else none
  else settleSwitch s w

/-- The state after what follows at once from the actions of FLTCTL under way. -/
def settleFltctl (s : State) : Option State := s.host.fltPending.findSome? (settleAction s)

/-! Requests (R388). -/

/-- UNIT and POINT of REQ. -/
def reqUnit (v : Word) : Nat := (v.extractLsb' 8 4).toNat
def reqPoint (v : Word) : BitVec 2 := v.extractLsb' 0 2

/-- REQ after a request has been accepted, and after one that is refused, with its event. -/
def reqTaken (s : State) (v : Word) : State := { s with host := { s.host with req := ownValue v } }
def reqRefused (s : State) (v : Word) : State :=
  requestDone { s with host := { s.host with req := ownValue v ||| refusedBit } } Cause.illegal.code (ownValue v)

/-- REQ_DIE_LOST (R350, R388). -/
def execReqDieLost (v : Word) (s : State) : Res :=
  if ctlAct v ≠ 1 then .next s
  else if 4 ≤ reqUnit v ∨ (dieOf s (reqUnit v)).present = false then .next (reqRefused s v)
  else .next (requestDone (loseDie (reqTaken s v) (reqUnit v)) 0 (ownValue v))

/-- REQ_RETIRE_STACK (R355). -/
def execReqRetireStack (v : Word) (s : State) : Res :=
  let a := s.anneal
  if ctlAct v ≠ 2 then .next s
  else if a.act = true ∨ 2 ≤ a.count.toNat ∨ 8 ≤ reqUnit v ∨ a.retired (reqUnit v) = true then .next (reqRefused s v)
  else
    .next { reqTaken s v with
      anneal := { a with act := true, stk := BitVec.ofNat 3 (reqUnit v), total := 0, next := 0, req := ownValue v } }

/-- REQ_RATE (R361, R388). -/
def execReqRate (v : Word) (s : State) : Res :=
  if ctlAct v ≠ 3 then .next s
  else if 8 < reqUnit v ∨ reqPoint v = 3 then .next (reqRefused s v)
  else
    .next { reqTaken s v with
      power := { s.power with pending := s.power.pending ++ [(reqUnit v, reqPoint v, ownValue v)] } }

/-- REQ_EXPANDER_UP (R388, R390): the port retrains. -/
def execReqExpanderUp (v : Word) (s : State) : Res :=
  if ctlAct v ≠ 4 then .next s
  else if 2 ≤ reqUnit v ∨ (s.expanders.get (Fin.ofNat 2 (reqUnit v))).up.isSome = true then .next (reqRefused s v)
  else
    let i := Fin.ofNat 2 (reqUnit v)
    .next { reqTaken s v with expanders := s.expanders.set i { s.expanders.get i with up := some (ownValue v) } }

/-! Rings (R379). -/

/-- FRBASE_WRITE (R379). -/
def execFrbaseWrite (v : Word) (s : State) : Res :=
  .next { s with host := { s.host with frbase := v, frprod := 0, frcons := 0 } }

/-- Event records that wait written in order while the ring has room (R379). -/
def flushEvents (s : State) : State :=
  s.eventWait.foldl pushEvent { s with eventWait := [] }

/-- EVBASE_WRITE (R379). -/
def execEvbaseWrite (v : Word) (s : State) : Res :=
  .next (flushEvents { s with host := { s.host with evbase := v, evprod := 0, evcons := 0 } })

/-- FRCONS_WRITE (R379). -/
def execFrconsWrite (v : Word) (s : State) : Res :=
  .next { s with host := { s.host with frcons := v.extractLsb' 0 32 } }

/-- EVCONS_WRITE (R379). -/
def execEvconsWrite (v : Word) (s : State) : Res :=
  .next (flushEvents { s with host := { s.host with evcons := v.extractLsb' 0 32 } })

/-! The other registers (R379). -/

/-- STATUS (R379). -/
def statusWord (s : State) : Word :=
  let dies : BitVec 4 := BitVec.ofBool (dieOf s 3).present ++ BitVec.ofBool (dieOf s 2).present ++
    BitVec.ofBool (dieOf s 1).present ++ BitVec.ofBool (dieOf s 0).present
  .cast (by rfl) (0#52 ++ dies ++ 0#5 ++ BitVec.ofBool s.standby.isSome ++ BitVec.ofBool s.host.recovery ++
    BitVec.ofBool s.host.ready)

/-- An MSI-X vector is signalled (R379): vector 0 while the fault ring is not empty, vector 1 while the event ring is not. -/
def msix (s : State) (v : Fin 2) : Bool :=
  if v = 0 then s.host.frprod != s.host.frcons else s.host.evprod != s.host.evcons

/-- EXPCAP of a port (R389). -/
def expcapWord (x : Expander) : Word :=
  .cast (by rfl) (BitVec.ofBool x.pres ++ BitVec.ofBool x.lost ++ 0#3 ++ x.atc ++ 0#31 ++ x.units)

/-- What the host reads at an offset of the block (R379); a write-only register reads zero. -/
def hostReg (s : State) (off : Nat) : Word :=
  let h := s.host
  match off with
  | 0x0000 => 0x52001
  | 0x0008 => statusWord s
  | 0x0010 => h.pkgnum.setWidth 64
  | 0x0020 => h.ctxtab
  | 0x0028 => h.ctxctl
  | 0x0040 => h.lqctl
  | 0x0048 => h.lqbase
  | 0x0060 => h.frbase
  | 0x0068 => h.frprod.setWidth 64
  | 0x0070 => h.frcons.setWidth 64
  | 0x0080 => h.evbase
  | 0x0088 => h.evprod.setWidth 64
  | 0x0090 => h.evcons.setWidth 64
  | 0x00A0 => if h.invalBusy then h.inval ||| busyBit else h.inval &&& 0x7FFFFFFFFFFFFFFF
  | 0x00B0 => h.svcctl
  | 0x00B8 => h.svcaddr
  | 0x00C8 => h.fltctl
  | 0x00D0 => h.req
  | 0x3000 => expcapWord (s.expanders.get 0)
  | 0x3008 => expcapWord (s.expanders.get 1)
  | 0x3100 => h.fwbase
  | 0x3108 => h.fwsize
  | 0x3110 => h.fwdrop
  | _ =>
    if 0x1000 ≤ off ∧ off < 0x3000 ∧ off % 8 = 0 then assocGet 0 s.staging ((off - 0x1000) / 8)
    else if 0x4000 ≤ off ∧ off < 0x5000 then assocGet 0 s.power.monitors off
    else 0

/-- The launch queue set up anew (R382): the newel counts slots from 0 and reads TAIL again. -/
def setQueue (s : State) (h : HostRegs) : State := { s with host := h, lqTail := none, lqPos := 0 }

/-- HOST_REGISTER_WRITE (R379): registers without behaviour of their own, and values of SVCCTL and REQ that name no action.
A register that is read only, and one that another step of the table writes, is not changed. -/
def execHostRegisterWrite (off : Nat) (v : Word) (s : State) : Res :=
  let h := s.host
  match off with
  | 0x0020 => .next { s with host := { h with ctxtab := v } }
  | 0x0040 => .next (setQueue s { h with lqctl := v })
  | 0x0048 => .next (setQueue s { h with lqbase := v })
  | 0x00B0 => .next (if 6 ≤ ctlAct v then svcctlSet s v true else s)
  | 0x00B8 => .next { s with host := { h with svcaddr := v } }
  | 0x00D0 => .next (if ctlAct v = 0 ∨ 5 ≤ ctlAct v then reqRefused s v else s)
  | 0x3100 => .next (if v.extractLsb' 0 12 = 0 then { s with host := { h with fwbase := v } } else s)
  | 0x3108 => .next (if v.toNat ≤ 0x1000000 ∧ v.extractLsb' 0 12 = 0 then { s with host := { h with fwsize := v } } else s)
  | _ =>
    if 0x1000 ≤ off ∧ off < 0x3000 ∧ off % 8 = 0 then .next { s with staging := assocPut ((off - 0x1000) / 8) v s.staging }
    else .next s

/-! Memory accesses from outside (R378, R382, R394). -/

/-- Bytes of the host within one line written (R215, R378): none at or above MCAP, and none that covers a poisoned line only
in part. -/
def hostWriteLine (s : State) (a : Nat) (bs : List Byte) : State :=
  if lineCapacity (retirements s) ≤ a / 64 then s else (writeMain s (mainKey a) bs).getD s

/-- The byte that the host reads (R378): `none` where it is poisoned. -/
def hostByte (s : State) (a : Nat) : Option Byte :=
  if lineCapacity (retirements s) ≤ a / 64 ∨ poisoned s (mainKey a) = true then none else some (readByte s (mainKey a))

/-- The host's write touches the control line of the launch queue (R382). -/
def touchesQueue (s : State) (a n : Nat) : Bool := decide (a < lqLine s + 64) && decide (lqLine s < a + n)

/-- HOST_MEMORY_ACCESS (R378, R382): a write of the control line invalidates the newel's copy. In recovery it is not served (R392). -/
def execHostMemoryAccess (addr : Nat) (a : HostAccess) (s : State) : Res :=
  if s.host.recovery then .next { s with hostData := [] }
  else
  match a with
  | .read n => .next { s with hostData := (List.range n).map fun i => hostByte s (addr + i) }
  | .write bs =>
    let s1 := (blockRanges (bs.length / 64 + 2) addr bs.length).foldl (fun s r =>
      hostWriteLine s r.1 ((bs.drop (r.1 - addr)).take r.2)) s
    .next (if touchesQueue s addr bs.length then { s1 with lqTail := none } else s1)

/-- FIRMWARE_HOST_ACCESS (R394): inside the window it goes to the host, outside it is dropped and counted. -/
def execFirmwareHostAccess (addr : Nat) (a : HostAccess) (s : State) : Res :=
  let n := match a with | .read n => n | .write bs => bs.length
  let lo := s.host.fwbase.toNat
  if lo ≤ addr ∧ addr + n ≤ lo + s.host.fwsize.toNat then .next { s with outbox := s.outbox ++ [.hostMemory addr a] }
  else .next { s with host := { s.host with fwdrop := s.host.fwdrop + 1 } }

end Sys2Proof.Machine
end

