-- ==== Sys2Proof/Machine/Boot.lean ====
section
/-! DEFINITION. Start-up and attestation: R344, R348, R366, R389, R391 to R393. -/

namespace Sys2Proof.Machine

/-! Start-up (R391, R392). -/

/-- A firmware stage is accepted (R392). -/
def stageOk (b : BootStage) : Bool :=
  b.keyDigest == Config.fusedKeyDigest && Config.signatureValid b.keyDigest b.digest b.signature &&
    decide (Config.antiRollback ≤ b.version)

/-- The stages verified in order, each by the one before it: those accepted, and whether all were (R391, R392). -/
def verifyStages : List BootStage → List BootStage × Bool
  | [] => ([], true)
  | b :: rest => if stageOk b then (b :: (verifyStages rest).1, (verifyStages rest).2) else ([], false)

/-- The measurements of accepted stages (R392, R393): the first stage, then the runtime firmware. -/
def stageMeasures : List BootStage → List (Nat × List Byte)
  | [] => []
  | b :: rest => (2, b.digest) :: rest.map fun x => (3, x.digest)

/-- A port as start-up finds it (R389). -/
def expanderOf (w : Word) : Expander :=
  { pres := w.getLsbD 63, lost := w.getLsbD 62, atc := w.extractLsb' 56 3, units := w.extractLsb' 0 25, up := none, waiting := none }

/-- Logical die k after the tests (R344, R391): the good dies in ascending order. -/
def bootDie (good : List Nat) (k : Nat) : Die :=
  match good[k]? with
  | some p => ⟨true, p, 0, 0, 0, false, none⟩
  | none => ⟨false, 0, 0, 0, 0, false, none⟩

/-- The package after its boot ROM has run (R391): nothing else yet; free values go on. -/
def bootBase (s : State) (ms : List (Nat × List Byte)) : State :=
  { State.reset with fresh := s.fresh, uid := s.uid, sec := ⟨(1, Config.romMeasurement) :: ms, false, []⟩ }

/-- The version of the accepted firmware as a measurement. -/
def versionMeasure (stages : List BootStage) : List Byte :=
  natToBytes 8 ((stages.map (·.version)).foldl Nat.max 0)

/-- POWER_GOOD (R391, R392): READY, or recovery with every compute die held in reset. -/
def execPowerGood (b : BootImage) (s : State) : Res :=
  let r := verifyStages b.stages
  let base := bootBase s (stageMeasures r.1)
  if !r.2 || b.stages.isEmpty then .next { base with host := { base.host with recovery := true } }
  else
    let sec := { base.sec with
      measures := base.sec.measures ++ [(4, Config.dieMapMeasurement b.goodDies), (5, versionMeasure b.stages)] }
    .next { base with
      dies := tab fun k => bootDie b.goodDies k.val,
      standby := b.goodDies[4]?,
      expanders := tab fun k => expanderOf (if k.val = 0 then b.exp0 else b.exp1),
      sec := sec,
      host := { base.host with ready := true } }

/-! Attestation (R393). -/

/-- The answer of a request whose bytes the device's keys and the protocol determine (log entry 9): `n` words. -/
def spdmAnswer (s : State) (kind : Nat) (data : List Byte) (n : Nat) : State :=
  let word (i : Nat) : Word :=
    BitVec.ofNat 64 (bytesToNat ((List.range 8).map fun j => Config.spdmByte kind data (8 * i + j)))
  { s with sec := { s.sec with answer := (List.range n).map word } }

/-- GET_VERSION (R393): versions 1.2 and 1.3. -/
def execGetVersion (s : State) : Res := .next { s with sec := { s.sec with answer := [0x1200, 0x1300] } }

/-- GET_CAPABILITIES (R393). -/
def execGetCapabilities (s : State) : Res := .next (spdmAnswer s 1 [] 2)

/-- NEGOTIATE_ALGORITHMS (R393): ECDSA P-384 and SHA-384, and nothing else. -/
def execNegotiateAlgorithms (p384 sha384 : Bool) (s : State) : Res :=
  let ok := p384 && sha384
  let s1 := spdmAnswer s 2 [BitVec.ofNat 8 ok.toNat] 4
  .next { s1 with sec := { s1.sec with negotiated := ok } }

/-- GET_DIGESTS (R393): the digest of the certificate chain. -/
def execGetDigests (s : State) : Res := .next (spdmAnswer s 3 [] 6)

/-- GET_CERTIFICATE (R393): a portion of the chain. -/
def execGetCertificate (off len : Nat) (s : State) : Res :=
  .next (spdmAnswer s 4 (natToBytes 8 off ++ natToBytes 8 len) ((len + 7) / 8))

/-- CHALLENGE (R393): an answer signed over the nonce. -/
def execChallenge (nonce : List Byte) (s : State) : Res := .next (spdmAnswer s 5 nonce 20)

/-- The words of a list of bytes, the last padded with zeros. -/
def wordsOf (bs : List Byte) : List Word :=
  (List.range ((bs.length + 7) / 8)).map fun i => BitVec.ofNat 64 (bytesToNat ((bs.drop (8 * i)).take 8))

/-- GET_MEASUREMENTS (R393): the recorded measurements of an index, then the signed part. -/
def execGetMeasurements (index : Nat) (nonce : List Byte) (s : State) : Res :=
  let found := (s.sec.measures.filter fun m => decide (m.1 = index)).flatMap fun m => wordsOf m.2
  let s1 := spdmAnswer s 6 (natToBytes 8 index ++ nonce) 12
  .next { s1 with sec := { s1.sec with answer := found ++ s1.sec.answer } }

end Sys2Proof.Machine
end

