-- ==== Sys2Proof/Machine/Dual.lean ====
section
/-! DEFINITION. The dual word: R48 to R52. -/

namespace Sys2Proof.Machine

/-- What a slot's instruction computes from. -/
structure SlotCtx where
  s : State
  k : LaneId
  l : Lane
  x : Slot

/-- The type that MOD[3:0] gives (R49). -/
def slotTy (x : Slot) : Ty := Ty.ofCode (x.md.extractLsb' 0 4)

/-- d := d op s of the general class (R62, R64). -/
def slotG2 (c : SlotCtx) (f : Word → Word → Word) : LaneOut :=
  ofRd c.l do
    let a ← srcG c.l c.x.dst.asSrc
    let b ← srcG c.l c.x.src
    pure (retG c.l c.x.dst c.x.w (f a b))

/-- d := op s of the general class. -/
def slotG1 (c : SlotCtx) (f : Word → Word) : LaneOut :=
  ofRd c.l do
    let a ← srcG c.l c.x.src
    pure (retG c.l c.x.dst c.x.w (f a))

/-- d := d op s of the predicate class (R78). -/
def slotP2 (c : SlotCtx) (f : Bool → Bool → Bool) : LaneOut :=
  ofRd c.l do
    let a ← srcP c.l c.x.dst.asSrc
    let b ← srcP c.l c.x.src
    pure (retP c.l c.x.dst c.x.w (f a b))

/-- d := op s of the predicate class (R78). -/
def slotP1 (c : SlotCtx) (f : Bool → Bool) : LaneOut :=
  ofRd c.l do
    let a ← srcP c.l c.x.src
    checkDstP c.l c.x.dst c.x.w
    pure (retP c.l c.x.dst c.x.w (f a))

/-- d := d op s of a floating format, rounded by FPCTL (R49, R113, R114). -/
def slotF2 (c : SlotCtx) (f : Fmt → Rnd × Nat → Nat → Nat → Nat × BitVec 5) : LaneOut :=
  ofRd c.l do
    let a ← srcG c.l c.x.dst.asSrc
    let b ← srcG c.l c.x.src
    pure (fpRetG c.s.fl c.l c.x.dst c.x.w (f (fmtOf (slotTy c.x) 0) (laneRounding c.s 0 c.k) a.toNat b.toNat))

/-- d := op s of a floating format (R115). -/
def slotF1 (c : SlotCtx) (f : Fmt → Nat → Nat) : LaneOut :=
  slotG1 c fun a => BitVec.ofNat 64 (f (fmtOf (slotTy c.x) 0) a.toNat)

/-- d := d op s of the vector class (R150, R152). -/
def slotV2 (c : SlotCtx) (f : Ty → Rnd × Nat → Nat → Nat → SubRes) : LaneOut :=
  let t := slotTy c.x
  ofRd c.l do
    let a ← vecRead c.l t c.x.dst.asSrc
    let b ← vecRead c.l t c.x.src
    pure (vecRet c.s.fl c.l c.x.dst c.x.w t.width true (List.range t.count) fun j =>
      f t (subRounding c.s 0 c.k j) (subWord a t.width j) (subWord b t.width j))

/-- VMOV as a slot (R157). -/
def slotVmov (c : SlotCtx) : LaneOut :=
  ofRd c.l do
    let a ← vecRead c.l (slotTy c.x) c.x.src
    pure (retV c.l c.x.dst c.x.w a)

/-- A slot's outcome in a lane that executes it (R49, R51). -/
def slotResult (c : SlotCtx) : LaneOut :=
  match c.x.hop with
  | .nop => retNone c.l
  | .add => slotG2 c (· + ·)
  | .sub => slotG2 c (· - ·)
  | .mul => slotG2 c (· * ·)
  | .and => slotG2 c (· &&& ·)
  | .or => slotG2 c (· ||| ·)
  | .xor => slotG2 c (· ^^^ ·)
  | .andn => slotG2 c fun a b => a &&& ~~~b
  | .shl => slotG2 c shlWord
  | .shr => slotG2 c shrWord
  | .sar => slotG2 c sarWord
  | .rol => slotG2 c fun a b => a.rotateLeft (b.toNat % 64)
  | .ror => slotG2 c fun a b => a.rotateRight (b.toNat % 64)
  | .min => slotG2 c fun a b => if b.slt a then b else a
  | .max => slotG2 c fun a b => if a.slt b then b else a
  | .minu => slotG2 c fun a b => if b.ult a then b else a
  | .maxu => slotG2 c fun a b => if a.ult b then b else a
  | .mov => slotG1 c fun a => a
  | .neg => slotG1 c fun a => -a
  | .not => slotG1 c fun a => ~~~a
  | .abs => slotG1 c fun a => if a.slt 0 then -a else a
  | .pand => slotP2 c (· && ·)
  | .por => slotP2 c (· || ·)
  | .pxor => slotP2 c fun a b => a != b
  | .pnot => slotP1 c fun a => !a
  | .pmov => slotP1 c fun a => a
  | .fadd => slotF2 c fun f => fpBin f addNum
  | .fsub => slotF2 c fun f => fpBin f subNum
  | .fmul => slotF2 c fun f => fpBin f mulNum
  | .fmin => slotF2 c fun f _ => fpMinMax f false
  | .fmax => slotF2 c fun f _ => fpMinMax f true
  | .fabs => slotF1 c fpAbs
  | .fneg => slotF1 c fpNeg
  | .vadd => slotV2 c fun t => subArith t false addNum (· + ·)
  | .vsub => slotV2 c fun t => subArith t false subNum (· - ·)
  | .vmul => slotV2 c fun t => subArith t false mulNum (· * ·)
  | .vmin => slotV2 c fun t _ => subMinMax t false
  | .vmax => slotV2 c fun t _ => subMinMax t true
  | .vand => slotV2 c fun _ _ a b => .plain (a &&& b)
  | .vor => slotV2 c fun _ _ a b => .plain (a ||| b)
  | .vxor => slotV2 c fun _ _ a b => .plain (a ^^^ b)
  | .vshl => slotV2 c fun t _ a b => .plain (subShift t.width 0 a b)
  | .vshr => slotV2 c fun t _ a b => .plain (subShift t.width 1 a b)
  | .vsar => slotV2 c fun t _ a b => .plain (subShift t.width 2 a b)
  | .vmov => slotVmov c

/-- The registers that a slot reads (R49, R335): d and s, or s alone, and the byte of a predicate that it writes. -/
def slotSrcs (x : Slot) : List Src :=
  match x.hop with
  | .nop => []
  | .mov | .neg | .not | .abs | .fabs | .fneg | .vmov => [x.src]
  | .pnot | .pmov => if x.w then [x.src, x.dst.asSrc] else [x.src]
  | _ => [x.dst.asSrc, x.src]

/-- A slot executes in a lane (R48, R52); `b` is false for slot A. -/
def slotActive (s : State) (k : LaneId) (x : Slot) (b : Bool) : Bool :=
  (issuing s).has k && (s.fl.lane k).getP x.pg && (s.fl.lane k).slotSkip != some b

/-- A slot's outcome in a lane; `l` is the lane as the slot finds it. -/
def slotOut (s : State) (k : LaneId) (l : Lane) (x : Slot) (b : Bool) : LaneOut :=
  if slotActive s k x b then
    match pgFault (s.fl.lane k) ⟨false, false, x.pg, false⟩ with
    | some t => .trap l none t
    | none => slotResult ⟨s, k, l, x⟩
  else retNone l

/-- The trap of a slot in a lane. -/
def slotTrap (s : State) (k : LaneId) (x : Slot) (b : Bool) : Option LTrap :=
  match slotOut s k (s.fl.lane k) x b with
  | .trap _ _ t => some t
  | _ => none

/-- The outcome of a dual word in a lane when no slot has raised. Slot B reads nothing that slot A writes (R50). -/
def dualOut (s : State) (a b : Slot) (k : LaneId) : LaneOut :=
  if !(issuing s).has k then .idle
  else
    match slotOut s k (s.fl.lane k) a false with
    | .done l1 _ _ =>
      match slotOut s k l1 b true with
      | .done l2 _ _ => .done { l2 with slotSkip := none } none none
      | _ => .idle
    | _ => .idle

/-- DUAL_WORD (R48 to R52): whole or not at all; slot A is reported before slot B. -/
def execDualWord (e : Bool) (a b : Slot) (s : State) : Res :=
  let inB := allLanes.all fun k => (slotTrap s k a false).isNone
  let raised := fun k => if inB then slotTrap s k b true else slotTrap s k a false
  let srcs := Src.p a.pg :: Src.p b.pg :: (slotSrcs a ++ slotSrcs b)
  let rflat := logUnreadBy s srcs fun k _ src _ =>
    (slotActive s k a false && (Src.p a.pg :: slotSrcs a).contains src) ||
    (slotActive s k b true && (Src.p b.pg :: slotSrcs b).contains src)
  let s1 := { s with fl := { s.fl with rflat := rflat } }
  if allLanes.any fun k => (raised k).isSome then
    .next (finish { s1 with fl := s1.fl.mapLanes fun _ l => { l with slotSkip := none } } e false inB (tab fun k =>
      match raised k with
      | some t => .trap { s.fl.lane k with slotSkip := none } none t
      | none => .idle))
  else .next (finish s1 e false false (tab fun k => dualOut s a b k))

end Sys2Proof.Machine
end

