-- ==== Sys2Proof/Machine/Dispatch.lean ====
section
/-! DEFINITION. The dispatch: one arm an instruction, each one direct call of its meaning. -/

namespace Sys2Proof.Machine

/-- One instruction or step in a state. -/
def exec (i : Instr) (s : State) : Host.Outcome State Fault Refusal :=
  match i with
  | .add h o => Sys2Proof.Machine.execAdd h o s
  | .addi h o => Sys2Proof.Machine.execAddi h o s
  | .sub h o => Sys2Proof.Machine.execSub h o s
  | .neg h o => Sys2Proof.Machine.execNeg h o s
  | .mul h o => Sys2Proof.Machine.execMul h o s
  | .mulh h o => Sys2Proof.Machine.execMulh h o s
  | .mulhu h o => Sys2Proof.Machine.execMulhu h o s
  | .div h o => Sys2Proof.Machine.execDiv h o s
  | .divu h o => Sys2Proof.Machine.execDivu h o s
  | .rem h o => Sys2Proof.Machine.execRem h o s
  | .remu h o => Sys2Proof.Machine.execRemu h o s
  | .min h o => Sys2Proof.Machine.execMin h o s
  | .max h o => Sys2Proof.Machine.execMax h o s
  | .minu h o => Sys2Proof.Machine.execMinu h o s
  | .maxu h o => Sys2Proof.Machine.execMaxu h o s
  | .abs h o => Sys2Proof.Machine.execAbs h o s
  | .and h o => Sys2Proof.Machine.execAnd h o s
  | .andi h o => Sys2Proof.Machine.execAndi h o s
  | .or h o => Sys2Proof.Machine.execOr h o s
  | .ori h o => Sys2Proof.Machine.execOri h o s
  | .xor h o => Sys2Proof.Machine.execXor h o s
  | .xori h o => Sys2Proof.Machine.execXori h o s
  | .andn h o => Sys2Proof.Machine.execAndn h o s
  | .not h o => Sys2Proof.Machine.execNot h o s
  | .shl h o => Sys2Proof.Machine.execShl h o s
  | .shli h o => Sys2Proof.Machine.execShli h o s
  | .shr h o => Sys2Proof.Machine.execShr h o s
  | .shri h o => Sys2Proof.Machine.execShri h o s
  | .sar h o => Sys2Proof.Machine.execSar h o s
  | .sari h o => Sys2Proof.Machine.execSari h o s
  | .rol h o => Sys2Proof.Machine.execRol h o s
  | .ror h o => Sys2Proof.Machine.execRor h o s
  | .clz h o => Sys2Proof.Machine.execClz h o s
  | .ctz h o => Sys2Proof.Machine.execCtz h o s
  | .popc h o => Sys2Proof.Machine.execPopc h o s
  | .brev h o => Sys2Proof.Machine.execBrev h o s
  | .bswap h o => Sys2Proof.Machine.execBswap h o s
  | .bfx h o => Sys2Proof.Machine.execBfx h o s
  | .bfxs h o => Sys2Proof.Machine.execBfxs h o s
  | .bfi h o => Sys2Proof.Machine.execBfi h o s
  | .mov h o => Sys2Proof.Machine.execMov h o s
  | .movQueueMarker h o => Sys2Proof.Machine.execMovQueueMarker h o s
  | .movQueuePop h o => Sys2Proof.Machine.execMovQueuePop h o s
  | .movi h o => Sys2Proof.Machine.execMovi h o s
  | .movhi h o => Sys2Proof.Machine.execMovhi h o s
  | .sel h o => Sys2Proof.Machine.execSel h o s
  | .lea h o => Sys2Proof.Machine.execLea h o s
  | .cmp h o => Sys2Proof.Machine.execCmp h o s
  | .cmpu h o => Sys2Proof.Machine.execCmpu h o s
  | .cmpi h o => Sys2Proof.Machine.execCmpi h o s
  | .pand h o => Sys2Proof.Machine.execPand h o s
  | .por h o => Sys2Proof.Machine.execPor h o s
  | .pxor h o => Sys2Proof.Machine.execPxor h o s
  | .pnot h o => Sys2Proof.Machine.execPnot h o s
  | .pmov h o => Sys2Proof.Machine.execPmov h o s
  | .bra h o => Sys2Proof.Machine.execBra h o s
  | .brx h o => Sys2Proof.Machine.execBrx h o s
  | .call h o => Sys2Proof.Machine.execCall h o s
  | .callx h o => Sys2Proof.Machine.execCallx h o s
  | .ret h o => Sys2Proof.Machine.execRet h o s
  | .jf h o => Sys2Proof.Machine.execJf h o s
  | .cfetch h o => Sys2Proof.Machine.execCfetch h o s
  | .exit h o => Sys2Proof.Machine.execExit h o s
  | .nop h o => Sys2Proof.Machine.execNop h o s
  | .rep h o => Sys2Proof.Machine.execRep h o s
  | .mfs h o => Sys2Proof.Machine.execMfs h o s
  | .mts h o => Sys2Proof.Machine.execMts h o s
  | .trap h o => Sys2Proof.Machine.execTrap h o s
  | .ldh h o => Sys2Proof.Machine.execLdh h o s
  | .sth h o => Sys2Proof.Machine.execSth h o s
  | .dualWord e a b => Sys2Proof.Machine.execDualWord e a b s
  | .fadd h o => Sys2Proof.Machine.execFadd h o s
  | .fsub h o => Sys2Proof.Machine.execFsub h o s
  | .fmul h o => Sys2Proof.Machine.execFmul h o s
  | .ffma h o => Sys2Proof.Machine.execFfma h o s
  | .fdiv h o => Sys2Proof.Machine.execFdiv h o s
  | .fsqrt h o => Sys2Proof.Machine.execFsqrt h o s
  | .fmin h o => Sys2Proof.Machine.execFmin h o s
  | .fmax h o => Sys2Proof.Machine.execFmax h o s
  | .fabs h o => Sys2Proof.Machine.execFabs h o s
  | .fneg h o => Sys2Proof.Machine.execFneg h o s
  | .fcmp h o => Sys2Proof.Machine.execFcmp h o s
  | .fclass h o => Sys2Proof.Machine.execFclass h o s
  | .frnd h o => Sys2Proof.Machine.execFrnd h o s
  | .fcvt h o => Sys2Proof.Machine.execFcvt h o s
  | .fcvti h o => Sys2Proof.Machine.execFcvti h o s
  | .icvtf h o => Sys2Proof.Machine.execIcvtf h o s
  | .cvt8 h o => Sys2Proof.Machine.execCvt8 h o s
  | .cvt8x h o => Sys2Proof.Machine.execCvt8x h o s
  | .fscale h o => Sys2Proof.Machine.execFscale h o s
  | .sclx h o => Sys2Proof.Machine.execSclx h o s
  | .rje h o => Sys2Proof.Machine.execRje h o s
  | .rjw h o => Sys2Proof.Machine.execRjw h o s
  | .rjx h o => Sys2Proof.Machine.execRjx h o s
  | .vadd h o => Sys2Proof.Machine.execVadd h o s
  | .vsub h o => Sys2Proof.Machine.execVsub h o s
  | .vmul h o => Sys2Proof.Machine.execVmul h o s
  | .vfma h o => Sys2Proof.Machine.execVfma h o s
  | .vdiv h o => Sys2Proof.Machine.execVdiv h o s
  | .vsqrt h o => Sys2Proof.Machine.execVsqrt h o s
  | .vmin h o => Sys2Proof.Machine.execVmin h o s
  | .vmax h o => Sys2Proof.Machine.execVmax h o s
  | .vand h o => Sys2Proof.Machine.execVand h o s
  | .vor h o => Sys2Proof.Machine.execVor h o s
  | .vxor h o => Sys2Proof.Machine.execVxor h o s
  | .vshl h o => Sys2Proof.Machine.execVshl h o s
  | .vshr h o => Sys2Proof.Machine.execVshr h o s
  | .vsar h o => Sys2Proof.Machine.execVsar h o s
  | .vcmp h o => Sys2Proof.Machine.execVcmp h o s
  | .vsel h o => Sys2Proof.Machine.execVsel h o s
  | .vcvt h o => Sys2Proof.Machine.execVcvt h o s
  | .vcvt8 h o => Sys2Proof.Machine.execVcvt8 h o s
  | .vsplat h o => Sys2Proof.Machine.execVsplat h o s
  | .vext h o => Sys2Proof.Machine.execVext h o s
  | .vins h o => Sys2Proof.Machine.execVins h o s
  | .vmov h o => Sys2Proof.Machine.execVmov h o s
  | .vshfl h o => Sys2Proof.Machine.execVshfl h o s
  | .gshfl h o => Sys2Proof.Machine.execGshfl h o s
  | .ballot h o => Sys2Proof.Machine.execBallot h o s
  | .vred h o => Sys2Proof.Machine.execVred h o s
  | .vreds h o => Sys2Proof.Machine.execVreds h o s
  | .vbfly h o => Sys2Proof.Machine.execVbfly h o s
  | .vtbl h o => Sys2Proof.Machine.execVtbl h o s
  | .vbcast h o => Sys2Proof.Machine.execVbcast h o s
  | .vldh h o => Sys2Proof.Machine.execVldh h o s
  | .vsth h o => Sys2Proof.Machine.execVsth h o s
  | .vldhx h o => Sys2Proof.Machine.execVldhx h o s
  | .vsthx h o => Sys2Proof.Machine.execVsthx h o s
  | .mmodeOn h o => Sys2Proof.Machine.execMmodeOn h o s
  | .mmodeOff h o => Sys2Proof.Machine.execMmodeOff h o s
  | .mmodeGatherComplete f => Sys2Proof.Machine.execMmodeGatherComplete f s
  | .mma h o => Sys2Proof.Machine.execMma h o s
  | .mmai h o => Sys2Proof.Machine.execMmai h o s
  | .mzero h o => Sys2Proof.Machine.execMzero h o s
  | .mdrain h o => Sys2Proof.Machine.execMdrain h o s
  | .mstat h o => Sys2Proof.Machine.execMstat h o s
  | .gridOperation core eng => Sys2Proof.Machine.execGridOperation core eng s
  | .engineStallRelease f => Sys2Proof.Machine.execEngineStallRelease f s
  | .ldg h o => Sys2Proof.Machine.execLdg h o s
  | .stg h o => Sys2Proof.Machine.execStg h o s
  | .ldz h o => Sys2Proof.Machine.execLdz h o s
  | .stz h o => Sys2Proof.Machine.execStz h o s
  | .ldm h o => Sys2Proof.Machine.execLdm h o s
  | .stm h o => Sys2Proof.Machine.execStm h o s
  | .ldx h o => Sys2Proof.Machine.execLdx h o s
  | .stx h o => Sys2Proof.Machine.execStx h o s
  | .vldg h o => Sys2Proof.Machine.execVldg h o s
  | .vstg h o => Sys2Proof.Machine.execVstg h o s
  | .vldz h o => Sys2Proof.Machine.execVldz h o s
  | .vstz h o => Sys2Proof.Machine.execVstz h o s
  | .vldm h o => Sys2Proof.Machine.execVldm h o s
  | .vstm h o => Sys2Proof.Machine.execVstm h o s
  | .vldmx h o => Sys2Proof.Machine.execVldmx h o s
  | .vstmx h o => Sys2Proof.Machine.execVstmx h o s
  | .vldx h o => Sys2Proof.Machine.execVldx h o s
  | .vstx h o => Sys2Proof.Machine.execVstx h o s
  | .pprobe h o => Sys2Proof.Machine.execPprobe h o s
  | .prel h o => Sys2Proof.Machine.execPrel h o s
  | .prelEffect => Sys2Proof.Machine.execPrelEffect s
  | .pclr h o => Sys2Proof.Machine.execPclr h o s
  | .fence h o => Sys2Proof.Machine.execFence h o s
  | .fencePodTimeout f l => Sys2Proof.Machine.execFencePodTimeout f l s
  | .aadd h o => Sys2Proof.Machine.execAadd h o s
  | .amin h o => Sys2Proof.Machine.execAmin h o s
  | .amax h o => Sys2Proof.Machine.execAmax h o s
  | .aand h o => Sys2Proof.Machine.execAand h o s
  | .aor h o => Sys2Proof.Machine.execAor h o s
  | .axor h o => Sys2Proof.Machine.execAxor h o s
  | .axchg h o => Sys2Proof.Machine.execAxchg h o s
  | .acas h o => Sys2Proof.Machine.execAcas h o s
  | .afadd h o => Sys2Proof.Machine.execAfadd h o s
  | .ainc h o => Sys2Proof.Machine.execAinc h o s
  | .laneResume f l => Sys2Proof.Machine.execLaneResume f l s
  | .arbitrate core eng => Sys2Proof.Machine.execArbitrate core eng s
  | .swapOut f => Sys2Proof.Machine.execSwapOut f s
  | .swapIn f slot => Sys2Proof.Machine.execSwapIn f slot s
  | .segmentFetchCompletion core slot => Sys2Proof.Machine.execSegmentFetchCompletion core slot s
  | .qbind h o => Sys2Proof.Machine.execQbind h o s
  | .qtry h o => Sys2Proof.Machine.execQtry h o s
  | .qcnt h o => Sys2Proof.Machine.execQcnt h o s
  | .copy h o => Sys2Proof.Machine.execCopy h o s
  | .mcast h o => Sys2Proof.Machine.execMcast h o s
  | .reduce h o => Sys2Proof.Machine.execReduce h o s
  | .gemv h o => Sys2Proof.Machine.execGemv h o s
  | .foot h o => Sys2Proof.Machine.execFoot h o s
  | .migr h o => Sys2Proof.Machine.execMigr h o s
  | .engineCommandStart cmd => Sys2Proof.Machine.execEngineCommandStart cmd s
  | .enginePiece cmd piece => Sys2Proof.Machine.execEnginePiece cmd piece s
  | .resultDelivery cmd => Sys2Proof.Machine.execResultDelivery cmd s
  | .guardPass cmd line => Sys2Proof.Machine.execGuardPass cmd line s
  | .faultRecordWrite => Sys2Proof.Machine.execFaultRecordWrite s
  | .migrationStart cmd => Sys2Proof.Machine.execMigrationStart cmd s
  | .migrationRound cmd => Sys2Proof.Machine.execMigrationRound cmd s
  | .migrationSwitch cmd => Sys2Proof.Machine.execMigrationSwitch cmd s
  | .launch h o => Sys2Proof.Machine.execLaunch h o s
  | .tsplit h o => Sys2Proof.Machine.execTsplit h o s
  | .cancel h o => Sys2Proof.Machine.execCancel h o s
  | .cancelTokenArrival ctx inst => Sys2Proof.Machine.execCancelTokenArrival ctx inst s
  | .recordAccept src => Sys2Proof.Machine.execRecordAccept src s
  | .memberPlace grid => Sys2Proof.Machine.execMemberPlace grid s
  | .imageLoad f => Sys2Proof.Machine.execImageLoad f s
  | .memberRetire grid team mem => Sys2Proof.Machine.execMemberRetire grid team mem s
  | .finit h o => Sys2Proof.Machine.execFinit h o s
  | .fres h o => Sys2Proof.Machine.execFres h o s
  | .freg h o => Sys2Proof.Machine.execFreg h o s
  | .fwait h o => Sys2Proof.Machine.execFwait h o s
  | .fpoll h o => Sys2Proof.Machine.execFpoll h o s
  | .ffail h o => Sys2Proof.Machine.execFfail h o s
  | .phreg h o => Sys2Proof.Machine.execPhreg h o s
  | .phdrop h o => Sys2Proof.Machine.execPhdrop h o s
  | .pharr h o => Sys2Proof.Machine.execPharr h o s
  | .phwait h o => Sys2Proof.Machine.execPhwait h o s
  | .phnext h o => Sys2Proof.Machine.execPhnext h o s
  | .phset h o => Sys2Proof.Machine.execPhset h o s
  | .phexp h o => Sys2Proof.Machine.execPhexp h o s
  | .bar h o => Sys2Proof.Machine.execBar h o s
  | .barArrive src => Sys2Proof.Machine.execBarArrive src s
  | .trapEntry f => Sys2Proof.Machine.execTrapEntry f s
  | .tfix h o => Sys2Proof.Machine.execTfix h o s
  | .rteRetry h o => Sys2Proof.Machine.execRteRetry h o s
  | .rteSkip h o => Sys2Proof.Machine.execRteSkip h o s
  | .rteGatherComplete f => Sys2Proof.Machine.execRteGatherComplete f s
  | .ctxsvSave h o => Sys2Proof.Machine.execCtxsvSave h o s
  | .ctxsvRestore h o => Sys2Proof.Machine.execCtxsvRestore h o s
  | .ctxsvSaveFree h o => Sys2Proof.Machine.execCtxsvSaveFree h o s
  | .ctxsvResume h o => Sys2Proof.Machine.execCtxsvResume h o s
  | .errqpop h o => Sys2Proof.Machine.execErrqpop h o s
  | .preemptionRequest f => Sys2Proof.Machine.execPreemptionRequest f s
  | .preemptionTimeout f => Sys2Proof.Machine.execPreemptionTimeout f s
  | .preemptionStop f => Sys2Proof.Machine.execPreemptionStop f s
  | .lineMove bad => Sys2Proof.Machine.execLineMove bad s
  | .sweepStart => Sys2Proof.Machine.execSweepStart s
  | .peerRemoteAccess r => Sys2Proof.Machine.execPeerRemoteAccess r s
  | .remoteAnswer id a => Sys2Proof.Machine.execRemoteAnswer id a s
  | .remoteTimeout id => Sys2Proof.Machine.execRemoteTimeout id s
  | .keepAlive id => Sys2Proof.Machine.execKeepAlive id s
  | .remoteStoreDeadline id => Sys2Proof.Machine.execRemoteStoreDeadline id s
  | .launchQueueWake => Sys2Proof.Machine.execLaunchQueueWake s
  | .invalComplete => Sys2Proof.Machine.execInvalComplete s
  | .ccountIncrement => Sys2Proof.Machine.execCcountIncrement s
  | .firmwareServiceAction f => Sys2Proof.Machine.execFirmwareServiceAction f s
  | .keepAliveSend id => Sys2Proof.Machine.execKeepAliveSend id s
  | .ratePointInEffect unit => Sys2Proof.Machine.execRatePointInEffect unit s
  | .podPhaserMessage ctx num pkg met => Sys2Proof.Machine.execPodPhaserMessage ctx num pkg met s
  | .scrub die fixed => Sys2Proof.Machine.execScrub die fixed s
  | .uncorrectableLineError sp unit line => Sys2Proof.Machine.execUncorrectableLineError sp unit line s
  | .instructionStoreError core slot => Sys2Proof.Machine.execInstructionStoreError core slot s
  | .heartbeatTimeout die => Sys2Proof.Machine.execHeartbeatTimeout die s
  | .dieLost die => Sys2Proof.Machine.execDieLost die s
  | .currentLimitTrip => Sys2Proof.Machine.execCurrentLimitTrip s
  | .currentLimitRelease => Sys2Proof.Machine.execCurrentLimitRelease s
  | .temperatureThreshold at_ deg => Sys2Proof.Machine.execTemperatureThreshold at_ deg s
  | .monitorRefresh readings => Sys2Proof.Machine.execMonitorRefresh readings s
  | .gencommit v => Sys2Proof.Machine.execGencommit v s
  | .pkgnumWrite v => Sys2Proof.Machine.execPkgnumWrite v s
  | .ctxctlCreate v => Sys2Proof.Machine.execCtxctlCreate v s
  | .ctxctlEnd v => Sys2Proof.Machine.execCtxctlEnd v s
  | .fansResolve v => Sys2Proof.Machine.execFansResolve v s
  | .fansRefuse v => Sys2Proof.Machine.execFansRefuse v s
  | .invalContext v => Sys2Proof.Machine.execInvalContext v s
  | .invalBuffer v => Sys2Proof.Machine.execInvalBuffer v s
  | .invalPage v => Sys2Proof.Machine.execInvalPage v s
  | .invalScope v => Sys2Proof.Machine.execInvalScope v s
  | .svcctlWriteImage v => Sys2Proof.Machine.execSvcctlWriteImage v s
  | .svcctlReadImage v => Sys2Proof.Machine.execSvcctlReadImage v s
  | .svcctlRetry v => Sys2Proof.Machine.execSvcctlRetry v s
  | .svcctlSkip v => Sys2Proof.Machine.execSvcctlSkip v s
  | .svcctlEndMember v => Sys2Proof.Machine.execSvcctlEndMember v s
  | .svcctlEndContext v => Sys2Proof.Machine.execSvcctlEndContext v s
  | .resvset v => Sys2Proof.Machine.execResvset v s
  | .fltctlStop v => Sys2Proof.Machine.execFltctlStop v s
  | .fltctlResume v => Sys2Proof.Machine.execFltctlResume v s
  | .fltctlSwitchOut v => Sys2Proof.Machine.execFltctlSwitchOut v s
  | .fltctlResumeCore v => Sys2Proof.Machine.execFltctlResumeCore v s
  | .reqDieLost v => Sys2Proof.Machine.execReqDieLost v s
  | .reqRetireStack v => Sys2Proof.Machine.execReqRetireStack v s
  | .reqRate v => Sys2Proof.Machine.execReqRate v s
  | .reqExpanderUp v => Sys2Proof.Machine.execReqExpanderUp v s
  | .frbaseWrite v => Sys2Proof.Machine.execFrbaseWrite v s
  | .evbaseWrite v => Sys2Proof.Machine.execEvbaseWrite v s
  | .frconsWrite v => Sys2Proof.Machine.execFrconsWrite v s
  | .evconsWrite v => Sys2Proof.Machine.execEvconsWrite v s
  | .hostRegisterWrite off v => Sys2Proof.Machine.execHostRegisterWrite off v s
  | .hostMemoryAccess addr a => Sys2Proof.Machine.execHostMemoryAccess addr a s
  | .firmwareHostAccess addr a => Sys2Proof.Machine.execFirmwareHostAccess addr a s
  | .expanderLost port => Sys2Proof.Machine.execExpanderLost port s
  | .powerGood b => Sys2Proof.Machine.execPowerGood b s
  | .getVersion => Sys2Proof.Machine.execGetVersion s
  | .getCapabilities => Sys2Proof.Machine.execGetCapabilities s
  | .negotiateAlgorithms p384 sha384 => Sys2Proof.Machine.execNegotiateAlgorithms p384 sha384 s
  | .getDigests => Sys2Proof.Machine.execGetDigests s
  | .getCertificate off len => Sys2Proof.Machine.execGetCertificate off len s
  | .challenge nonce => Sys2Proof.Machine.execChallenge nonce s
  | .getMeasurements index nonce => Sys2Proof.Machine.execGetMeasurements index nonce s
  | .dieLinkRetrain die => Sys2Proof.Machine.execDieLinkRetrain die s
  | .registerFileError f l sel gran => Sys2Proof.Machine.execRegisterFileError f l sel gran s
  | .expanderLinkUp port up => Sys2Proof.Machine.execExpanderLinkUp port up s

end Sys2Proof.Machine
end

