-- ==== Sys2Proof/Machine/Sched.lean ====
section
/-! DEFINITION. What the next step is: work that is due at once, an input from outside, the next word of the flight at
issue, or the part's own next step (log entry 3). -/

namespace Sys2Proof.Machine

/-! Work that is due at once. -/

/-- The state after the oldest work that is due at once: a resolution of a newel (R288), a held store (R208), a request of
another package (R371), a host action whose flights are gone (R387), a leader that stops for good (R289). -/
def urgent (s : State) : Option State :=
  if s.dues.any Due.ready then some (settleDue s)
  else
    match nextHeld s with
    | some t => some t
    | none =>
      match settleInbound s with
      | some t => some t
      | none =>
        match settleFltctl s with
        | some t => some t
        | none => ((allFlights s).find? canEnd).map fun f => endFlight s f.id

/-- A lane is parked at FWAIT. -/
def Lane.atFuture (l : Lane) : Bool := match l.st with | .parked (.future ..) => true | _ => false

/-- A lane parked at FWAIT whose future has ended (R302). -/
def futureWake (s : State) : Option Instr :=
  (allFlights s).findSome? fun f =>
    (allLanes.find? fun k => (f.lane k).atFuture && (resumeLane s f k).isSome).map fun k => .laneResume f.id k

/-! The flight at issue. -/

/-- A flight is in the middle of a run that can go on (R132, R184, R191, R208, R337). -/
def canIssue (f : Flight) : Bool :=
  f.live && f.run.isSome && f.stall.isNone && f.pendTrap.isNone && !f.stopped && !f.service &&
    !(f.preempt.isSome && atStop f)

/-- The next word of the flight at issue, a cycle of its die later (R14, R132), or the state in which it waits for the engine's grid
(R184 to R186). -/
def issueWord (s : State) : Option Instr × State :=
  match issue (tick s s.fl.id.die) with
  | (none, t) => (none, t)
  | (some i, t) =>
    match gridStall t i with
    | some st => (none, { t with fl := { t.fl with stall := some st } })
    | none => (some i, t)

/-! The part's own steps. -/

/-- Firmware can act on a held flight now (R328): it waits for no reload. -/
def serviceActs (s : State) (f : Flight) : Bool :=
  serviceDue s f &&
    (nested f || heldCause f != .codeAbsent || reloadHopeless f ||
      (missingSlots s f == []) ||
      (missingSlots s f).any fun i =>
        ((coreOf s f.id.coreNo).src.get (Fin.ofNat 32 i)).isNone ||
          ((coreOf s f.id.coreNo).slots.get (Fin.ofNat 32 i) != .loading && !fetcherFull s f.id.coreNo))

/-- A step of one flight that has what it waited for (R177, R184, R191, R318, R328, R331, R337). -/
def nextOfFlight (s : State) (f : Flight) : Option Instr :=
  if f.pendTrap.isSome && gridOps s f == [] then some (.trapEntry f.id)
  else if (match f.stall with | some st => stallOver s f st | none => false) then some (.engineStallRelease f.id)
  else if canStop s f then some (.preemptionStop f.id)
  else if (rteGathered f).isSome then some (.rteGatherComplete f.id)
  else if (match mmodeGathered f with | some on => on || gridOps s f == [] | none => false) then
    some (.mmodeGatherComplete f.id)
  else if barGathered f && !barArrived s f then some (.barArrive (.flight f.id))
  else if serviceActs s f then some (.firmwareServiceAction f.id)
  else
    match f.preempt with
    | some (start, _) =>
      if f.run.isSome && f.stall.isNone && decide (start.toNat + 1536 ≤ (ccountOf s f.id.die).toNat) then some (.preemptionTimeout f.id)
      else none
    | none => none

/-- The next operation of a grid (R184). -/
def nextGridOp (s : State) : Option Instr :=
  s.cores.findSome? fun c =>
    ((List.range 4).find? fun e => !(c.2.grid.get (Fin.ofNat 4 e)).isEmpty).map fun e => .gridOperation c.1 e

/-- The next step of the package newel, the annealing sequencer and the rate controller. -/
def nextOfPart (s : State) : Option Instr :=
  match s.tokens with
  | (ctx, inst) :: _ => some (.cancelTokenArrival ctx ⟨inst, none⟩)
  | [] =>
    if s.faultWait != [] && decide ((s.host.frprod - s.host.frcons).toNat < ringSize s.host.frbase) then
      some .faultRecordWrite
    else if s.prels != [] then some .prelEffect
    else if invalReady s then some .invalComplete
    else if s.lqTail.isNone && s.host.lqbase != 0 then some .launchQueueWake
    else if sweepReady s then some .sweepStart
    else (s.power.pending.head?).map fun p => .ratePointInEffect p.1

/-- Steps that finish work under way, in the model's own order. -/
def pendingWork (s : State) : Option Instr :=
  (nextGridOp s).orElse fun _ =>
  ((allFlights s).findSome? (nextOfFlight s)).orElse fun _ =>
  (nextOfPart s).orElse fun _ =>
  (nextLane s).orElse fun _ =>
  (nextFetch s).orElse fun _ =>
  (nextEngine s).orElse fun _ =>
  (nextMigr s).orElse fun _ =>
  (remoteTimer s).orElse fun _ =>
  (hubTimer s).orElse fun _ =>
  (nextRetire s).orElse fun _ =>
  (nextRecord s).orElse fun _ =>
  (nextPlace s).orElse fun _ => nextImage s

/-- The engine of a flight, counted over the package. -/
def engineOf (f : Flight) : Nat := 4 * f.id.coreNo + (f.slot.getD 0) / 2

/-- The engines that can begin a run. -/
def freeEngines (s : State) : List Nat :=
  (((allFlights s).filter candidate).map engineOf).filter fun e => !busyEngine s (e / 4) (e % 4)

/-- The engine whose turn it is: the next from the rotor on. -/
def nextEngineNo (s : State) : Option Nat :=
  let es := freeEngines s
  let least (l : List Nat) : Option Nat := l.foldl (fun m e => some (match m with | some x => Nat.min x e | none => e)) none
  (least (es.filter fun e => decide (s.rotor ≤ e))).orElse fun _ => least es

/-- The part's own next step while no word can issue: another run goes on, work under way is finished, and then the dies
count cycles, a run begins, a newel swaps, or the annealing sequencer moves a line, in turn. -/
def idle (s : State) : Option Instr × State :=
  match s.flights.find? canIssue with
  | some f => (none, focus s f.id)
  | none =>
    match pendingWork s with
    | some i => (some i, s)
    | none =>
      let s1 := { s with turn := (s.turn + 1) % 8 }
      match s.turn with
      | 0 | 1 | 2 | 3 | 4 => (some .ccountIncrement, s)
      | 5 =>
        (match nextEngineNo s with
         | some e => (some (.arbitrate (e / 4) (e % 4)), { s1 with rotor := e + 1 })
         | none => (none, { s1 with rotor := 0 }))
      | 6 => ((allFlights s).findSome? fun f => nextSwap s f.id.coreNo, s1)
      | _ =>
        (if s.anneal.act && decide (s.anneal.next.toNat < s.anneal.total.toNat) then some (.lineMove false) else none, s1)

/-- The next step of a part that runs: the instruction and the state that it executes in, or a state alone. What the package sends to
itself arrives before any lane goes on, so that a lane's accesses to one location keep their order (R226). -/
def planRunning (s : State) : Option Instr × State :=
  match urgent s with
  | some t => (none, t)
  | none =>
    match loopback s s.outbox with
    | some (i, rest) => (some i, { s with outbox := rest })
    | none =>
      match futureWake s with
      | some i => (some i, s)
      | none =>
        match s.agenda with
        | i :: rest => (some i, { s with agenda := rest })
        | [] => if canIssue s.fl then issueWord s else idle s

/-- The next step of a part that heat has shut down (R365): only its power can start it again. -/
def planShut (s : State) : Option Instr × State :=
  match s.agenda with
  | .powerGood b :: rest => (some (.powerGood b), { s with agenda := rest })
  | _ :: rest => (none, { s with agenda := rest })
  | [] => (none, s)

/-- The next step: the instruction and the state that it executes in, or a state alone. -/
def plan (s : State) : Option Instr × State := if s.power.shutDown then planShut s else planRunning s

/-! Placing a word (log entry 6). -/

/-- A lane put at a word to issue. -/
def Lane.placeAt (l : Lane) (pc : Pc) : Lane := { l with st := .ready, pc := pc, crossed := false }

/-- The state with an instruction stored where the flight at issue fetches next, and that flight live, resident and in the
middle of a run of all its lanes, with no other flight and no work that is due before it; log entry 6. -/
def placeWord (s : State) (w : Word) : State :=
  let pc := (s.fl.lane 0).pc &&& 0x1FFF8
  let f := { s.fl with live := true, slot := some (s.fl.slot.getD 0), stopped := false, service := false, stall := none,
                       pendTrap := none, ending := none, preempt := none, held := [],
                       run := some { set := BitVec.allOnes 32, rep := none },
                       lanes := tab fun k => (s.fl.lane k).placeAt pc }
  let core := s.fl.id.coreNo
  let c := coreOf s core
  let p := { s.power with shutDown := false }
  let h := { s.host with fltPending := [] }
  let s1 := setCore { s with fl := f, flights := [], dues := [], inbound := [], outbox := [], agenda := [], power := p, host := h } core
    { c with slots := c.slots.set (Fin.ofNat 32 (pc.toNat / 4096)) .present, grid := Vector.replicate 4 [] }
  writeWord s1 (storeKey core pc.toNat) w

end Sys2Proof.Machine
end

