-- ==== Sys2Proof/Machine/Step.lean ====
section
/-! DEFINITION. One step of the machine. -/

namespace Sys2Proof.Machine

/-- One step: the planned instruction in the planned state, or that state alone. -/
def step (s : State) : Host.Outcome State Fault Refusal :=
  match plan s with
  | (some i, s1) => exec i s1
  | (none, s1) => .next s1

/-- The state with an instruction, numbered as the opcode table numbers it, stored where `step` fetches next. -/
def State.withFetchWord (s : State) (nbits w : Nat) : State := placeWord s (BitVec.ofNat 64 (w % 2 ^ nbits))

end Sys2Proof.Machine
end

