-- ==== Sys2Proof/Safety.lean ====
section
/-! DEFINITION. What the claims call a safe step, the canonical form that every step keeps, and what a word leaves behind. -/

namespace Sys2Proof.Machine

/-- The sparse parts of the state are in canonical form, so that equal contents are equal data: memory and the lines of the
on-chip stores (R195). -/
def State.Inv (s : State) : Prop := Memory.wf s.mem = true ∧ Sparse.wf LineState.free s.lines = true

/-- The step ends in a next state, and neither in a fault nor in a refusal. -/
def Goes (r : Res) : Prop := ∃ t, r = .next t

/-- A lane is in Active (R32, R130). -/
def Acts (s : State) (h : Hdr) (k : LaneId) : Prop := isActive s h k = true

/-- The word at issue belongs to a run, and no lane of Active has a failed park to take or a faulting predicate byte to read
first (R30, R335). -/
def Clear (s : State) (h : Hdr) : Prop :=
  s.fl.run ≠ none ∧ ∀ k, Acts s h k → (s.fl.lane k).fail = none ∧ pgFault (s.fl.lane k) h = none

/-- The registers and flags that a lane has of its own: g, p, v, FPSTAT, ISTAT, TEMASK and TVAL (R7, R10). -/
def Lane.regs (l : Lane) : Vector Word 64 × BitVec 8 × Vector VWord 32 × BitVec 5 × BitVec 3 × Word × Word :=
  (l.g, l.p, l.v, l.fpstat, l.istat, l.temask, l.tval)

/-- The word at issue is the last of its run: its E, or the twenty-fourth word (R20), counted from the greatest position of its lanes (the
model's choice, log entry 25). -/
def EndsRun (s : State) (h : Hdr) : Prop := h.e = true ∨ 24 ≤ runPos s.fl (issuing s) + 1

/-- Of the whole state only the flight at issue differs, and of it only lanes, the run, RFLAT and DPHASE: memory, the other
flights and every other register are as before. -/
def OnlyLanes (s t : State) : Prop :=
  t = { s with fl := { s.fl with lanes := t.fl.lanes, run := t.fl.run, rflat := t.fl.rflat, dphase := t.fl.dphase } } ∧
    ∀ a, readByte t a = readByte s a

/-- What a completed repeat does to the repetition `r` (R27, R29): while repeats are left the next one is to issue, and a lane
that takes this one has counted it; after the last one every lane at issue is at the word after the target, the latches have
shifted by one word whose latch value is that of the last repeat that acted in the lane, or are stale where the target ends the
run, and the progress of the lanes that repeat is zero. -/
def CountsRepeat (s t : State) (h : Hdr) (r : RepRun) (e : LaneId → Lane) (x : LaneId → Option LatchVal) : Prop :=
  ∀ k, (issuing s).has k = true →
    let l := s.fl.lane k
    let a := t.fl.lane k
    let b := if isActive s h k then e k else l
    let p := if isActive s h k then x k else l.pend
    let takes := r.lanes.has k = true ∧ l.done.toNat ≤ r.i ∧ r.i < l.done.toNat + l.remain.toNat
    (r.i + 1 < r.last → t.fl.run = some ⟨issuing s, some { r with i := r.i + 1 }⟩ ∧ a.pc = l.pc ∧ a.lat = l.lat ∧ a.pend = p ∧
      (takes → a.done = b.done + 1 ∧ a.remain = b.remain - 1) ∧ (¬takes → a.done = b.done ∧ a.remain = b.remain)) ∧
    (r.last ≤ r.i + 1 → a.pc = l.pc + 16 ∧ (r.lanes.has k = true → a.done = 0 ∧ a.remain = 0 ∧ a.repcnt = 0) ∧
      (r.lanes.has k = false → a.done = l.done ∧ a.remain = l.remain ∧ a.repcnt = l.repcnt) ∧
      (EndsRun s h → t.fl.run = none ∧ a.lat = .stale) ∧
      (¬EndsRun s h → t.fl.run = some ⟨issuing s, none⟩ ∧ a.lat = l.lat.shift p))

/-- What a word leaves behind that completes in every lane of Active: the registers of those lanes are those of `e`, their
latch value is `x` and their next pc `n`; every other lane keeps its registers, and a lane outside the issuing set keeps
everything (R9, R22, R31). Outside a repetition the latches shift, or are stale where the run ends (R20, R22); as a repeat the
word is counted (R27, R29). DPHASE counts where the word has ADV and a lane acts (R106). -/
def AfterWord (s t : State) (h : Hdr) (adv : Bool) (e : LaneId → Lane) (x : LaneId → Option LatchVal) (n : LaneId → Pc) :
    Prop :=
  OnlyLanes s t ∧
  (∀ k, Acts s h k → (t.fl.lane k).regs = (e k).regs) ∧
  (∀ k, ¬Acts s h k → (t.fl.lane k).regs = (s.fl.lane k).regs) ∧
  (∀ k, (issuing s).has k = false → t.fl.lane k = s.fl.lane k) ∧
  ((∀ k, (s.fl.lane k).faulty = []) → t.fl.rflat = s.fl.rflat) ∧
  ((adv = true ∧ ∃ k, Acts s h k) → t.fl.dphase = s.fl.dphase + 1) ∧
  (¬(adv = true ∧ ∃ k, Acts s h k) → t.fl.dphase = s.fl.dphase) ∧
  (∀ r, repeating s = some r → CountsRepeat s t h r e x) ∧
  (repeating s = none → ∀ k, (issuing s).has k = true →
    (Acts s h k → (t.fl.lane k).pc = n k) ∧ (¬Acts s h k → (t.fl.lane k).pc = (s.fl.lane k).pc + 8) ∧
    (EndsRun s h → t.fl.run = none ∧ (t.fl.lane k).lat = .stale) ∧
    (¬EndsRun s h → t.fl.run = s.fl.run ∧ (Acts s h k → (t.fl.lane k).lat = (s.fl.lane k).lat.shift (x k)) ∧
      (¬Acts s h k → (t.fl.lane k).lat = (s.fl.lane k).lat.shift none)))

/-- The word goes to a next state that is as `AfterWord` says of the state `u`, which is `s` with the word's effect beyond its
lanes; the next word of each lane is the one after it (R79). -/
def CompletesAs (i : Instr) (s u : State) (h : Hdr) (adv : Bool) (e : LaneId → Lane) (x : LaneId → Option LatchVal) : Prop :=
  ∃ t, exec i s = .next t ∧ AfterWord u t h adv e x fun k => (s.fl.lane k).pc + 8

/-- As `CompletesAs`, for a word whose effect is in its lanes alone. -/
def Completes (i : Instr) (s : State) (h : Hdr) (adv : Bool) (e : LaneId → Lane) (x : LaneId → Option LatchVal) : Prop :=
  CompletesAs i s s h adv e x

/-- The word completes with the general result `v k` in each lane k of Active, whose flags are those of `base k` (R22, R24). -/
def GivesFrom (i : Instr) (s : State) (h : Hdr) (adv : Bool) (d : Dst) (base : LaneId → Lane) (v : LaneId → Word) : Prop :=
  Completes i s h adv (fun k => if h.w then (base k).setG d.gReg (v k) else base k) fun k => some (.gen (v k))

/-- The word completes with the general result `v k` in each lane k of Active (R22, R24). -/
def GivesG (i : Instr) (s : State) (h : Hdr) (d : Dst) (v : LaneId → Word) : Prop :=
  GivesFrom i s h false d (fun k => s.fl.lane k) v

/-- As `GivesFrom`, with a predicate result. -/
def GivesFromP (i : Instr) (s : State) (h : Hdr) (adv : Bool) (d : Dst) (base : LaneId → Lane) (v : LaneId → Bool) : Prop :=
  Completes i s h adv (fun k => if h.w then (base k).setP d.pReg (v k) else base k) fun k => some (.pred (v k))

/-- The word completes with the predicate result `v k` in each lane k of Active (R22, R24). -/
def GivesP (i : Instr) (s : State) (h : Hdr) (d : Dst) (v : LaneId → Bool) : Prop :=
  GivesFromP i s h false d (fun k => s.fl.lane k) v

/-- As `GivesFrom`, with a vector result. -/
def GivesFromV (i : Instr) (s : State) (h : Hdr) (adv : Bool) (d : Dst) (base : LaneId → Lane) (v : LaneId → VWord) : Prop :=
  Completes i s h adv (fun k => if h.w then (base k).setV d.vReg (v k) else base k) fun k => some (.vec (v k))

/-- The word completes with the vector result `v k` in each lane k of Active (R22, R24). -/
def GivesV (i : Instr) (s : State) (h : Hdr) (d : Dst) (v : LaneId → VWord) : Prop :=
  GivesFromV i s h false d (fun k => s.fl.lane k) v

/-- The word completes without a register result (R22). -/
def GivesNone (i : Instr) (s : State) (h : Hdr) : Prop := Completes i s h false (fun k => s.fl.lane k) fun _ => none

/-- The general source reads as `a k` in every lane of Active (R23, R45). -/
def ReadsG (s : State) (h : Hdr) (src : Src) (a : LaneId → Word) : Prop :=
  ∀ k, Acts s h k → srcG (s.fl.lane k) src = .ok (a k)

/-- The predicate source reads as `a k` in every lane of Active (R23, R78). -/
def ReadsP (s : State) (h : Hdr) (src : Src) (a : LaneId → Bool) : Prop :=
  ∀ k, Acts s h k → srcP (s.fl.lane k) src = .ok (a k)

/-- A predicate destination that is written has no faulting byte (R335). -/
def TakesP (s : State) (h : Hdr) (d : Dst) : Prop := ∀ k, Acts s h k → checkDstP (s.fl.lane k) d h.w = .ok ()

/-- The values of a latch entry that an operand of a class takes (R23). -/
def IsGen (x : LatchVal) : Prop := ∃ y, x = .gen y
def IsPred (x : LatchVal) : Prop := ∃ y, x = .pred y
def IsVec (x : LatchVal) : Prop := ∃ y, x = .vec y

/-- A source names a latch entry that is stale, which is LATCH_STALE with TVAL its number, or that holds a value of another class
than the operand takes, which is ILLEGAL (R23). -/
def LatchFails (l : Lane) (src : Src) (cls : LatchVal → Prop) (c : Cause) (tval : Word) : Prop :=
  ∃ k, src = .latch k ∧ ((l.latch k = none ∧ c = .latchStale ∧ tval = k.setWidth 64) ∨
    ∃ x, l.latch k = some x ∧ ¬cls x ∧ c = .illegal ∧ tval = 0)

/-- A source of a class can be read, but its register or latch entry has an uncorrectable error (R335): of a vector, `x` is the lowest
faulting granule. -/
def GenFaults (l : Lane) (src : Src) : Prop :=
  ((∃ i, src = .g i) ∨ ∃ k y, src = .latch k ∧ l.latch k = some (.gen y)) ∧ l.granules src ≠ []
def PredFaults (l : Lane) (src : Src) : Prop :=
  ((∃ i, src = .p i) ∨ ∃ k y, src = .latch k ∧ l.latch k = some (.pred y)) ∧ l.granules src ≠ []
def VecFaults (l : Lane) (src : Src) (x : Gran) : Prop :=
  ((∃ i, src = .v i) ∨ ∃ k y, src = .latch k ∧ l.latch k = some (.vec y)) ∧
  x ∈ l.granules src ∧ ∀ y ∈ l.granules src, x.gran.toNat ≤ y.gran.toNat

/-- TEMASK of the sub-elements of width w that lie in granule g (R335). -/
def granMask (w g : Nat) : Word :=
  BitVec.ofNat 64 (((List.range (512 / w)).filter fun j => decide (w * j / 64 = g)).map fun j => 2 ^ j).sum

/-- Words whose operand SA is general, predicate or vector, and is read first. -/
def readsGen (h : Hdr) (o : OpsA) : List Instr :=
  [.add h o, .sub h o, .mul h o, .neg h o, .abs h o, .mulh h o, .mulhu h o, .min h o, .max h o, .minu h o, .maxu h o, .div h o,
   .divu h o, .rem h o, .remu h o, .and h o, .or h o, .xor h o, .andn h o, .not h o, .shl h o, .shr h o, .sar h o, .rol h o, .ror h o,
   .clz h o, .ctz h o, .popc h o, .brev h o, .bswap h o, .bfx h o, .bfxs h o, .sel h o, .lea h o, .cmp h o, .cmpu h o, .brx h o,
   .ret h o, .callx h o, .fadd h o, .fsub h o, .fmul h o, .ffma h o, .fdiv h o, .fsqrt h o, .fmin h o, .fmax h o, .fabs h o, .fneg h o,
   .fcmp h o, .fclass h o, .frnd h o, .fcvt h o, .fcvti h o, .icvtf h o, .cvt8 h o, .cvt8x h o, .fscale h o, .sclx h o]
def readsPred (h : Hdr) (o : OpsA) : List Instr := [.pand h o, .por h o, .pxor h o, .pnot h o, .pmov h o]
def readsVec (h : Hdr) (o : OpsA) : List Instr :=
  [.vadd h o, .vsub h o, .vmul h o, .vdiv h o, .vsqrt h o, .vmin h o, .vmax h o, .vand h o, .vor h o, .vxor h o, .vshl h o, .vshr h o,
   .vsar h o, .vcmp h o, .vsel h o, .vmov h o]

/-- The exact integer as 64 bits, clamped to the range of INT64 with `sat`. -/
def clamped (sat : Bool) (x : Int) : Word := BitVec.ofInt 64 (if sat then max (-2 ^ 63) (min (2 ^ 63 - 1) x) else x)

/-- The exact integer lies outside the range of INT64. -/
def outside (x : Int) : Bool := decide (x < -2 ^ 63) || decide (2 ^ 63 - 1 < x)

/-- The lane with more sticky flags of ISTAT. -/
def Lane.withI (l : Lane) (f : BitVec 3) : Lane := { l with istat := l.istat ||| f }

/-- The word completes with FitInt64 of the exact integer `x k`, and ISTAT.SAT set where it was clamped (R64). -/
def GivesFit (i : Instr) (s : State) (h : Hdr) (o : OpsA) (x : LaneId → Int) : Prop :=
  GivesFrom i s h false o.dst
    (fun k => if o.sat && outside (x k) then (s.fl.lane k).withI 4 else s.fl.lane k) fun k => clamped o.sat (x k)

/-- The program's registers of a lane: g, p, v, FPSTAT and ISTAT (R7, R10). -/
def Lane.prog (l : Lane) : Vector Word 64 × BitVec 8 × Vector VWord 32 × BitVec 5 × BitVec 3 :=
  (l.g, l.p, l.v, l.fpstat, l.istat)

/-- The context's handler takes the trap (R324): the flight is neither in a handler nor privileged, and TVEC is enabled and
delegates the cause, a SOFTWARE_TRAP below 0x800 only. -/
def Handled (f : Flight) (c : Cause) (n : Word) : Prop :=
  f.hnd = false ∧ f.priv = false ∧ f.tvec.getLsbD 0 = true ∧ (∃ b, c.delegable = some b ∧ f.tvec.getLsbD (32 + b) = true) ∧
    (c = .softwareTrap → n.toNat < 0x800)

/-- The host is asked to handle the trap (R327, R328). -/
def HostHandled (s : State) (c : Cause) : Prop :=
  s.fl.priv = false ∧ ∃ b, c.delegable = some b ∧ (ctxOf s s.fl.ctx).hostSvc.getLsbD b = true

/-- What taking a trap leaves behind (R31, R323 to R327), when the lanes of T trap with TEMASK `te`, TVAL `tval`, the partial
effect `b` and partial latch value `y`, cause `c` leading, and the others of Active have the effect `e` and the latch value `x`:
HND, TCAUSE, TMASK, TPC and TINSN; TEMASK and TVAL of the issuing set; the program's registers; the shadow of a first trap; and
where the lanes go. `n` is the number of a SOFTWARE_TRAP. Memory is as before unless the host is told of the trap, and every
other flight is as before. -/
def AfterTrap (s t : State) (h : Hdr) (T : LaneId → Prop) (c : Cause) (n : Word) (te tval : LaneId → Word) (b : LaneId → Lane)
    (y : LaneId → Option LatchVal) (e : LaneId → Lane) (x : LaneId → Option LatchVal) : Prop :=
  t.fl.hnd = true ∧ t.fl.run = none ∧ t.fl.tcause = BitVec.ofBool s.fl.hnd ++ 0#1 ++ c.code ∧
  (∀ k, t.fl.tmask.has k = true ↔ T k) ∧ t.fl.tpc = issuePc s ∧ t.fl.tinsn = s.iw ∧ t.fl.dphase = s.fl.dphase ∧
  t.flights = s.flights ∧ (¬HostHandled s c ∨ Handled s.fl c n → ∀ a, readByte t a = readByte s a) ∧
  (∀ k, (issuing s).has k = false → (t.fl.lane k).regs = (s.fl.lane k).regs ∧ (t.fl.lane k).pc = (s.fl.lane k).pc ∧
    (t.fl.lane k).st = (s.fl.lane k).st) ∧
  ∀ k, (issuing s).has k = true →
    (T k → (t.fl.lane k).temask = te k ∧ (t.fl.lane k).tval = tval k ∧ (t.fl.lane k).prog = (b k).prog) ∧
    (¬T k → (t.fl.lane k).temask = 0 ∧ (t.fl.lane k).tval = 0) ∧
    (Acts s h k ∧ ¬T k → (t.fl.lane k).prog = (e k).prog) ∧
    (¬Acts s h k ∧ ¬T k → (t.fl.lane k).prog = (s.fl.lane k).prog) ∧
    (s.fl.hnd = false → (t.fl.lane k).inS = true ∧ (t.fl.lane k).shadow = (s.fl.lane k).lat ∧
      (t.fl.lane k).shFix = none ∧ (T k → (t.fl.lane k).shPart = y k ∧ (t.fl.lane k).shPend = none) ∧
      (¬T k → (t.fl.lane k).shPart = none) ∧ (Acts s h k ∧ ¬T k → (t.fl.lane k).shPend = x k) ∧
      (¬Acts s h k ∧ ¬T k → (t.fl.lane k).shPend = none)) ∧
    (s.fl.hnd = true → (t.fl.lane k).shadow = (s.fl.lane k).shadow ∧ (t.fl.lane k).inS = (s.fl.lane k).inS) ∧
    (Handled s.fl c n → (t.fl.lane k).st = .ready ∧ (t.fl.lane k).pc = tvecEntry s.fl.tvec ∧ (t.fl.lane k).lat = .stale) ∧
    (¬Handled s.fl c n → t.fl.service = true ∧ (t.fl.lane k).st = .parked .service ∧
      (t.fl.lane k).pc = (s.fl.lane k).pc)

/-- The word may trap at once, outside a repetition: no grid operation of the flight is outstanding (R191), and no lane at
issue has exited (R127). -/
def MayTrap (s : State) : Prop :=
  gridOps s s.fl = [] ∧ repeating s = none ∧ ∀ k, (issuing s).has k = true → (s.fl.lane k).st ≠ .exited

/-- The word traps in the lanes of T, `c` leading, with TEMASK `te`, TVAL `tval`, the partial effect `b` and partial latch value
`y`, and completes in the other lanes of Active. -/
def TrapsAs (i : Instr) (s : State) (h : Hdr) (T : LaneId → Prop) (c : Cause) (n : Word) (te tval : LaneId → Word)
    (b : LaneId → Lane) (y : LaneId → Option LatchVal) (e : LaneId → Lane) (x : LaneId → Option LatchVal) : Prop :=
  ∃ t, exec i s = .next t ∧ AfterTrap s t h T c n te tval b y e x

/-- As `TrapsAs`, for an instruction without sub-elements: TEMASK is 1 and a trapping lane has no effect (R31, R323). -/
def Traps (i : Instr) (s : State) (h : Hdr) (T : LaneId → Prop) (c : Cause) (n : Word) (tval : LaneId → Word)
    (e : LaneId → Lane) (x : LaneId → Option LatchVal) : Prop :=
  TrapsAs i s h T c n (fun _ => 1) tval (fun k => s.fl.lane k) (fun _ => none) e x

/-- Quotient, remainder and the flags raised of a division that does not trap (R68, R69). -/
def Divided (sgn : Bool) (a b q r : Word) (f : BitVec 3) : Prop :=
  if b = 0 then f = 1 ∧ q = BitVec.allOnes 64 ∧ r = a
  else if sgn = false then f = 0 ∧ a.toNat = q.toNat * b.toNat + r.toNat ∧ r.toNat < b.toNat
  else if a.toInt = -2 ^ 63 ∧ b.toInt = -1 then f = 2 ∧ q = a ∧ r = 0
  else f = 0 ∧ a.toInt = q.toInt * b.toInt + r.toInt ∧ r.toInt.natAbs < b.toInt.natAbs ∧
    (0 ≤ a.toInt → 0 ≤ r.toInt) ∧ (a.toInt ≤ 0 → r.toInt ≤ 0)

/-- The lane after a division whose result is `v` and that raises `f` (R68). -/
def divLane (s : State) (h : Hdr) (d : Dst) (v : LaneId → Word) (f : LaneId → BitVec 3) (k : LaneId) : Lane :=
  if h.w then ((s.fl.lane k).withI (f k)).setG d.gReg (v k) else (s.fl.lane k).withI (f k)

/-- The target lies where the branch may go (R19, R79): aligned, inside the store, and in the slot of the branch, or, where
any slot will do, in one that is PRESENT. -/
def TargetOk (s : State) (k : LaneId) (t : Word) (near : Bool) : Prop :=
  t.toNat % 8 = 0 ∧ t.toNat < 0x20000 ∧
    if near then t.toNat / 4096 = (s.fl.lane k).pc.toNat / 4096
    else (coreOf s s.fl.id.coreNo).slots.get (Fin.ofNat 32 (t.toNat / 4096)) = .present

/-- A control transfer to `t k` (R19, R79): it completes there, with the effect `e` and latch value `x`, when every lane may
go; lanes with misaligned targets trap with ALIGN and lanes with other bad targets with CODE_ABSENT, and the rest go. -/
def BranchesTo (i : Instr) (s : State) (h : Hdr) (t : LaneId → Word) (near : Bool) (e : LaneId → Lane)
    (x : LaneId → Option LatchVal) : Prop :=
  ((∀ k, Acts s h k → TargetOk s k (t k) near) →
    ∃ u, exec i s = .next u ∧ AfterWord s u h false e x fun k => (t k).setWidth 17) ∧
  ∀ T : LaneId → Prop, MayTrap s → (∃ k, T k) → (∀ k, T k → Acts s h k) →
    (∀ k, Acts s h k → (¬T k ↔ TargetOk s k (t k) near)) →
    ((∀ k, T k → (t k).toNat % 8 ≠ 0) → Traps i s h T .align 0 t e x) ∧
    ((∀ k, T k → (t k).toNat % 8 = 0) → Traps i s h T .codeAbsent 0 t e x)

/-- The link value of a lane (R79). -/
def linkAt (s : State) (k : LaneId) : Word := BitVec.ofNat 64 ((s.fl.lane k).pc.toNat + 8)

/-- The lane with the link written under W (R79). -/
def linked (s : State) (h : Hdr) (d : Dst) (k : LaneId) : Lane :=
  if h.w then (s.fl.lane k).setG d.gReg (linkAt s k) else s.fl.lane k

/-- No register, no byte of memory and no other flight is changed. -/
def KeepsData (s t : State) : Prop :=
  (∀ k, (t.fl.lane k).regs = (s.fl.lane k).regs) ∧ (∀ a, readByte t a = readByte s a) ∧ t.flights = s.flights

/-- A mask of the flight at issue takes the value `m` (R138): when that releases it, the mask is emptied and the lanes parked
on it that had arrived become READY at the word after; otherwise it holds `m` and its lanes stay parked. The other masks are
as before. -/
def MaskBecomes (s t : State) (j : BitVec 3) (m : RMask) : Prop :=
  (∀ i, i ≠ j → t.fl.mask i = s.fl.mask i) ∧ KeepsData s t ∧
  if m.arrived ≠ 0 ∧ m.enrolled = m.arrived then
    t.fl.mask j = ⟨0, 0⟩ ∧
    ∀ k, (s.fl.lane k).st = .parked (.rejoin j) → m.arrived.has k = true →
      (t.fl.lane k).st = .ready ∧ ((s.fl.lane k).parkRep = false → (t.fl.lane k).pc = (s.fl.lane k).pc + 8)
  else t.fl.mask j = m ∧ ∀ k, (s.fl.lane k).st = .parked (.rejoin j) → (t.fl.lane k).st = (s.fl.lane k).st

/-- Every lane at issue is READY, as arbitration chose it (R127, R128). -/
def AllReady (s : State) : Prop := ∀ k, (issuing s).has k = true → (s.fl.lane k).st = .ready

/-- Outside a repetition, every lane at issue stays READY and goes to the word after (R79). -/
def GoesOn (s t : State) : Prop :=
  repeating s = none → ∀ k, (issuing s).has k = true → (t.fl.lane k).st = .ready ∧ (t.fl.lane k).pc = (s.fl.lane k).pc + 8

/-- Repeat i of a REP target: every selected field is advanced by i, and no other bit is changed (R27). `step` holds STC, STB,
STA and STD from bit 0. -/
def Stepped (w u : Word) (step : BitVec 4) (i : Nat) : Prop :=
  (u.extractLsb' 40 7).toNat = (w.extractLsb' 40 7).toNat + (if step.getLsbD 3 then i else 0) ∧
  (u.extractLsb' 32 8).toNat = (w.extractLsb' 32 8).toNat + (if step.getLsbD 2 then i else 0) ∧
  (u.extractLsb' 24 8).toNat = (w.extractLsb' 24 8).toNat + (if step.getLsbD 1 then i else 0) ∧
  (u.extractLsb' 16 8).toNat = (w.extractLsb' 16 8).toNat + (if step.getLsbD 0 then i else 0) ∧
  u.extractLsb' 47 17 = w.extractLsb' 47 17 ∧ u.extractLsb' 0 16 = w.extractLsb' 0 16

/-- The value of a finite number, as a rational. -/
def Num.rat : Num → ℚ
  | .fin neg m e => (if neg then -1 else 1) * m * (2 : ℚ) ^ e
  | _ => 0

/-- The exact result denotes a rational: a zero, or a signed fraction (R101). -/
def Val.Means (v : Val) (q : ℚ) : Prop :=
  match v with
  | .zero _ | .cancel => q = 0
  | .real neg n d root => root = false ∧ 0 < n ∧ 0 < d ∧ q = (if neg then -1 else 1) * (n / d : ℚ)
  | _ => False

/-- The grid value of a magnitude code; codes go on above the largest finite value (R97, R101). -/
def Fmt.at (f : Fmt) (code : Nat) : ℚ := (f.mag code).1 * (2 : ℚ) ^ (f.mag code).2

/-- The magnitude x, or its root, lies above m, or at m. -/
def isAbove (root : Bool) (x m : ℚ) : Prop := if root then m * m < x else m < x
def isAt (root : Bool) (x m : ℚ) : Prop := if root then m * m = x else m = x

/-- Whether a magnitude between the grid values a and b, inexact, rounds to b (R101, R105): `odd` is the parity of the code of
a and `t` the dither threshold; the dither rule compares signed values. -/
def GoesUp (rm : Rnd) (neg odd root : Bool) (x a b : ℚ) (t : Nat) : Prop :=
  match rm with
  | .rne => isAbove root x ((a + b) / 2) ∨ (isAt root x ((a + b) / 2) ∧ odd = true)
  | .rtz => False
  | .rdn => neg = true
  | .rup => neg = false
  | .dith =>
    if neg then isAbove root x (b - (t + 1 / 2) * (b - a) / 64)
    else isAbove root x (a + (t + 1 / 2) * (b - a) / 64) ∨ isAt root x (a + (t + 1 / 2) * (b - a) / 64)

/-- The code and flags of a rounded magnitude code (R101 to R103): `exact` and `tiny` say that x is a value of the grid, and
below the smallest normal value. -/
def Settles (f : Fmt) (neg : Bool) (code : Nat) (exact tiny : Prop) (rm : Rnd) (sat : Bool) (r : Nat × BitVec 5) : Prop :=
  if f.sgn = false ∧ neg = true ∧ code ≠ 0 then r = if sat then (0, flIX) else (f.nan, flIV)
  else if f.top < code then
    r.2 = flOF ||| flIX ∧
    r.1 = if sat then f.encode neg f.top else if !f.inf then f.nan
      else f.encode neg (match rm with
        | .rne | .dith => f.infCode
        | .rtz => f.top
        | .rdn => if neg then f.infCode else f.top
        | .rup => if neg then f.top else f.infCode)
  else r.1 = f.encode neg code ∧ (exact → r.2 = 0) ∧ (¬exact → tiny → r.2 = flIX ||| flUF) ∧ (¬exact → ¬tiny → r.2 = flIX)

/-- RoundTo of (−1)^neg × x, or of its root, x > 0 (R101). -/
def RoundsTo (f : Fmt) (neg : Bool) (x : ℚ) (root : Bool) (rm : Rnd) (t : Nat) (sat : Bool) (r : Nat × BitVec 5) : Prop :=
  ∃ lo, (isAbove root x (f.at lo) ∨ isAt root x (f.at lo)) ∧ ¬isAbove root x (f.at (lo + 1)) ∧ ¬isAt root x (f.at (lo + 1)) ∧
    let tiny := ¬isAbove root x (2 ^ (1 - f.bias)) ∧ ¬isAt root x (2 ^ (1 - f.bias))
    let up := GoesUp rm neg (decide (lo % 2 = 1)) root x (f.at lo) (f.at (lo + 1)) t
    (isAt root x (f.at lo) → Settles f neg lo True tiny rm sat r) ∧
    (¬isAt root x (f.at lo) → up → Settles f neg (lo + 1) False tiny rm sat r) ∧
    (¬isAt root x (f.at lo) → ¬up → Settles f neg lo False tiny rm sat r)

/-- The causes of the flags, in FPSTAT's bit order (R108). -/
def flagCause (b : Nat) : Cause := [Cause.fpInvalid, .fpDivzero, .fpOverflow, .fpUnderflow, .fpInexact].getD b .fpInexact

/-- The lane with more sticky flags of FPSTAT. -/
def Lane.withF (l : Lane) (f : BitVec 5) : Lane := { l with fpstat := l.fpstat ||| f }

/-- FpRaise (R108): without an enabled flag the word completes with `e` and `x`; otherwise the lanes that raise one trap, the
cause being the first of R108's order that any of them raises, and the rest complete. -/
def RaisesFp (i : Instr) (s : State) (h : Hdr) (adv : Bool) (fl : LaneId → BitVec 5) (e : LaneId → Lane)
    (x : LaneId → Option LatchVal) : Prop :=
  let en := s.fl.fpctl.extractLsb' 3 5
  ((∀ k, Acts s h k → fl k &&& en = 0) → Completes i s h adv e x) ∧
  ∀ T : LaneId → Prop, MayTrap s → (∀ k, T k ↔ Acts s h k ∧ fl k &&& en ≠ 0) →
    ∀ b, b < 5 → (∃ k, T k ∧ (fl k &&& en).getLsbD b = true) → (∀ c k, c < b → T k → (fl k &&& en).getLsbD c = false) →
      Traps i s h T (flagCause b) 0 (fun k => (fl k &&& en).setWidth 64) e x

/-- The word gives the general result and flags `r k` (R108, R112). -/
def GivesFp (i : Instr) (s : State) (h : Hdr) (o : OpsA) (r : LaneId → Nat × BitVec 5) : Prop :=
  RaisesFp i s h o.adv (fun k => (r k).2)
    (fun k => if h.w then ((s.fl.lane k).withF (r k).2).setG o.dst.gReg (BitVec.ofNat 64 (r k).1)
      else (s.fl.lane k).withF (r k).2)
    fun k => some (.gen (BitVec.ofNat 64 (r k).1))

/-- The order of values that are not NaN: below, and equal; −0 equals +0 (R116). -/
def Num.Less (x y : Num) : Prop :=
  match x, y with
  | .inf n, .inf m => n = true ∧ m = false
  | .inf n, .fin _ _ _ => n = true
  | .fin _ _ _, .inf m => m = false
  | .fin _ _ _, .fin _ _ _ => x.rat < y.rat
  | _, _ => False
def Num.Same (x y : Num) : Prop :=
  match x, y with
  | .inf n, .inf m => n = m
  | .fin _ _ _, .fin _ _ _ => x.rat = y.rat
  | _, _ => False

/-- The order of FMIN and FMAX, with −0 below +0 (R114). -/
def Num.Under (x y : Num) : Prop := x.Less y ∨ (x.Same y ∧ x.sign = true ∧ y.sign = false)

/-- The codes that FMIN and FMAX give of the codes x and y (R114). -/
def IsMinMax (f : Fmt) (x y lo hi : Nat) : Prop :=
  let a := f.decode x
  let b := f.decode y
  (a.isNan = true → b.isNan = true → lo = f.nan ∧ hi = f.nan) ∧
  (a.isNan = true → b.isNan = false → lo = y ∧ hi = y) ∧
  (a.isNan = false → b.isNan = true → lo = x ∧ hi = x) ∧
  (a.isNan = false → b.isNan = false → (b.Under a → lo = y) ∧ (¬b.Under a → lo = x) ∧ (a.Under b → hi = y) ∧
    (¬a.Under b → hi = x))

/-- The comparison of a with b under a condition code, and its flags (R116). -/
def IsCompare (cc : BitVec 4) (a b : Num) (v : Bool) (fl : BitVec 5) : Prop :=
  let un := a.isNan || b.isNan
  (fl = if un = true ∧ cc ∈ [2, 3, 4, 5] ∨ a.isSnan = true ∨ b.isSnan = true then flIV else 0) ∧
  (cc = 0 → (v = true ↔ un = false ∧ a.Same b)) ∧ (cc = 1 → (v = true ↔ un = true ∨ ¬a.Same b)) ∧
  (cc = 2 → (v = true ↔ un = false ∧ a.Less b)) ∧ (cc = 3 → (v = true ↔ un = false ∧ (a.Less b ∨ a.Same b))) ∧
  (cc = 4 → (v = true ↔ un = false ∧ b.Less a)) ∧ (cc = 5 → (v = true ↔ un = false ∧ (b.Less a ∨ a.Same b))) ∧
  (cc = 6 → (v = true ↔ un = true)) ∧ (cc = 7 → (v = true ↔ un = false))

/-- A magnitude m rounded to an integer q (R118, R120). -/
def IntRounds (rm : Rnd) (neg : Bool) (t : Nat) (m : ℚ) (q : Nat) : Prop :=
  let n := ⌊m⌋₊
  (m = n → q = n) ∧ (m ≠ n → GoesUp rm neg (decide (n % 2 = 1)) false m n (n + 1) t → q = n + 1) ∧
    (m ≠ n → ¬GoesUp rm neg (decide (n % 2 = 1)) false m n (n + 1) t → q = n)

/-- The integer and flags of a conversion to the integer type t, saturating (R120). -/
def IsToInt (t : Ty) (x : Num) (rm : Rnd) (d : Nat) (r : Int × BitVec 5) : Prop :=
  (∀ sig, x = .nan sig → r = (0, flIV)) ∧ (∀ n, x = .inf n → r = (if n then intMin t else intMax t, flIV)) ∧
  ∀ n m e, x = .fin n m e → ∃ q : Nat, IntRounds rm n d |x.rat| q ∧
    let v : Int := (if n then -1 else 1) * q
    r = if intMax t < v then (intMax t, flIV) else if v < intMin t then (intMin t, flIV)
      else (v, if |x.rat| = ⌊|x.rat|⌋₊ then 0 else flIX)

/-- The vector source reads as `a k` in every lane of Active, with sub-elements of type `t`, and no granule of it is faulty
(R45, R146, R335). -/
def ReadsV (s : State) (h : Hdr) (t : Ty) (src : Src) (a : LaneId → VWord) : Prop :=
  ∀ k, Acts s h k → vecSrc (s.fl.lane k) t src = .ok (a k) ∧ (s.fl.lane k).granules src = []

/-- The flags of the sub-elements that satisfy P, together. -/
def allFlags (n : Nat) (P : Nat → Bool) (fl : Nat → BitVec 5) : BitVec 5 :=
  (List.range n).foldl (fun m j => if P j then m ||| fl j else m) 0

/-- An element operation whose sub-elements j < n that satisfy `part` have the results `r k j` (R147). In a lane without an enabled
flag they are all written and their flags raised; in a lane with one, the sub-elements that raise it keep their value and
raise nothing, TEMASK names them and TVAL holds their flags, while the rest are written. The latch value is the whole
register so composed. `u` is `s` with the word's effect beyond its lanes. -/
def GivesSubsAs (i : Instr) (s u : State) (h : Hdr) (adv : Bool) (d : Dst) (w n : Nat) (part : Nat → Bool)
    (r : LaneId → Nat → SubRes) : Prop :=
  let en := s.fl.fpctl.extractLsb' 3 5
  let good := fun (k : LaneId) (j : Nat) => part j && ((r k j).fl &&& en == 0)
  let bad := fun (k : LaneId) (j : Nat) => part j && ((r k j).fl &&& en != 0)
  let v := fun k => vecOf w n fun j => if good k j then (r k j).bits else subWord ((s.fl.lane k).getV d.vReg) w j
  let flagged := fun k => ((s.fl.lane k).withF (allFlags n (good k) fun j => (r k j).fl)).withI
    (if (List.range n).any fun j => good k j && (r k j).sat then 4 else 0)
  let e := fun k => if h.w then (flagged k).setV d.vReg (v k) else flagged k
  let x := fun k => some (LatchVal.vec (v k))
  ((∀ k, Acts s h k → ∀ j, j < n → bad k j = false) → CompletesAs i s u h adv e x) ∧
  ∀ T : LaneId → Prop, MayTrap s → (∀ k, T k ↔ Acts s h k ∧ ∃ j, j < n ∧ bad k j = true) →
    let tv := fun k => allFlags n (bad k) (fun j => (r k j).fl) &&& en
    ∀ b, b < 5 → (∃ k, T k ∧ (tv k).getLsbD b = true) → (∀ c k, c < b → T k → (tv k).getLsbD c = false) →
      TrapsAs i s h T (flagCause b) 0 (fun k => BitVec.ofFnLE fun j : Fin 64 => decide (j.val < n) && bad k j.val)
        (fun k => (tv k).setWidth 64) e x e x

/-- As `GivesSubsAs`, of every sub-element and without an effect beyond the lanes. -/
def GivesSubs (i : Instr) (s : State) (h : Hdr) (d : Dst) (t : Ty) (r : LaneId → Nat → SubRes) : Prop :=
  GivesSubsAs i s s h false d t.width t.count (fun _ => true) r

/-- An exact integer in the range of a type, clamped with `sat` (R150). -/
def fitTo (t : Ty) (sat : Bool) (x : Int) : SubRes :=
  let y := if sat then max (intMin t) (min (intMax t) x) else x
  ⟨(BitVec.ofInt t.width y).toNat, 0, decide (y ≠ x)⟩

/-- The rounding that a word's RM selects (R104). -/
def rndOf (s : State) (rm : BitVec 3) : Rnd :=
  if rm = 0 then Rnd.ofCode (s.fl.fpctl.toNat % 8) else Rnd.ofCode (rm.toNat - 1)

/-- The state after a cross-lane word, beyond its lanes: the counter of free values (log entry 11). -/
def State.crossed (s : State) : State := { s with fresh := s.fresh + 1 }

/-- A cross-lane word that gives a general or a vector result (R158). -/
def CrossG (i : Instr) (s : State) (h : Hdr) (d : Dst) (v : LaneId → Word) : Prop :=
  CompletesAs i s s.crossed h false (fun k => if h.w then (s.fl.lane k).setG d.gReg (v k) else s.fl.lane k)
    fun k => some (.gen (v k))
def CrossV (i : Instr) (s : State) (h : Hdr) (d : Dst) (v : LaneId → VWord) : Prop :=
  CompletesAs i s s.crossed h false (fun k => if h.w then (s.fl.lane k).setV d.vReg (v k) else s.fl.lane k)
    fun k => some (.vec (v k))

/-- The value `v` is that of lane n where it acts, and otherwise the lane's own (R158). -/
def TakenFrom {α : Type} (s : State) (h : Hdr) (a : LaneId → α) (k : LaneId) (n : Nat) (v : α) : Prop :=
  (∀ j : LaneId, j.val = n → Acts s h j → v = a j) ∧ ((∀ j : LaneId, j.val = n → ¬Acts s h j) → v = a k)

/-- The value of lane l at a level of TreeReduce (R162), from the values at level 0. -/
def treeLevel (op : Nat → Nat → SubRes) (x : Nat → Option SubRes) : Nat → Nat → Option SubRes
  | 0, l => x l
  | m + 1, l => combine op (treeLevel op x m l) (treeLevel op x m (l + 2 ^ m))

/-- A field of VBFLY (R165), bit by bit: `low` is the lower lane of the pair, a its field and p its partner's. -/
def IsFly (w : Nat) (low : Bool) (a p m sh x : Nat) : Prop :=
  x < 2 ^ w ∧ ∀ i, i < w → x.testBit i =
    if low then (if m.testBit i then a.testBit i else decide (sh ≤ i) && p.testBit (i - sh))
    else if m.testBit i then p.testBit (i + sh) else a.testBit i

/-! Accesses. -/

/-- No line is poisoned and no expander port is lost, so that reading a table leaves neither a report nor a mark. -/
def Intact (s : State) : Prop := s.poison = [] ∧ ∀ cl, portLost s cl = false

/-- Every element of an access passes its checks, and lies at the flat address `key` (R202, R211 to R213). -/
def Reaches (s : State) (f : Flight) (a : Acc) (store : Bool) (key : Elem → Nat) : Prop :=
  probes s f a store = a.elems.map fun e => (e, .at_ (key e))

/-- What a lane reads of a byte: a FREE line reads zero outside privileged code (R195); in main memory the byte, where the
lane has no held store that is not yet performed (R216). -/
def ReadsByte (s : State) (f : Flight) (k : LaneId) (sp : MSpace) (key : Nat) (b : Byte) : Prop :=
  (sp ∈ [MSpace.h, .g, .z, .n] →
    b = if f.priv = false ∧ (lineSt s (lineOf key)).owner = none then 0 else readByte s key) ∧
  (sp = .m → s.inbound = [] → (∀ x ∈ f.held, x.lane ≠ k) → b = readByte s key)

/-- The bits of a virtual address that index a level of the walk: the lowest, and how many entries a table has (R204). -/
def walkLow (l : Nat) : Nat := if l = 1 then 39 else if l = 2 then 30 else if l = 3 then 21 else 16
def walkEntries (l : Nat) : Nat := if l = 4 then 32 else 512

/-- A page-table entry without a reserved field that is not zero (R204, R205). -/
def pteClean (e : Word) : Prop := e.extractLsb' 48 9 = 0 ∧ e.extractLsb' 59 2 ≠ 3

/-- The walk of a virtual address comes to its level L (R204): `at_` and `e` are the addresses and the entries of levels 1 to L, and
each entry before the last is a clean one of HBM4E that names the next table. -/
def WalkTo (s : State) (c : BitVec 6) (va L : Nat) (at_ : Nat → Nat) (e : Nat → Word) : Prop :=
  (at_ 1 = (((ctxOf s c).word 0).extractLsb' 0 48).toNat + 8 * (va / 2 ^ 39 % 512)) ∧
  (∀ l, 1 ≤ l → l ≤ L → e l = pteAt s c (at_ l)) ∧
  ∀ l, 1 ≤ l → l < L → at_ l / 64 < lineCapacity (retirements s) ∧ lineOf (at_ l) ∉ s.poison ∧ (e l).getLsbD 63 = true ∧
    (e l).getLsbD 62 = false ∧ pteClean (e l) ∧ pteAddr (e l) % (8 * walkEntries (l + 1)) = 0 ∧
    at_ (l + 1) = pteAddr (e l) + 8 * (va / 2 ^ walkLow (l + 1) % walkEntries (l + 1))

/-- The fault kinds of a leaf e of level L, for a byte of a buffer (R205): F is the frame that the byte is in. -/
def LeafKind (s : State) (b : BufEntry) (L : Nat) (e : Word) (F n : Nat) : Prop :=
  let cl := (e.extractLsb' 59 2).toNat
  let cellar := e.getLsbD 61 = true
  let pinned := b.il = 3
  (n = 2 ∧ (¬pteClean e ∨ pteAddr e % 65536 ≠ 0 ∨ pteFrame e % leafFrames L ≠ 0 ∨ (cl ≠ 0 ∧ ¬cellar))) ∨
  (n = 3 ∧ pinned ∧ L ≠ 4) ∨ (n = 4 ∧ pinned ∧ pteFrame e % 8 ≠ b.stk.toNat) ∨
  (n = 5 ∧ ¬cellar ∧ e.getLsbD 57 ≠ decide (2 ≤ b.il.toNat)) ∨
  (n = 6 ∧ ¬cellar ∧ lineCapacity (retirements s) / 1024 ≤ F) ∨ (n = 6 ∧ cellar ∧ cellarFrames s cl ≤ F) ∨ (n = 7 ∧ cellar ∧ pinned)

/-- The bytes that a load moves (R93, R169, R170). -/
def Acc.bytes (a : Acc) : Nat := if a.kind = .gather then 64 else a.size

/-- `x` is the value that a load reads, the byte at the lowest address the least significant (R2). -/
def LoadedFrom (s : State) (f : Flight) (k : LaneId) (a : Acc) (key : Elem → Nat) (x : Nat) : Prop :=
  x < 2 ^ (8 * a.bytes) ∧ ∀ e ∈ a.elems, ∀ i, i < e.len →
    ReadsByte s f k a.sp (key e + i) (BitVec.ofNat 8 (x / 2 ^ (8 * (e.pos + i))))

/-- The lane with the value of its load, extended, and the latch value (R22, R24, R93). -/
def Lane.taken (l : Lane) (a : Acc) (x : Nat) : Lane × Option LatchVal :=
  match a.dst with
  | .v i => (if a.w then l.setV i (BitVec.ofNat 512 x) else l, some (.vec (BitVec.ofNat 512 x)))
  | d =>
    let v : Word := if a.sgn then (BitVec.ofNat (8 * a.size) x).signExtend 64 else BitVec.ofNat 64 x
    (if a.w then l.setG d.gReg v else l, some (.gen v))

/-- Every lane of Active parks at the word on its condition; the others of the issuing set go to the word after it, and the
run is cut (R25, R129). `u` is `s` with the word's effect beyond its lanes. -/
def Parks (i : Instr) (s u : State) (h : Hdr) (c : LaneId → Park) : Prop :=
  (∃ k, Acts s h k) → ∃ t, exec i s = .next t ∧
    t = { u with fl := { u.fl with lanes := t.fl.lanes, run := none, rflat := t.fl.rflat, since := t.fl.since } } ∧ ∀ k,
      (t.fl.lane k).regs = (s.fl.lane k).regs ∧ (t.fl.lane k).inS = (s.fl.lane k).inS ∧
      (Acts s h k → (t.fl.lane k).st = .parked (c k) ∧ (t.fl.lane k).pc = (s.fl.lane k).pc) ∧
      (¬Acts s h k → (t.fl.lane k).st = (s.fl.lane k).st ∧ (repeating s = none → (issuing s).has k = true →
        (t.fl.lane k).pc = (s.fl.lane k).pc + 8)) ∧
      ((issuing s).has k = false → t.fl.lane k = s.fl.lane k)

/-- LANE_RESUME of a lane of a flight completes its instruction with the registers and the latch value of `r` (R25, R30). -/
def WakesWith (s : State) (id : FlightId) (k : LaneId) (f : Flight) (r : Lane × Option LatchVal) : Prop :=
  ∃ t g, exec (.laneResume id k) s = .next t ∧ flightOf t id = some g ∧ (∀ a, readByte t a = readByte s a) ∧
    (g.lane k).regs = r.1.regs ∧ (g.lane k).st = .ready ∧
    ((f.lane k).parkRep = false → (g.lane k).pc = (f.lane k).pc + 8 ∧ (g.lane k).lat = { Latches.stale with l0 := r.2 }) ∧
    ∀ j, j ≠ k → g.lane j = f.lane j

/-- No store of the lane waits to be performed (R208, R230, R371). -/
def Settled (s : State) (k : LaneId) : Prop :=
  (∀ x ∈ s.fl.held, x.lane ≠ k) ∧ ∀ x ∈ s.outstanding, x.owner ≠ .store s.fl.id k

/-- The bytes that an element takes from a value: the byte at the lowest address is the least significant (R2). -/
def Elem.bytes (e : Elem) (x : Nat) : List Byte := (List.range e.len).map fun i => BitVec.ofNat 8 (x / 2 ^ (8 * (e.pos + i)))

/-- Of memory, the bytes of the elements `els` have been stored: every byte holds what the last lane and element that stored it
have, the highest-numbered (R171, R216), every other byte is as before, and a FREE on-chip line has the tag of the context
(R195). `x` is the value that each lane stores. -/
def StoredOf (s u : State) (h : Hdr) (sp : LaneId → MSpace) (els : LaneId → List Elem) (key : LaneId → Elem → Nat)
    (x : LaneId → Nat) : Prop :=
  (∀ b, (∀ k, Acts s h k → ∀ e ∈ els k, b < key k e ∨ key k e + e.len ≤ b) → readByte u b = readByte s b) ∧
  (∀ k, Acts s h k → ∀ e ∈ els k, ∀ i, i < e.len →
    (∀ k1, Acts s h k1 → ∀ e1 ∈ els k1, (k < k1 ∨ (k = k1 ∧ e.pos < e1.pos)) →
      key k e + i < key k1 e1 ∨ key k1 e1 + e1.len ≤ key k e + i) →
    readByte u (key k e + i) = BitVec.ofNat 8 (x k / 2 ^ (8 * (e.pos + i)))) ∧
  ∀ n, (lineSt u n).p = (lineSt s n).p ∧ (lineSt u n).c = (lineSt s n).c ∧
    let tagged := s.fl.priv = false ∧ (lineSt s n).owner = none ∧ ∃ k, Acts s h k ∧ sp k ∈ [MSpace.h, .g, .z] ∧
      ∃ e ∈ els k, lineOf (key k e) = n
    (tagged → (lineSt u n).owner = some s.fl.ctx) ∧ (¬tagged → (lineSt u n).owner = (lineSt s n).owner)

/-- The stores of a word have been performed in memory. -/
def Stored (s u : State) (h : Hdr) (acc : LaneId → Acc) (key : LaneId → Elem → Nat) (x : LaneId → Nat) : Prop :=
  u = { s with mem := u.mem, lines := u.lines, contexts := u.contexts, fresh := u.fresh, cmds := u.cmds, inbound := u.inbound,
               fl := { s.fl with held := u.fl.held } } ∧
  StoredOf s u h (fun k => (acc k).sp) (fun k => (acc k).elems) key x

/-! Accesses that fail (R30, R202, R207 to R209, R213, R215). -/

/-- The fault record of a lane's access of space M (R209): ACC, the kind, and the handle and the address of its first faulting
byte. -/
def faultOf (s : State) (f : Flight) (k : LaneId) (acc kind : Nat) (h : Word) (va : BitVec 48) : List Word :=
  [va.setWidth 64, h,
   BitVec.ofNat 64 (2 ^ 58 * f.ctx.toNat + 2 ^ 55 * (f.id.die % 8) + 2 ^ 49 * (f.id.core % 64) + 2 ^ 43 * (f.id.fnum % 64) +
     2 ^ 36 * k.val + 2 ^ 33 * 3 + 2 ^ 30 * acc + kind % 256),
   ccountOf s f.id.die, 0, 0, 0, 0]

/-- Some elements of an access fail translation, with the kind and the address that `P` gives; the others pass, and lie at `key`. -/
def Misses (s : State) (f : Flight) (a : Acc) (store : Bool) (P : Elem → Option (Nat × BitVec 48)) (key : Elem → Nat) : Prop :=
  (probes s f a store = a.elems.map fun e => (e, match P e with | some x => .fault x.1 x.2 | none => .at_ (key e))) ∧
  ∃ e ∈ a.elems, P e ≠ none

/-- The 64 KiB unit in which an element fails translation (R209, R383). -/
def missUnit (P : Elem → Option (Nat × BitVec 48)) (e : Elem) : Option Nat := (P e).map fun x => x.2.toNat / 65536

/-- The fault records of an access, one for each distinct unit that faults (R209), in the order of the elements. -/
def missRecords (s : State) (f : Flight) (k : LaneId) (acc : Nat) (a : Acc) (P : Elem → Option (Nat × BitVec 48)) :
    List (List Word) :=
  a.elems.filterMap fun e =>
    match P e with
    | some x => if (a.elems.find? fun y => decide (missUnit P y = missUnit P e)) = some e then
        some (faultOf s f k acc x.1 e.addr x.2) else none
    | none => none

/-- The lanes of Active, in ascending order. -/
def actors (s : State) (h : Hdr) : List LaneId := allLanes.filter fun k => isActive s h k

/-- What an access waits for: each unit that faults once, unanswered (R207). -/
def WaitsFor (a : Acc) (P : Elem → Option (Nat × BitVec 48)) (ws : List Wait) : Prop :=
  ws.Pairwise (fun x y => x.vpn ≠ y.vpn) ∧ (∀ w ∈ ws, w.answer = none) ∧
  ∀ n, (∃ w ∈ ws, w.vpn.toNat = n) ↔ ∃ e ∈ a.elems, missUnit P e = some n

/-- Some elements of an access fail a check, with the cause and TVAL that `F` gives; the others pass, and lie at `key`. -/
def Fails (s : State) (f : Flight) (a : Acc) (store : Bool) (F : Elem → Option (Cause × Word)) (key : Elem → Nat) : Prop :=
  (probes s f a store = a.elems.map fun e => (e, match F e with | some c => .trap c.1 c.2 | none => .at_ (key e))) ∧
  ∃ e ∈ a.elems, F e ≠ none

/-- TEMASK of a gather or scatter with failing sub-elements (R170, R213). -/
def failBits (a : Acc) (F : Elem → Option (Cause × Word)) : Word :=
  BitVec.ofFnLE fun j : Fin 64 => a.elems.any fun e => decide (e.pos = j.val * a.size) && (F e).isSome

/-- The trap of an access whose elements fail as `F` says: of a gather or scatter, and of a store, that of its lowest failing element;
of a load's pieces, that of the earliest check (R202, R213). -/
def TrapFor (a : Acc) (store : Bool) (F : Elem → Option (Cause × Word)) (t : LTrap) : Prop :=
  t.step = 5 ∧ t.rank = 0 ∧ (t.temask = if a.kind = .gather then failBits a F else 1) ∧
  ∃ e ∈ a.elems, F e = some (t.cause, t.tval) ∧ ∀ y ∈ a.elems, ∀ c, F y = some c →
    if a.kind = .gather ∨ store = true then e.pos ≤ y.pos
    else checkRank t.cause < checkRank c.1 ∨ (checkRank t.cause = checkRank c.1 ∧ e.pos ≤ y.pos)

/-- `x` is the value of a gather of which some sub-elements fail: those have their old value, the others the value read (R213). -/
def PartlyFrom (s : State) (f : Flight) (k : LaneId) (a : Acc) (F : Elem → Option (Cause × Word)) (key : Elem → Nat) (x : Nat) :
    Prop :=
  x < 2 ^ 512 ∧ ∀ e ∈ a.elems, ∀ i, i < e.len →
    (F e = none → ReadsByte s f k a.sp (key e + i) (BitVec.ofNat 8 (x / 2 ^ (8 * (e.pos + i))))) ∧
    (F e ≠ none → ∀ d, a.dst = .v d → x / 2 ^ (8 * (e.pos + i)) % 256 = ((f.lane k).getV d).toNat / 2 ^ (8 * (e.pos + i)) % 256)

/-- The lane whose access traps, and its partial latch value: a gather's destination has the value `x`; any other access writes
nothing (R26, R170, R213). -/
def Lane.partly (l : Lane) (a : Acc) (x : Nat) : Lane × Option LatchVal :=
  match a.kind, a.dst with
  | .gather, .v i => (if a.w then l.setV i (BitVec.ofNat 512 x) else l, some (.vec (BitVec.ofNat 512 x)))
  | _, _ => (l, none)

/-- LANE_RESUME of a lane makes it READY at its instruction, which traps with `t` when it next issues (R30): its registers are those
of `r`, which also holds its partial latch value, and every latch entry is stale. -/
def FailsWith (s : State) (id : FlightId) (k : LaneId) (f : Flight) (r : Lane × Option LatchVal) (t : LTrap) : Prop :=
  ∃ u g, exec (.laneResume id k) s = .next u ∧ flightOf u id = some g ∧ (∀ b, readByte u b = readByte s b) ∧
    (g.lane k).regs = r.1.regs ∧ (g.lane k).st = .ready ∧ (g.lane k).pc = (f.lane k).pc ∧ (g.lane k).lat = .stale ∧
    (g.lane k).pos = 0 ∧ (g.lane k).part = r.2 ∧ (∃ w, (g.lane k).fail = some (t, w)) ∧ ∀ j, j ≠ k → g.lane j = f.lane j

/-- What an access fails with once a unit of it has been refused (R207, R213): a check that it fails now, or PAGE_FAULT where its unit
has no translation or was refused; the others lie at `key` (log entry 16). -/
def RefusedAt (s : State) (f : Flight) (a : Acc) (ws : List Wait) (F : Elem → Option (Cause × Word)) (key : Elem → Nat) : Prop :=
  ∃ q : Elem → Probe, probes s f a false = (a.elems.map fun e => (e, q e)) ∧ ∀ e ∈ a.elems,
    (∀ c v, q e = .trap c v → F e = some (c, v)) ∧ (∀ n va, q e = .fault n va → F e = some (.pageFault, e.addr)) ∧
    ∀ y, q e = .at_ y → key e = y ∧
      let b := bufEntry s f.ctx (e.addr.toNat / 2 ^ 52)
      let unit := (b.vbase + e.addr.toNat % 2 ^ 52) / 65536 % 2 ^ 32
      ((∃ w ∈ ws, w.answer = some false ∧ w.vpn.toNat = unit) → F e = some (.pageFault, e.addr)) ∧
      ((∀ w ∈ ws, w.answer = some false → w.vpn.toNat ≠ unit) → F e = none)

/-- A word whose access fails translation in every lane of Active parks, and its fault records wait for the ring, those of a lower lane
first (R207, R209). A poisoned table line (KIND 9) is reported too (R205, R333). `code` is ACC. -/
def MissesAs (i : Instr) (s : State) (h : Hdr) (o : OpsM) (code : Nat) (acc : LaneId → Acc) : Prop :=
  ∀ (P : LaneId → Elem → Option (Nat × BitVec 48)) (key : LaneId → Elem → Nat),
    (∀ k, Acts s h k → Misses (noteScope s s.fl o.scope) s.fl (acc k) false (P k) (key k)) →
    ∃ (u : State) (ws : LaneId → List Wait),
      u = { s with contexts := u.contexts, fresh := u.fresh, mem := u.mem, poison := u.poison, cmds := u.cmds, host := u.host,
                   eventWait := u.eventWait,
                   faultWait := s.faultWait ++ (actors s h).flatMap fun k => missRecords s s.fl k code (acc k) (P k) } ∧
      ((∀ k, Acts s h k → ∀ e ∈ (acc k).elems, ∀ x, P k e = some x → x.1 ≠ 9) →
        u = { s with contexts := u.contexts, fresh := u.fresh, faultWait := u.faultWait }) ∧
      (∀ k, Acts s h k → WaitsFor (acc k) (P k) (ws k)) ∧ Parks i s u h fun k => .fault (acc k) (ws k)

/-- A word whose access fails its checks in every lane of Active traps, the lowest lane leading; of a gather the sub-elements that
passed are written (R31, R170, R202, R213). A poisoned line is one that the access reads, and no line of a table (R215). -/
def FailsAs (i : Instr) (s : State) (h : Hdr) (o : OpsM) (acc : LaneId → Acc) : Prop :=
  ∀ (F : LaneId → Elem → Option (Cause × Word)) (key : LaneId → Elem → Nat) (T : LaneId → LTrap) (k0 : LaneId),
    MayTrap s → (∀ cl, portLost s cl = false) →
    (∀ k, Acts s h k → Fails (noteScope s s.fl o.scope) s.fl (acc k) false (F k) (key k) ∧ ∀ e ∈ (acc k).elems, ∀ v,
      F k e = some (.memPoison, v) → ∃ y, probe (noteScope s s.fl o.scope) s.fl (acc k) false e = .at_ y) →
    (∀ k, Acts s h k → TrapFor (acc k) false (F k) (T k)) → Acts s h k0 → (∀ k, Acts s h k → k0 ≤ k) →
    ∃ x : LaneId → Nat, (∀ k, Acts s h k → PartlyFrom s s.fl k (acc k) (F k) (key k) (x k)) ∧
      TrapsAs i s h (Acts s h) (T k0).cause 0 (fun k => (T k).temask) (fun k => (T k).tval)
        (fun k => ((s.fl.lane k).partly (acc k) (x k)).1) (fun k => ((s.fl.lane k).partly (acc k) (x k)).2)
        (fun k => s.fl.lane k) fun _ => none

/-- As `FailsAs`, of a store: the elements of a scatter that passed are stored (R213). -/
def StoreFailsAs (i : Instr) (s : State) (h : Hdr) (o : OpsM) (acc : LaneId → Acc) (x : LaneId → Nat) : Prop :=
  s.fl.live = true → (o.ord.getLsbD 1 = true → ∀ k, Acts s h k → Settled s k) →
  ∀ (F : LaneId → Elem → Option (Cause × Word)) (key : LaneId → Elem → Nat) (T : LaneId → LTrap) (k0 : LaneId),
    MayTrap s → Intact s → (∀ k, Acts s h k → Fails (noteScope s s.fl o.scope) s.fl (acc k) true (F k) (key k)) →
    (∀ k, Acts s h k → TrapFor (acc k) true (F k) (T k) ∧ (T k).cause ≠ .peerUnreachable) → Acts s h k0 → (∀ k, Acts s h k → k0 ≤ k) →
    let els := fun k => if (acc k).kind = .gather then (acc k).elems.filter fun e => (F k e).isNone else []
    ∃ u t, u = { s with mem := u.mem, lines := u.lines, contexts := u.contexts, fresh := u.fresh, cmds := u.cmds,
                        inbound := u.inbound, fl := { s.fl with held := u.fl.held } } ∧
      StoredOf s u h (fun k => (acc k).sp) els key x ∧ exec i s = .next t ∧
      AfterTrap u t h (Acts s h) (T k0).cause 0 (fun k => (T k).temask) (fun k => (T k).tval) (fun k => s.fl.lane k)
        (fun _ => none) (fun k => s.fl.lane k) fun _ => none

/-- A store that fails translation in every lane of Active goes on: the parts that fail are held, with their fault records, and the
others are stored; the flight issues no more while it holds more than 16 such stores (R208, R212, R213). -/
def HoldsAs (i : Instr) (s : State) (h : Hdr) (o : OpsM) (acc : LaneId → Acc) (x : LaneId → Nat) : Prop :=
  s.fl.live = true → (o.ord.getLsbD 1 = true → ∀ k, Acts s h k → Settled s k) → Intact s →
  ∀ (P : LaneId → Elem → Option (Nat × BitVec 48)) (key : LaneId → Elem → Nat),
    (∀ k, Acts s h k → Misses (noteScope s s.fl o.scope) s.fl (acc k) true (P k) (key k)) →
    let shape := fun (y : HeldStore) => (y.lane, y.parts.map fun p => (p.h, p.bytes))
    ∃ u, u = { s with mem := u.mem, contexts := u.contexts, fresh := u.fresh, cmds := u.cmds, inbound := u.inbound, uid := u.uid,
                      faultWait := s.faultWait ++ (actors s h).flatMap fun k => missRecords s s.fl k 1 (acc k) (P k),
                      fl := { s.fl with held := u.fl.held, stall := if 16 < u.fl.held.length then some .heldFull else s.fl.stall } } ∧
      StoredOf s u h (fun k => (acc k).sp) (fun k => (acc k).elems.filter fun e => (P k e).isNone) key x ∧
      u.fl.held.map shape = s.fl.held.map shape ++ (actors s h).map (fun k =>
        (k, ((acc k).elems.filter fun e => (P k e).isSome).map fun e => (e.addr, e.bytes (x k)))) ∧
      (∀ y ∈ u.fl.held.drop s.fl.held.length, WaitsFor (acc y.lane) (P y.lane) y.waits) ∧
      CompletesAs i s u h false (fun k => s.fl.lane k) fun _ => none

/-- A store of one lane that lies in one poisoned line of main memory (R215): it clears the poison where it writes all 64 bytes, and
is dropped, reported with MEM_POISON and noted for FENCE otherwise (R208, R230). -/
def PoisonedAs (i : Instr) (s : State) (h : Hdr) (o : OpsM) (acc : LaneId → Acc) (x : LaneId → Nat) : Prop :=
  s.fl.live = true → (o.ord.getLsbD 1 = true → ∀ k, Acts s h k → Settled s k) → s.fl.held.length ≤ 16 →
  ∀ (k : LaneId) (e : Elem) (key : Elem → Nat), (∀ j, Acts s h j ↔ j = k) → (acc k).elems = [e] →
    Reaches (noteScope s s.fl o.scope) s.fl (acc k) true key → lineOf (key e) ∈ s.poison →
    (e.len = 64 → ∃ u,
        u = { s with mem := u.mem, contexts := u.contexts, fresh := u.fresh, cmds := u.cmds, inbound := u.inbound,
                     poison := s.poison.filter (fun n => decide (n ≠ lineOf (key e))), fl := { s.fl with held := u.fl.held } } ∧
        StoredOf s u h (fun k => (acc k).sp) (fun k => (acc k).elems) (fun _ => key) x ∧
        CompletesAs i s u h false (fun k => s.fl.lane k) fun _ => none) ∧
    (e.len < 64 → ∃ v u, v = { s with contexts := v.contexts, fresh := v.fresh } ∧
        u = { errReport v s.fl.ctx 0x36 ⟨0, s.fl.id, k.val, 0, 0⟩ e.addr 0 with fl := { s.fl with dropped := s.fl.dropped ||| 1#32 <<< k.val } } ∧
        CompletesAs i s u h false (fun k => s.fl.lane k) fun _ => none)

/-- The access of a scalar load or store, or of a contiguous vector one, in a lane (R93, R169, R211, R212). -/
def accOf (sp : MSpace) (h : Hdr) (o : OpsM) (vec : Bool) (a : Word) : Acc :=
  let size : Nat := if vec then 64 else 2 ^ (o.sz.toNat % 4)
  { kind := .load, sp := sp, addr := a, disp := o.disp.toInt * size, idx := 0, size := size,
    sgn := !vec && decide (4 ≤ o.sz.toNat), dst := o.dst, w := h.w }

/-- The access of a gather or scatter in a lane (R170, R213). -/
def gatherOf (sp : MSpace) (h : Hdr) (o : OpsM) (a : Word) (idx : VWord) : Acc :=
  { kind := .gather, sp := sp, addr := a, disp := 0, idx := idx, size := 2 ^ o.sz.toNat, sgn := false, dst := o.dst, w := h.w }

/-- A load of the hall completes at once with the value read; one of another space parks until its data is taken (R93, R198,
R210). -/
def LoadsAs (i : Instr) (s : State) (h : Hdr) (o : OpsM) (acc : LaneId → Acc) : Prop :=
  let s1 := noteScope s s.fl o.scope
  ∀ key : LaneId → Elem → Nat, (∀ k, Acts s h k → Reaches s1 s.fl (acc k) false (key k)) →
    ((∀ k, (acc k).sp = .h) → ∃ x : LaneId → Nat, (∀ k, Acts s h k → LoadedFrom s s.fl k (acc k) (key k) (x k)) ∧
      CompletesAs i s s1 h false (fun k => ((s.fl.lane k).taken (acc k) (x k)).1)
        fun k => ((s.fl.lane k).taken (acc k) (x k)).2) ∧
    ((∀ k, (acc k).sp ≠ .h) → ∃ u, u = { s with contexts := u.contexts, fresh := u.fresh } ∧
      Parks i s u h fun k => .load (acc k))

/-- A store is performed at once (R93, R198, R211 to R213). It waits as a release for earlier stores of its lanes (R223). -/
def StoresAs (i : Instr) (s : State) (h : Hdr) (o : OpsM) (acc : LaneId → Acc) (x : LaneId → Nat) : Prop :=
  s.fl.live = true → (o.ord.getLsbD 1 = true → ∀ k, Acts s h k → Settled s k) → s.fl.held.length ≤ 16 →
  ∀ key : LaneId → Elem → Nat,
    (∀ k, Acts s h k → Reaches (noteScope s s.fl o.scope) s.fl (acc k) true (key k) ∧
      ((acc k).sp = .m → ∀ e ∈ (acc k).elems, lineOf (key k e) ∉ s.poison)) →
    ∃ u, Stored s u h acc key x ∧ CompletesAs i s u h false (fun k => s.fl.lane k) fun _ => none

/-- The new value of an atomic at a location of w bits (R233); none for an ACAS that fails. -/
def IsAtomNew (op : AtomOp) (w old v cmp : Nat) (r : Option Nat) : Prop :=
  let f := fmtOf (if w = 32 then .fp32 else .fp64) 0
  match op with
  | .add => r = some ((old + v) % 2 ^ w)
  | .min => r = some (if (BitVec.ofNat w old).toInt ≤ (BitVec.ofNat w v).toInt then old else v)
  | .max => r = some (if (BitVec.ofNat w v).toInt ≤ (BitVec.ofNat w old).toInt then old else v)
  | .and => ∃ x, r = some x ∧ ∀ i, x.testBit i = (old.testBit i && v.testBit i)
  | .or => ∃ x, r = some x ∧ ∀ i, x.testBit i = (old.testBit i || v.testBit i)
  | .xor => ∃ x, r = some x ∧ ∀ i, x.testBit i = xor (old.testBit i) (v.testBit i)
  | .xchg => r = some v
  | .cas => r = if old = cmp then some v else none
  | .fadd => r = some (f.round (addNum (f.decode old) (f.decode v)) .rne 0 false).1
  | .inc => r = some (if v ≤ old then 0 else old + 1)

/-- The access of an atomic in a lane (R233, R235). -/
def atomicOf (op : AtomOp) (h : Hdr) (o : OpsM) (size : Nat) (a v cmp : Word) : Acc :=
  { kind := .atomic op v cmp, sp := spaceOf o.sp, addr := a, disp := o.disp.toInt * size, idx := 0, size := size, sgn := false,
    dst := o.dst, w := h.w }

/-- An atomic word (R233 to R236): in ascending lane order each lane reads the old value and writes the new one, and parks until
its old value returns. `mem` is memory before each lane, `old` what the lanes read. -/
def AtomicAs (i : Instr) (op : AtomOp) (s : State) (h : Hdr) (o : OpsM) : Prop :=
  ∀ a v d : LaneId → Word, ReadsG s h o.sa a → ReadsG s h o.sb v → (op = .cas → ReadsG s h o.dst.asSrc d) →
    s.fl.live = true → (o.ord.getLsbD 1 = true → ∀ k, Acts s h k → Settled s k) → (∀ x ∈ s.fl.held, ¬Acts s h x.lane) → s.inbound = [] →
    ∀ size ∈ [4, 8], o.sz.toNat = (if size = 4 then 2 else 3) →
    let acc := fun k => atomicOf op h o size (a k) (v k) (if op = .cas then d k else 0)
    ∀ key : LaneId → Nat,
      (∀ k, Acts s h k → Reaches (noteScope s s.fl o.scope) s.fl (acc k) false (fun _ => key k) ∧
        (o.sp ≠ 3 → s.fl.priv = false → (lineSt s (lineOf (key k))).owner = none →
          ∀ b, lineOf b = lineOf (key k) → readByte s b = 0)) →
      ∃ (u : State) (old : LaneId → Nat) (mem : Nat → Nat → Byte),
        u = { s with mem := u.mem, lines := u.lines, contexts := u.contexts, fresh := u.fresh, cmds := u.cmds,
                     fl := { s.fl with held := u.fl.held } } ∧
        mem 0 = readByte s ∧ mem 32 = readByte u ∧
        (∀ k : LaneId, ¬Acts s h k → mem (k.val + 1) = mem k.val) ∧
        (∀ k : LaneId, Acts s h k → old k < 2 ^ (8 * size) ∧
          (∀ i, i < size → BitVec.ofNat 8 (old k / 2 ^ (8 * i)) = mem k.val (key k + i)) ∧
          ∃ r, IsAtomNew op (8 * size) (old k) ((v k).toNat % 2 ^ (8 * size)) ((d k).toNat % 2 ^ (8 * size)) r ∧
            ∀ b, mem (k.val + 1) b = match r with
              | some x => if key k ≤ b ∧ b < key k + size then BitVec.ofNat 8 (x / 2 ^ (8 * (b - key k))) else mem k.val b
              | none => mem k.val b) ∧
        Parks i s u h fun k => .atomic (acc k) (BitVec.ofNat 64 (old k))

/-- What a remote word sends for its lanes and elements: the owner of each request, the peer, the peer's context and buffer, the
offset and the operation (R370). -/
def Sent (s u : State) (h : Hdr) (acc : LaneId → Acc) (far : LaneId → Elem → BitVec 10 × BitVec 6 × BitVec 12 × Nat)
    (owner : LaneId → Elem → RemOwner) (op : LaneId → Elem → RemOp) : Prop :=
  u = { s with contexts := u.contexts, fresh := u.fresh, uid := u.uid, outstanding := u.outstanding, outbox := u.outbox } ∧
  ∃ rs : List Outstanding, u.outstanding = s.outstanding ++ rs ∧
    u.outbox = s.outbox ++ rs.map (fun r => Message.request r.peer r.req) ∧
    rs.map (fun r => (r.owner, r.peer, r.req.pctx, r.req.pbuf, r.req.off, r.req.op, r.req.gen, r.start)) =
      (actors s h).flatMap fun k => (acc k).elems.map fun e =>
        (owner k e, (far k e).1, (far k e).2.1, (far k e).2.2.1, (far k e).2.2.2, op k e, s.podgen, ccountOf s s.fl.id.die)

/-- The full-form instruction that a slot executes as (R49): PN = 0, the slot's PG and W, TY from MOD[3:0], every other
modifier field zero; NOP where the slot is one. -/
def slotFull (e : Bool) (x : Slot) : Instr :=
  let h : Hdr := { e := e, pn := false, pg := x.pg, w := x.w }
  let two (ty : Ty) : OpsA :=
    { dst := x.dst, sa := x.dst.asSrc, sb := x.src, sc := .g 0, ty := ty, cc := 0, rm := 0, adv := false, sat := false, is := 0 }
  let one (ty : Ty) : OpsA := { two ty with sa := x.src, sb := .g 0 }
  let i := Ty.ofCode 0
  let t := Ty.ofCode (x.md.extractLsb' 0 4)
  match x.hop with
  | .nop => .nop h (one i)
  | .add => .add h (two i) | .sub => .sub h (two i) | .mul => .mul h (two i)
  | .and => .and h (two i) | .or => .or h (two i) | .xor => .xor h (two i) | .andn => .andn h (two i)
  | .shl => .shl h (two i) | .shr => .shr h (two i) | .sar => .sar h (two i)
  | .rol => .rol h (two i) | .ror => .ror h (two i)
  | .min => .min h (two i) | .max => .max h (two i) | .minu => .minu h (two i) | .maxu => .maxu h (two i)
  | .mov => .mov h (one i) | .neg => .neg h (one i) | .not => .not h (one i) | .abs => .abs h (one i)
  | .pand => .pand h (two i) | .por => .por h (two i) | .pxor => .pxor h (two i)
  | .pnot => .pnot h (one i) | .pmov => .pmov h (one i)
  | .fadd => .fadd h (two t) | .fsub => .fsub h (two t) | .fmul => .fmul h (two t)
  | .fmin => .fmin h (two t) | .fmax => .fmax h (two t) | .fabs => .fabs h (one t) | .fneg => .fneg h (one t)
  | .vadd => .vadd h (two t) | .vsub => .vsub h (two t) | .vmul => .vmul h (two t)
  | .vmin => .vmin h (two t) | .vmax => .vmax h (two t)
  | .vand => .vand h (two t) | .vor => .vor h (two t) | .vxor => .vxor h (two t)
  | .vshl => .vshl h (two t) | .vshr => .vshr h (two t) | .vsar => .vsar h (two t)
  | .vmov => .vmov h (one t)

/-- The state with the lanes taken out of the issuing set in which RTE.SKIP has made a slot a NOP (R52). -/
def State.slotOnly (s : State) (b : Bool) : State :=
  { s with fl := { s.fl with run := s.fl.run.map fun r =>
    { r with set := laneSetOf fun k => r.set.has k && decide ((s.fl.lane k).slotSkip ≠ some b) } } }

/-- The word at issue in s has led to t without a trap: HND is as it was and every lane at issue is at the next word. -/
def Passes (s t : State) : Prop :=
  t.fl.hnd = s.fl.hnd ∧ ∀ k, (issuing s).has k = true → (t.fl.lane k).pc = (s.fl.lane k).pc + 8

/-- The registers of a lane after both slots of a dual word: what slot A writes comes from x, everything else from y, the lane
after slot B, and the flags of both are set (R51). -/
def slotBoth (a : Slot) (x y : Lane) : Lane :=
  let z := { y with fpstat := x.fpstat ||| y.fpstat, istat := x.istat ||| y.istat }
  if a.hop = .nop ∨ a.w = false then z
  else match a.dst with
    | .g i => z.setG i (x.getG i)
    | .v i => z.setV i (x.getV i)
    | .p i => z.setP i (x.getP i)
    | _ => z

/-- The dual word completes with the registers of both slots, whose full forms have led to ta and tb (R51); no slot is to be skipped any
more (R52). -/
def DualEnds (s : State) (e : Bool) (a b : Slot) (ta tb : State) : Prop :=
  ∃ t, exec (.dualWord e a b) s = .next t ∧
    AfterWord s t ⟨e, false, 0, false⟩ false (fun k => slotBoth a (ta.fl.lane k) (tb.fl.lane k)) (fun _ => none)
      (fun k => (s.fl.lane k).pc + 8) ∧
    ∀ k, (issuing s).has k = true → (t.fl.lane k).slotSkip = none

/-- The trap of a slot whose full form has led to u: TCAUSE, TMASK, TEMASK and TVAL are those of the full form, the slot being
marked; no lane has an effect (R52). -/
def SlotTraps (s t u : State) (b : Bool) : Prop :=
  t.fl.hnd = true ∧ t.fl.tcause = u.fl.tcause ||| (if b then 0x100 else 0) ∧ t.fl.tmask = u.fl.tmask ∧
  t.fl.tpc = issuePc s ∧ t.fl.tinsn = s.iw ∧ (∀ k, (t.fl.lane k).prog = (s.fl.lane k).prog) ∧
  ∀ k, u.fl.tmask.has k = true → (t.fl.lane k).temask = (u.fl.lane k).temask ∧ (t.fl.lane k).tval = (u.fl.lane k).tval

/-- A predicate destination that is written has no faulting byte (R335). -/
def Takes (s : State) (h : Hdr) (d : Dst) : Prop := ∀ p, d = .p p → TakesP s h d

/-- Lane k is the issuing lane of a word that one lane performs for its issuing set (R31, R43). -/
def IssuesIn (s : State) (h : Hdr) (ls : Bool) (lane : BitVec 7) (k : LaneId) : Prop :=
  Acts s h k ∧ if ls then k.val = lane.toNat else ∀ j, Acts s h j → k ≤ j

/-- The lane with what it receives from the issuing lane's performance, and the latch value (R22, R24, R31). -/
def Lane.given (l : Lane) (d : Dst) (w : Bool) (v : OnceVal) : Lane × Option LatchVal :=
  match v with
  | .none => (l, none)
  | .gen x => (if w then l.setG d.gReg x else l, some (.gen x))
  | .pred b => (if w then l.setP d.pReg b else l, some (.pred b))
  | .words ws =>
    ((List.range ws.length).foldl (fun l i => l.setG (d.gReg + BitVec.ofNat 6 i) (ws.getD i 0)) l, some (.gen (ws.getD 0 0)))

/-- The word completes and every lane of Active receives `v` (R31); `u` is `s` with the effect of the one performance. -/
def OnceAs (i : Instr) (s u : State) (h : Hdr) (d : Dst) (v : OnceVal) : Prop :=
  CompletesAs i s u h false (fun k => ((s.fl.lane k).given d h.w v).1) fun k => ((s.fl.lane k).given d h.w v).2

/-- The issuing lane alone traps, and no lane has an effect (R31, R247). -/
def OnceTraps (i : Instr) (s : State) (h : Hdr) (k : LaneId) (c : Cause) (tval : Word) : Prop :=
  MayTrap s → Traps i s h (fun j => j = k) c 0 (fun _ => tval) (fun j => s.fl.lane j) fun _ => none

/-- The whole of Active traps (R31). -/
def AllTrap (i : Instr) (s : State) (h : Hdr) (c : Cause) (tval : Word) : Prop :=
  MayTrap s → (∃ k, Acts s h k) → Traps i s h (Acts s h) c 0 (fun _ => tval) (fun j => s.fl.lane j) fun _ => none

/-- The word waits without effect: it is issued again when what the flight waits for is over (R184, R208, R244). -/
def Stalls (i : Instr) (s : State) (st : Stall) : Prop :=
  ∃ t, exec i s = .next t ∧ t = { s with fl := { t.fl with rflat := t.fl.rflat } } ∧
    t.fl = { s.fl with stall := some st, rflat := t.fl.rflat }

/-- The state with a queue register of the flight at issue replaced. -/
def State.withQueue (s : State) (q : BitVec 3) (x : Queue) : State := { s with fl := s.fl.setQueue q x }

/-- The entries of a queue are `pre`, then the entry that a pop considers, then `post` (R243): the oldest one, or, with NR = 1,
the oldest marker. -/
def Queue.Oldest (q : Queue) (pre : List QEntry) (e : QEntry) (post : List QEntry) : Prop :=
  q.entries = pre ++ e :: post ∧ (q.nr = false → pre = []) ∧ (q.nr = true → e.cmd = none ∧ ∀ y ∈ pre, y.cmd ≠ none)
def Queue.NonePopped (q : Queue) : Prop := (q.nr = false → q.entries = []) ∧ (q.nr = true → ∀ y ∈ q.entries, y.cmd ≠ none)

/-- A row of the legal combinations (R174, R175) with the registers and columns of its tile and its largest KP. -/
def FormatRow (w : Word) (regs cols kp : Nat) : Prop :=
  let a := (w.extractLsb' 0 4).toNat
  let b := (w.extractLsb' 4 4).toNat
  let acc := (w.extractLsb' 8 4).toNat
  let pa := (w.extractLsb' 12 3).toNat
  let pb := (w.extractLsb' 15 3).toNat
  let plain := pa = 0 ∧ pb = 0 ∧ w.getLsbD 18 = false ∧ w.getLsbD 19 = false
  (a = 0 ∧ b = 0 ∧ acc = 0 ∧ plain ∧ regs = 1 ∧ cols = 8 ∧ kp = 0) ∨
  (a = 1 ∧ b = 1 ∧ acc = 1 ∧ plain ∧ regs = 1 ∧ cols = 16 ∧ kp = 1) ∨
  (a ∈ [2, 3] ∧ b ∈ [2, 3] ∧ acc = 1 ∧ plain ∧ regs = 2 ∧ cols = 32 ∧ kp = 3) ∨
  (a ∈ [6, 7, 8, 9] ∧ b ∈ [6, 7, 8, 9] ∧ acc = 1 ∧ 1 ≤ pa ∧ 1 ≤ pb ∧ regs = 4 ∧ cols = 64 ∧ kp = 7) ∨
  (a ∈ [4, 5] ∧ b ∈ [4, 5] ∧ acc = 11 ∧ plain ∧ regs = 4 ∧ cols = 64 ∧ kp = 7)

/-- The base lane of a quarter (R183): BASE, or the second register of the group in the lowest lane of Active within it. -/
def QuarterBase (s : State) (h : Hdr) (o : OpsG) (imm : Bool) (q : Nat) (b : Nat) : Prop :=
  if imm then b = o.base.toNat
  else ∀ k, Acts s h k → k.val / 8 = q → (∀ j, Acts s h j → j.val / 8 = q → k ≤ j) →
    b = ((s.fl.lane k).getG (BitVec.ofNat 6 ((srcReg o.sc).toNat + 1))).toNat

/-- The operation that an MMA queues for the lanes of T: what it reads of every lane at issue (R180). -/
def ReadAtIssue (s : State) (h : Hdr) (o : OpsG) (imm : Bool) (w : Word) (regs : Nat) (T : LaneId → Prop) (op : GridOp) :
    Prop :=
  op.flight = s.fl.id ∧ op.zero = false ∧ op.fmt = w ∧ op.first = o.dst.vReg.toNat ∧ op.count = regs ∧ op.kp = o.kp.toNat ∧
  op.sat = o.sat ∧ (∀ k, op.act.has k = true ↔ T k) ∧
  (∀ (k : LaneId) (a b : BitVec 5), o.sa = .v a → o.sb = .v b →
    if (s.fl.lane k).st = .exited then op.va.get k = 0 ∧ op.vb.get k = 0 ∧ op.vs.get k = 0
    else op.va.get k = (s.fl.lane k).getV a ∧ op.vb.get k = (s.fl.lane k).getV b ∧ op.vs.get k = (s.fl.lane k).getV o.vs) ∧
  (∀ k, T k → op.ascale.get k = (s.fl.lane k).getG (BitVec.ofNat 6 ((srcReg o.sc).toNat + 2))) ∧
  ∀ q : Fin 4, (∃ k, T k ∧ k.val / 8 = q.val) → QuarterBase s h o imm q.val (op.bases.get q)

/-- One step of the grid, or of a GEMV, in an element: the product of a and b, with their scale bytes, added to the
accumulator (R180, R181, R267). -/
def GridStep (fmt : Word) (sat : Bool) (a b : Nat) (sa sb : Option Nat) (x y : SubRes) : Prop :=
  let num := fun (t p c : Nat) (sc : Option Nat) =>
    let z := (fmtOf (Ty.ofCode (BitVec.ofNat 4 t)) p).decode c
    match sc with
    | none => z
    | some 255 => Sys2Proof.Machine.Num.nan false
    | some e => match z with
      | .fin n m f => .fin n m (f + (e - 127))
      | z => z
  let w := fmt.toNat
  if w / 2 ^ 8 % 16 = 11 then
    let r := fitTo .int32 sat
      (readInt (Ty.ofCode (BitVec.ofNat 4 (w % 16))) a * readInt (Ty.ofCode (BitVec.ofNat 4 (w / 16 % 16))) b + readInt .int32 x.bits)
    y = ⟨r.bits, x.fl, x.sat || r.sat⟩
  else
    let f := fmtOf (if w / 2 ^ 8 % 16 = 0 then .fp64 else .fp32) 0
    let r := f.round (fmaNum (num (w % 16) (w / 2 ^ 12 % 8) a sa) (num (w / 16 % 16) (w / 2 ^ 15 % 8) b sb) (f.decode x.bits))
      .rne 0 false
    y = ⟨r.1, x.fl ||| r.2, x.sat⟩

/-- The element of lane k and column c after the eight steps of an operation (R180, R181), from the element x. -/
def GridSteps (op : GridOp) (k : LaneId) (c : Nat) (x y : SubRes) : Prop :=
  let wa := (Ty.ofCode (op.fmt.extractLsb' 0 4)).width
  let wb := (Ty.ofCode (op.fmt.extractLsb' 4 4)).width
  ∃ z : Nat → SubRes, z 0 = x ∧ z 8 = y ∧ ∀ i, i < 8 → ∀ bl : LaneId,
    bl.val = op.bases.get (Fin.ofNat 4 (k.val / 8)) + i → GridStep op.fmt op.sat
      (subWord (op.va.get k) wa (8 * op.kp + i)) (subWord (op.vb.get bl) wb c)
      (if op.fmt.getLsbD 18 then some ((op.ascale.get k).toNat / 2 ^ (8 * (8 * op.kp / 32)) % 256) else none)
      (if op.fmt.getLsbD 19 then some (subWord (op.vs.get bl) 8 c) else none) (z i) (z (i + 1))


/-! Engines. -/

/-- Every marker of a queue whose earlier entries have all completed has completed itself (R245). -/
def Queue.Steady (q : Queue) : Prop :=
  ∀ pre x post, q.entries = pre ++ x :: post → x.cmd = none → x.result = none → ∃ y ∈ pre, y.result = none

/-- Register `i` of the group of a command breaks check 2 of R251: a field that must be zero, or a value outside its limits (R259 to
R265). -/
def CopyBad (g : List Word) (i : Nat) : Prop :=
  let d := (g.getD 2 0).toNat
  let st := (g.getD 3 0).toNat
  (i = 2 ∧ ((d / 2 ^ 58 % 8, d / 2 ^ 61) ∉ [(0, 1), (1, 0), (1, 2), (2, 1), (2, 3), (3, 2), (3, 4), (4, 3), (3, 3)] ∨
    (d / 2 ^ 57 % 2 = 1 ∧ 2 ≤ d / 2 ^ 61) ∨ d / 2 ^ 56 % 2 = 1 ∨ (d / 2 ^ 43 % 2 = 1 ∧ d / 2 ^ 61 ≠ 4) ∨ d / 2 ^ 24 % 2 ^ 7 ≠ 0 ∨
    d % 2 ^ 24 = 0 ∨ d % 8 ≠ 0)) ∨
  (i = 3 ∧ d / 2 ^ 44 % 2 ^ 12 ≠ 0 ∧ (st % 8 ≠ 0 ∨ st / 2 ^ 32 % 8 ≠ 0 ∨ st / 2 ^ 32 < d % 2 ^ 24))
def McastBad (s : State) (lvl : Nat) (g : List Word) (i : Nat) : Prop :=
  let d := (g.getD 2 0).toNat
  i = 2 ∧ ((if lvl = 2 then 8 else if lvl = 3 then 6 else if lvl = 4 then 4 else (groupMembers s).length) < d / 2 ^ 54 + 1 ∨
    d / 2 ^ 24 % 2 ^ 30 ≠ 0 ∨ d % 2 ^ 24 = 0 ∨ d % 8 ≠ 0)
def ReduceBad (s : State) (lvl : Nat) (g : List Word) (i : Nat) : Prop :=
  let d := (g.getD 2 0).toNat
  i = 2 ∧ ((if lvl = 2 then 8 else if lvl = 3 then 6 else if lvl = 4 then 4 else (groupMembers s).length) < d / 2 ^ 54 + 1 ∨
    d / 2 ^ 50 % 16 ∉ [0, 1, 2, 3, 11, 12] ∨ d / 2 ^ 48 % 4 = 3 ∨ (d / 2 ^ 47 % 2 = 1 ∧ d / 2 ^ 50 % 16 < 11) ∨
    d / 2 ^ 24 % 2 ^ 23 ≠ 0 ∨ d % 2 ^ 24 = 0 ∨ d % 8 ≠ 0)

/-- The bytes of an element of the type that a format word has at bit `lo` (R174). -/
def formatBytes (f : Word) (lo : Nat) : Nat := (Ty.ofCode (f.extractLsb' lo 4)).width / 8

/-- A format word of the legal combinations (R174, R175). -/
def FormatLegal (f : Word) : Prop := f.toNat < 2 ^ 20 ∧ ∃ r c m, FormatRow f r c m

def GemvBad (g : List Word) (i : Nat) : Prop :=
  let sh := (g.getD 3 0).toNat
  let f := g.getD 4 0
  (i = 3 ∧ (sh / 2 ^ 40 = 0 ∨ sh / 2 ^ 16 % 2 ^ 24 = 0 ∨
    (FormatLegal f ∧ (sh % 2 ^ 15 * 64 < sh / 2 ^ 16 % 2 ^ 24 * formatBytes f 0 ∨
      (sh / 2 ^ 15 % 2 = 1 ∧ f.toNat / 2 ^ 8 % 16 ≠ 11))))) ∨
  (i = 4 ∧ ¬FormatLegal f) ∨ (i = 5 ∧ f.getLsbD 18 = false ∧ g.getD 5 0 ≠ 0) ∨ (i = 6 ∧ f.getLsbD 19 = false ∧ g.getD 6 0 ≠ 0)
/-- As `CopyBad`, of MIGR (R268): the context and page, and the new leaf entry, whose layout is R204's, beside the current leaf. -/
def MigrBad (s : State) (g : List Word) (i : Nat) : Prop :=
  let a := (g.getD 0 0).toNat
  let e := g.getD 1 0
  let ctx := (g.getD 0 0).extractLsb' 48 6
  let at_ := fun (P : Nat → Word → Prop) =>
    ∃ lvl key cur, walkFrom s ctx (a % 2 ^ 48) (ptRoot (ctxOf s ctx)) walkLevels = .leaf lvl key cur ∧ P lvl cur
  (i = 0 ∧ (2 ^ 54 ≤ a ∨ a % 65536 ≠ 0 ∨ (ctxOf s ctx).live = false ∨ at_ fun lvl _ => a % leafBytes lvl ≠ 0)) ∨
  (i = 1 ∧ (e.getLsbD 63 = false ∨ e.getLsbD 62 = false ∨ e.getLsbD 58 = true ∨ e.extractLsb' 48 9 ≠ 0 ∨ e.toNat / 2 ^ 59 % 4 = 3 ∨
    (e.toNat / 2 ^ 59 % 4 ≠ 0 ∧ e.getLsbD 61 = false) ∨ e.toNat % 65536 ≠ 0 ∨
    at_ fun lvl cur => e.getLsbD 57 ≠ cur.getLsbD 57 ∨ e.toNat % 2 ^ 48 % leafBytes lvl ≠ 0))

/-- The result word of a command (R242). -/
def resultBits (cause : Nat) (satf : Bool) (flg : BitVec 5) (seq : BitVec 32) (data : Nat) : Nat :=
  2 ^ 63 + 2 ^ 48 * cause + (if satf then 2 ^ 45 else 0) + 2 ^ 40 * flg.toNat + 2 ^ 32 * (seq.toNat % 256) + data % 2 ^ 32

/-- A hall or gallery line that the acceptance of a command begins (R197, R200): one that its writes reach within bounds and
that is not another context's; none where the copy is guarded or the command does not start. -/
def BegunBy (s : State) (c : Cmd) (n : Nat) : Prop :=
  ¬(c.cls = 1 ∧ (c.regs.getD 2 0).getLsbD 57 = true) ∧ c.result = none ∧
  (c.priv = true ∨ (lineSt s n).owner = none ∨ (lineSt s n).owner = some c.ctx) ∧
  ∃ r ∈ c.writes s, ∃ sp u, r.1 = .chip sp u ∧ sp ∈ [MSpace.h, .g] ∧ ∃ x, r.2.2.1 ≤ x ∧ x < r.2.2.1 + r.2.2.2 ∧
    r.2.1.toNat + x < (if sp = .h then 0x60000 else 0x600000) ∧ n = lineOf (chipKey sp u (r.2.1.toNat + x))

/-- The command has been accepted (R241, R247, R251): it is the youngest of its die, has its queue's SEQ and footprints, and
stands as the youngest entry of its queue; where its scope mask names a die that is absent it has ended with DIE_LOST (R352). Every
line that it has begun is not present and not consumed (R197). -/
def Accepted (s u : State) (o : OpsX) (cls : BitVec 3) (g : List Word) (fut : Word) (c : Cmd) : Prop :=
  let Q := s.fl.queue o.qn
  c.id = s.uid ∧ c.order = s.uid ∧ c.cls = cls ∧ c.flight = s.fl.id ∧ c.ctx = s.fl.ctx ∧ c.priv = s.fl.priv ∧ c.ginst = s.fl.ginst ∧
  c.member = s.fl.member ∧ c.qn = o.qn ∧ c.lvl = Q.lvl ∧ c.seq = Q.seq ∧ c.scope = o.scope ∧ c.fut = fut ∧ c.regs = g ∧
  c.foots = Q.foots ∧ c.started = false ∧ c.done = [] ∧ c.fails = [] ∧ c.flg = 0 ∧ c.satf = false ∧
  c.result = (if scopeAbsent (noteScope s s.fl o.scope) s.fl.ctx o.scope = true
    then some (BitVec.ofNat 64 (resultBits 0x54 false 0 Q.seq 0)) else none) ∧
  u.uid = s.uid + 1 ∧ u.cmds = s.cmds ++ [c] ∧
  u.fl = s.fl.setQueue o.qn { Q with entries := Q.entries ++ [⟨some s.uid, Q.seq, 0, none⟩], seq := Q.seq + 1, foots := [] } ∧
  (∀ n, lineSt u n = if n ∈ c.begun then { lineSt s n with p := false, c := false } else lineSt s n) ∧
  u = { noteScope s s.fl o.scope with uid := u.uid, cmds := u.cmds, fl := u.fl, lines := u.lines }

/-- A command word of class `cls` whose group has `size` registers, of which it reads `g` (R43, R244, R246, R247, R251): its checks in
their order, `bad` being the registers that offend and `mis` the addresses with the alignments that they need, the future's last;
then the capacity of its queue, the wait as a release, and the acceptance. -/
def CommandAs (i : Instr) (s : State) (h : Hdr) (o : OpsX) (k : LaneId) (cls : BitVec 3) (size : Nat) (g : List Word)
    (bad : Nat → Prop) (mis : List (Word × Nat)) : Prop :=
  (64 < (srcReg o.sa).toNat + size → OnceTraps i s h k .illegal 0) ∧
  ((srcReg o.sa).toNat + size ≤ 64 → (∀ c ∈ s.cmds, c.id ≠ s.uid) → ∀ fut, srcG (s.fl.lane k) o.sb = .ok fut →
    (∀ j, j < g.length → srcG (s.fl.lane k) (.g (BitVec.ofNat 6 ((srcReg o.sa).toNat + j))) = .ok (g.getD j 0)) →
    let Q := s.fl.queue o.qn
    let s1 := noteScope s s.fl o.scope
    let as := mis ++ [(fut, 8)]
    (Q.cls ≠ cls → OnceTraps i s h k .queueBind 0) ∧
    (Q.cls = cls →
      (∀ j, bad j → (∀ m, m < j → ¬bad m) → OnceTraps i s h k .illegal (BitVec.ofNat 64 ((srcReg o.sa).toNat + j))) ∧
      ((∀ j, ¬bad j) →
        (∀ pre x post, as = pre ++ x :: post → (∀ y ∈ pre, y.1.toNat % y.2 = 0) → x.1.toNat % x.2 ≠ 0 →
          OnceTraps i s h k .align x.1) ∧
        ((∀ x ∈ as, x.1.toNat % x.2 = 0) →
          (16 ≤ Q.entries.length →
            (o.nb = true → OnceAs i s s1 h o.dst (.pred false)) ∧
            (o.nb = false → Q.nr = true → Stalls i s (.queueFull o.qn)) ∧
            (o.nb = false → Q.nr = false → OnceTraps i s h k .queueBind 4)) ∧
          (Q.entries.length < 16 → Q.Steady →
            ((∃ j, Acts s h j ∧ ¬Settled s j) → ∃ w, Stalls i s (.order w (ccountOf s s.fl.id.die) false) ∧
              ∀ j, w.has j = true ↔ Acts s h j ∧ ¬Settled s j) ∧
            ((∀ j, Acts s h j → Settled s j) →
              ∃ u c, Accepted s u o cls g fut c ∧ (∀ n, n ∈ c.begun ↔ BegunBy s c n) ∧
                OnceAs i s u h o.dst (if o.nb then .pred true else .none)))))))

/-- An access of a piece is made at a flat address of this package (R252). -/
def PieceAt.Here (a : PieceAt) (key : Nat) : Prop := a = .chip key ∨ ∃ h, a = .main key h

/-- What an engine reads of a byte (R195): a FREE on-chip line reads zero outside privileged code. -/
def enginesByte (s : State) (c : Cmd) (a : PieceAt) (key : Nat) : Byte :=
  match a with
  | .chip k => if c.priv = false ∧ (lineSt s (lineOf k)).owner = none then 0 else readByte s key
  | _ => readByte s key

/-- A piece of a command has been performed (R252, R253): `n` units of its work are done, and its bytes are written where it
writes, every other byte being as before. -/
def PieceWritten (s t : State) (c : Cmd) (p n : Nat) (key : Nat) (bs : List Byte) : Prop :=
  (∀ i, i < bs.length → bs[i]? = some (readByte t (key + i))) ∧
  (∀ b, b < key ∨ key + bs.length ≤ b → readByte t b = readByte s b) ∧
  ∃ d, cmdById t c.id = some d ∧ d.done = p :: c.done ∧ d.left = c.left - n ∧ d.fails = c.fails

/-- A piece of a command has failed (R253): it is noted, and no byte is written. -/
def PieceFailed (s t : State) (c : Cmd) (p n : Nat) (f : PieceFail) : Prop :=
  (Intact s → ∀ b, readByte t b = readByte s b) ∧
  ∃ d, cmdById t c.id = some d ∧ d.done = p :: c.done ∧ d.left = c.left - n ∧ d.fails = f :: c.fails

/-- The state with the lines at the page-aligned addresses of a new frame equal to those of the old one, for the lines of L
(R359): `from_` and `to_` are the addresses of a byte of the page, and every other byte is as before. -/
def PageCopied (s t : State) (L : Nat → Prop) (from_ to_ : Nat → Nat) : Prop :=
  (∀ j, L (j / 64) → readByte t (to_ j) = readByte s (from_ j)) ∧
  ∀ b, (∀ j, L (j / 64) → b ≠ to_ j) → readByte t b = readByte s b


/-! Launch records. -/

/-- A register of a launch record that breaks check 3 of R277 for a team of level m. -/
def RecordBad (ws : List Word) (m i : Nat) : Prop :=
  let w := (ws.getD i 0).toNat
  let lanes := w / 2 ^ 32 % 2 ^ 8
  let most := if m = 0 then 64 else if m = 1 then 8 else if m = 2 then 6 else if m = 3 then 4 else if m = 4 then 1024 else 1
  (i = 0 ∧ (w / 2 ^ 56 % 4 ≠ 0 ∨ w / 2 ^ 40 % 16 ≠ 0 ∨ lanes = 0 ∨ 32 < lanes ∨ most < w / 2 ^ 16 % 2 ^ 16 + 1)) ∨
  (i = 1 ∧ (w / 2 ^ 17 % 2 ^ 7 ≠ 0 ∨ w % 8 ≠ 0)) ∨ (i = 13 ∧ (w % 2 ^ 16 ≠ 0 ∨ w / 2 ^ 16 % 2 ^ 16 ≠ 0)) ∨
  (i = 14 ∧ w ≠ 0) ∨ (i = 15 ∧ w ≠ 0)

/-- `ws'` is the record `ws` with the fields that the device writes (R274, R278, R281). -/
def CompletedRecord (ws ws' : List Word) (m root depth : Nat) (inst : BitVec 32) (resv : BitVec 16) : Prop :=
  ws'.length = ws.length ∧ (∀ i, i ≠ 0 → i ≠ 13 → ws'.getD i 0 = ws.getD i 0) ∧
  (ws'.getD 0 0).extractLsb' 56 8 = (ws.getD 0 0).extractLsb' 56 8 ∧ (ws'.getD 0 0).extractLsb' 0 44 = (ws.getD 0 0).extractLsb' 0 44 ∧
  ((ws'.getD 0 0).extractLsb' 52 4).toNat = m ∧ ((ws'.getD 0 0).extractLsb' 48 4).toNat = root ∧
  ((ws'.getD 0 0).extractLsb' 44 4).toNat = depth ∧
  (ws'.getD 13 0).extractLsb' 32 32 = inst ∧ (ws'.getD 13 0).extractLsb' 16 16 = resv ∧
  (ws'.getD 13 0).extractLsb' 0 16 = (ws.getD 13 0).extractLsb' 0 16

/-- A grid that has just been accepted from a record (R281); `line`: the members that it is launched inside of (R271). -/
def NewGrid (g : Grid) (ws : List Word) (ctx : BitVec 6) (domain : HwUnit) (parent : Option MemberRef) (line : List MemberRef)
    (firmware : Bool) : Prop :=
  g.words = ws ∧ g.ctx = ctx ∧ g.domain = domain ∧ g.parent = parent ∧ g.firmware = firmware ∧
  g.pri = (ws.getD 0 0).toNat / 2 ^ 60 % 4 ∧ g.next = 0 ∧ g.redo = [] ∧ g.members = [] ∧ g.cause = none ∧ g.stopped = false ∧
  g.home = none ∧ g.loadFail = none ∧ g.line = line

/-- Another package holds members of an instance (R293): it runs members that this one has placed there, or a grid of it has members
here. -/
def HoldsInstance (s : State) (ctx : BitVec 6) (inst : BitVec 32) (p : BitVec 10) : Prop :=
  ∃ g ∈ s.grids, g.ctx = ctx ∧ recInst g.words = inst ∧
    ((∃ n, g.home = some (p, n)) ∨ ∃ m ∈ g.members, m.retired = false ∧ m.peer = some p)

/-- A packet of a package whose generation is not this one's has no effect but the answer that it is not current, sent only to a
package of the group (R368). -/
def NotCurrent (i : Instr) (s : State) (p : BitVec 10) : Prop :=
  exec i s = .next (if (groupEntry s p.toNat).getLsbD 63 = true
    then { s with outbox := s.outbox ++ [.notCurrent p s.podgen] } else s)

/-- A resolution of a future is to be performed, where the handle is not zero. -/
def IsDue (t : State) (handle : Word) (cause : Option Cause) : Prop :=
  handle ≠ 0 → ∃ d ∈ t.dues, d.handle = handle ∧ d.cause = cause.map Cause.code

/-! Futures, phasers and barriers. -/

/-- A future word of ST, CNT, VAL and HEAD (R295). -/
def futBits (st cnt val head : Nat) : Word := BitVec.ofNat 64 (2 ^ 61 * st + 2 ^ 48 * cnt + 2 ^ 40 * val + head)

/-- The state table of R299 for a word whose ST is not reserved: the new word, and whether the list is walked; `none` is an
overresolution. `main`: the future is in main memory, where HEAD counts (R295, R300). -/
def futTable (op : FutOp) (old : Word) (main : Bool) : Option (Word × Bool) :=
  let st := old.toNat / 2 ^ 61
  let c := old.toNat / 2 ^ 48 % 2 ^ 13
  let v := old.toNat / 2 ^ 40 % 2 ^ 8
  let hd := old.toNat % 2 ^ 40
  let cut := if main then 0 else hd
  let absorbed := if st = 3 ∧ 0 < c then some (futBits 3 (c - 1) v hd, false) else none
  match op with
  | .init n tag => some (if st = 1 ∨ (st = 3 ∧ 0 < c) then old else futBits 1 n.toNat tag.toNat cut, false)
  | .res => if st = 1 then some (if 1 < c then (futBits 1 (c - 1) v hd, false) else (futBits 2 0 v cut, main)) else absorbed
  | .fail k => if st = 1 then some (futBits 3 (c - 1) k.toNat cut, main) else absorbed

/-- The word at `key` is w, and of memory nothing else has changed (R296). -/
def FutureSet (s u : State) (key : Nat) (w : Word) : Prop :=
  u = { s with mem := u.mem, lines := u.lines, contexts := u.contexts, fresh := u.fresh, cmds := u.cmds } ∧
  readWord u key = w ∧ ∀ b, (b < key ∨ key + 8 ≤ b) → readByte u b = readByte s b

/-- The space that a future descriptor names (R298). -/
def descSpace (desc : Word) : MSpace :=
  if desc.toNat % 4 = 0 then .h else if desc.toNat % 4 = 1 then .g else if desc.toNat % 4 = 2 then .z else .m

/-- A step completes the instruction in every lane of a set that is parked on the condition c, with a result; the others stay
(R25, R30). -/
def WakesAll (s : State) (i : Instr) (id : FlightId) (f : Flight) (set : LaneSet) (c : Park) (d : Dst) (w : Bool)
    (v : OnceVal) : Prop :=
  ∃ t g, exec i s = .next t ∧ flightOf t id = some g ∧ (∀ a, readByte t a = readByte s a) ∧ ∀ j : LaneId,
    (set.has j = true ∧ (f.lane j).st = .parked c →
      (g.lane j).regs = ((f.lane j).given d w v).1.regs ∧ (g.lane j).st = .ready ∧
      ((f.lane j).parkRep = false →
        (g.lane j).pc = (f.lane j).pc + 8 ∧ (g.lane j).lat = { Latches.stale with l0 := ((f.lane j).given d w v).2 })) ∧
    (¬(set.has j = true ∧ (f.lane j).st = .parked c) → g.lane j = f.lane j)

/-- What FREG leaves behind outside the future (R305): the record with the fields that it completes, its registration, and, with
`link`, the link slot; `places` are where the record's two lines are read, where words 0 and 13 are written, and the link slot. -/
def Registered (s u : State) (slot m : Nat) (places : Nat × Nat × Nat × Nat × Nat) (link : Option (Nat × Word)) : Prop :=
  ∃ r, CompletedRecord (readWords s places.1 8 ++ readWords s places.2.1 8) r m s.fl.rootlvl.toNat (s.fl.depth + 1) s.fl.ginst s.fl.resv ∧
    readWord u places.2.2.1 = r.getD 0 0 ∧ readWord u places.2.2.2.1 = r.getD 13 0 ∧
    (∀ key head, link = some (key, head) → readWord u key = head ∧ readWord u (key + 8) = BitVec.ofNat 64 slot) ∧
    u.conts = (s.conts.filter fun x => !decide (x.ctx = s.fl.ctx ∧ x.slot = slot)) ++
      [⟨s.fl.ctx, slot, s.fl.ginst, launchDomain s.fl m, s.fl.member, lineOfMember s s.fl.member, false⟩] ∧
    u = { s with mem := u.mem, lines := u.lines, contexts := u.contexts, fresh := u.fresh, cmds := u.cmds, conts := u.conts }

/-- Every other package that has the phaser claimed for its context in pod mode has said for more than n phases that its
condition holds (R313). -/
def PodMet (s : State) (key : PhKey) (p : Phaser) (n : Nat) : Prop :=
  p.pod = true → ∀ x ∈ s.podPeers, p.owner = some x.ctx → x.num.toNat = key.num → n < x.met

/-- What is known here of another package's phaser in pod mode: nothing, or for how many phases its condition holds. -/
def podKnown (l : List PodPeer) (ctx : BitVec 6) (num : BitVec 12) (pkg : BitVec 10) : Option Nat :=
  (l.find? fun x => decide (x.ctx = ctx ∧ x.num = num ∧ x.pkg = pkg)).map (·.met)

/-- The condition under which a phase of a phaser ends (R313): `pod` is that of the other packages. -/
def Phaser.Ends (p : Phaser) (pod : Prop) : Prop := p.touch = true ∧ p.arr = p.nsig ∧ p.expm = 0 ∧ p.expb = 0 ∧ pod

/-- A phaser after the end of a phase (R313). -/
def Phaser.next (p : Phaser) : Phaser :=
  { p with phase := p.phase + 1, arr := p.arrn, arrn := 0, touch := decide (p.arrn ≠ 0),
           nsig := p.nsig + BitVec.ofNat 16 p.regNext - BitVec.ofNat 16 p.dropNext, regNext := 0, dropNext := 0 }

/-- A phaser q that p has come to once every phase that can end has ended (R313). -/
def Phaser.Reaches (p q : Phaser) (pod : Nat → Prop) : Prop :=
  (¬p.Ends (pod 0) → q = p) ∧ (p.Ends (pod 0) → ¬p.next.Ends (pod 1) → q = p.next) ∧
  (p.Ends (pod 0) → p.next.Ends (pod 1) → q = p.next.next)

/-- The lanes parked on a phaser whose thresholds a phase satisfies complete with it; every other lane is as before (R314). -/
def Released (s u : State) (key : PhKey) (owner : Option (BitVec 6)) (phase : BitVec 32) : Prop :=
  ∀ id x, flightOf s id = some x → ∃ y, flightOf u id = some y ∧ ∀ (j : LaneId),
    ((x.lane j).waitsOn key = none → y.lane j = x.lane j) ∧
    ∀ t d w, (x.lane j).waitsOn key = some (t, d, w) →
      if (phase - t).toNat < 2 ^ 31 ∧ (owner = none ∨ owner = some x.ctx) then
        (y.lane j).st = .ready ∧ (y.lane j).regs = ((x.lane j).given d w (.gen (phase.setWidth 64))).1.regs ∧
          ((x.lane j).parkRep = false → (y.lane j).pc = (x.lane j).pc + 8)
      else y.lane j = x.lane j

/-- An operation has left a phaser as p, and the phases that can end have ended (R307, R313): a phaser without member and waiter
is free again. -/
def PhaserDone (s u : State) (key : PhKey) (p : Phaser) : Prop :=
  let pod := PodMet s key p
  (∀ a, readByte u a = readByte s a) ∧ (∀ j, j ≠ key → phaserOf u j = phaserOf s j) ∧
  (phaserUsed u key = false → phaserOf u key = Phaser.blank) ∧ (phaserUsed u key = true → p.Reaches (phaserOf u key) pod) ∧
  (¬p.Ends (pod 0) → u.flights = s.flights ∧ ∀ j, u.fl.lane j = s.fl.lane j) ∧
  (p.Ends (pod 0) → ¬p.next.Ends (pod 1) → Released s u key p.owner (p.phase + 1))

/-- A phaser instruction comes to its own operation (R307, R311): its level, its number, the phaser that it names, its owner, and,
for a release, no unperformed store of Active. -/
def PhaserAt (s : State) (h : Hdr) (o : OpsX) (ref : Word) (lvl : Nat) (key : PhKey) : Prop :=
  resolveLevel s.fl o.lvl = some lvl ∧
  ref.toNat < (if lvl = 1 then 64 else if lvl = 2 then 256 else if lvl = 3 then 1024 else if 4 ≤ lvl then 4096 else 0) ∧
  key = ⟨min lvl 4, if lvl = 1 then s.fl.id.coreNo else if lvl = 2 then s.fl.id.coreNo / 48 * 6 + s.fl.id.coreNo % 48 / 8
    else if lvl = 3 then s.fl.id.coreNo / 48 else 0, ref.toNat⟩ ∧
  ((phaserOf s key).owner = none ∨ (phaserOf s key).owner = some s.fl.ctx) ∧
  (o.ord.getLsbD 1 = true → ∀ j, Acts s h j → Settled s j)

/-- The lanes of a flight that are parked at a BAR have passed it (R318). -/
def PassedBar (x y : Flight) : Prop :=
  ∀ j : LaneId, ((x.lane j).st = .parked .bar → (y.lane j).st = .ready ∧ (y.lane j).regs = (x.lane j).regs ∧
      ((x.lane j).parkRep = false → (y.lane j).pc = (x.lane j).pc + 8)) ∧
    ((x.lane j).st ≠ .parked .bar → y.lane j = x.lane j)

/-- The members of a team that have arrived on its barrier (R318). -/
def BarIn (s : State) (r : MemberRef) : List Nat := assocGet [] s.bars { r with mem := 0 }

/-- The flights of the members that P names have passed their BAR, and every other flight is as before (R318). -/
def PassedFor (s t : State) (P : MemberRef → Prop) : Prop :=
  ∀ j y, flightOf s j = some y → ∃ z, flightOf t j = some z ∧
    ((∃ m, y.member = some m ∧ P m) → PassedBar y z) ∧ (¬(∃ m, y.member = some m ∧ P m) → z = y)

/-- A member's arrival, at the package that keeps its team's barrier (R318): once every member that is placed and has not retired has
arrived, the team passes; the members that run in other packages are told, and one whose flight CTXSV has saved and freed is owed its
pass. -/
def ArrivesAt (i : Instr) (s : State) (r : MemberRef) (g : Grid) : Prop :=
  let came := r.mem :: BarIn s r
  let all := ∀ m ∈ g.members, m.team = r.team → m.retired = false → m.mem ∈ came
  let one := fun (n : Nat) => { r with mem := n }
  let away := fun (n : Nat) => n ∈ came ∧ ∀ f ∈ allFlights s, f.member ≠ some (one n)
  ∃ t, exec i s = .next t ∧ (∀ a, readByte t a = readByte s a) ∧ (∀ j : MemberRef, { j with mem := 0 } ≠ { r with mem := 0 } → BarIn t j = BarIn s j) ∧
    (¬all → t = { s with bars := t.bars } ∧ BarIn t r = came) ∧
    (all → BarIn t r = [] ∧ (PassedFor s t fun z => { z with mem := 0 } = { r with mem := 0 } ∧ z.mem ∈ came) ∧
      (∀ n p, away n → (memberOf s (one n)).bind (·.peer) = some p →
        Message.passed p s.podgen r.grid r.team n ∈ t.outbox) ∧
      ∀ n, away n → (memberOf s (one n)).bind (·.peer) = none → one n ∈ t.barOwed)

/-! Traps that wait, service, and the return. -/

/-- A flight x after its trap set has returned (R331): without a shadow left, HND is 0 and the lanes of the set go on. -/
def Returns (x : Flight) (skip : Bool) (y : Flight) : Prop :=
  y = { x with hnd := false, service := false, lanes := y.lanes } ∧ ∀ k : LaneId,
    let a := x.lane k
    let b := y.lane k
    let plain := skip = true ∧ x.trapRep = false ∧ x.tinsn.getLsbD 62 = false
    let ended := x.tinsn.getLsbD 63 = true ∨ 24 ≤ a.shPos + 1
    (a.inS = false → b = a) ∧ (a.inS = true → b.inS = false ∧ b.regs = a.regs) ∧
    (a.inS = true → a.st = .exited → b.st = .exited) ∧
    (a.inS = true → a.st ≠ .exited → b.st = .ready ∧
      (¬plain → b.pc = x.tpc ∧ b.lat = a.shadow ∧ b.pos = a.shPos) ∧
      (plain → b.pc = x.tpc + 8 ∧ (ended → b.lat = .stale ∧ b.pos = 0) ∧
        (¬ended → b.lat = a.shadow.shift (if x.tmask.has k then a.shFix else a.shPend) ∧ b.pos = a.shPos + 1)) ∧
      (skip = false → b.done = a.done ∧ b.remain = a.remain ∧ b.pend = a.shPend) ∧
      (skip = true → x.trapRep = true →
        (x.tmask.has k = true ∧ a.remain ≠ 0 → b.remain = a.remain - 1 ∧ b.pend = a.shFix ∧
          b.done = if b.remain = 0 then 0 else a.done + 1) ∧
        (¬(x.tmask.has k = true ∧ a.remain ≠ 0) → b.remain = a.remain ∧ b.done = a.done ∧ b.pend = a.shPend)) ∧
      (skip = true → x.trapRep = false → x.tinsn.getLsbD 62 = true → x.tmask.has k = true →
        b.slotSkip = some (x.tcause.getLsbD 8)))

/-- The host is asked to handle a trap of a flight (R327, R328). -/
def HostTakes (s : State) (x : Flight) (c : Cause) : Prop :=
  x.priv = false ∧ ∃ b, c.delegable = some b ∧ (ctxOf s x.ctx).hostSvc.getLsbD b = true

/-- Word m of an image in a swap area, as it stands in the mezzanine (R340). -/
def AreaWord (s : State) (i : ImageSide) (m : Nat) : Word := readWord s (mezzKey i.die (i.addr + 8 * m))

/-- The flight is to stop with a cause, and so is its member (R289). -/
def EndsWith (s t : State) (id : FlightId) (x : Flight) (c : Cause) : Prop :=
  (∃ y, flightOf t id = some y ∧ y.ending = some c) ∧ (∀ a, readByte t a = readByte s a) ∧
  ∀ r m, x.member = some r → memberOf s r = some m → m.cause = none → ∃ n, memberOf t r = some n ∧ n.cause = some c

/-- The trapped instruction's vector destination has sub-elements of the type `t`, or is one element of 512 bits, and `p` is the
precision of its binary8 results (R99, R144, R330). -/
def fixElems (h : Hdr) (o : OpsA) : List Instr :=
  [.vadd h o, .vsub h o, .vmul h o, .vfma h o, .vdiv h o, .vsqrt h o, .vmin h o, .vmax h o, .vand h o, .vor h o, .vxor h o, .vshl h o,
   .vshr h o, .vsar h o, .vcmp h o, .vsel h o, .vcvt h o, .vsplat h o, .vins h o, .vmov h o, .vred h o, .vreds h o]
def FixType (i : Instr) (t : Option Ty) (p : Nat) : Prop :=
  (∀ h o, i ∈ fixElems h o → t = some o.ty ∧ p = 0) ∧ (∀ h o, i = .vcvt8 h o → t = some o.ty ∧ p = o.is.toNat) ∧
  (∀ h o, i = .vldhx h o ∨ i = .vldmx h o → t = some (idxType o.sz) ∧ p = 0) ∧
  ((∀ h o, i ∉ fixElems h o ∧ i ≠ .vcvt8 h o) → (∀ h o, i ≠ .vldhx h o ∧ i ≠ .vldmx h o) → t = none ∧ p = 0)

/-- The trapped word has the destination `d`, the field W `w`, and a destination of the type `t` and precision `p` (R330): for a
dual word those of the reported slot (R52). -/
def FixDest (f : Flight) (d : Dst) (w : Bool) (t : Option Ty) (p : Nat) : Prop :=
  (∃ i h, decode f.tinsn = .ok i ∧ noResult i = false ∧ w = h.w ∧ FixType i t p ∧
    ((∃ op o, i.parts = some (.a op h o) ∧ d = o.dst) ∨ (∃ op o, i.parts = some (.b op h o) ∧ d = o.dst) ∨
     (∃ op o, i.parts = some (.c op h o) ∧ d = o.dst) ∨ (∃ op o, i.parts = some (.m op h o) ∧ d = o.dst) ∨
     (∃ op o, i.parts = some (.x op h o) ∧ d = o.dst) ∨ ∃ op o, i.parts = some (.t op h o) ∧ d = o.dst)) ∨
  ∃ e a b, decode f.tinsn = .ok (.dualWord e a b) ∧
    let x := if f.tcause.getLsbD 8 then b else a
    x.hop ≠ .nop ∧ d = x.dst ∧ w = x.w ∧ p = 0 ∧ ((∃ i, d = .v i) → t = some (Ty.ofCode (x.md.extractLsb' 0 4)))

/-- The vector that TFIX takes from its source (R45, R330): a register, a latch entry, or an immediate in every sub-element. -/
def FixTakes (s : State) (h : Hdr) (src : Src) (t : Option Ty) (p : Nat) (a : LaneId → VWord) : Prop :=
  ∀ k, Acts s h k → (s.fl.lane k).granules src = [] ∧
    ((∃ r, src = .v r ∧ a k = (s.fl.lane k).getV r) ∨ (∃ j, src = .latch j ∧ (s.fl.lane k).latch j = some (.vec (a k))) ∨
      ∃ b, src = .imm b ∧ a k = match t with
        | some y => vecOf y.width y.count fun _ =>
            if y.isB8 then ((fmtOf y p).round (intVal b.toInt) .rne 0 false).1 else immSub y b
        | none => b.signExtend 512)

/-- TFIX goes to the next word; each lane of Active in TMASK becomes `e k`, and `x k` is the latch value that it gives the
trapped instruction there; the others are unchanged (R26, R330). -/
def Fixes (i : Instr) (s : State) (h : Hdr) (e : LaneId → Lane) (x : LaneId → Option LatchVal) : Prop :=
  let m := fun k => s.fl.tmask.has k
  ∃ t, exec i s = .next t ∧
    AfterWord s t h false (fun k => if m k then e k else s.fl.lane k) (fun _ => none) (fun k => (s.fl.lane k).pc + 8) ∧
    ∀ k, (t.fl.lane k).shPend = (s.fl.lane k).shPend ∧ (Acts s h k ∧ m k = true → (t.fl.lane k).shFix = x k) ∧
      (¬(Acts s h k ∧ m k = true) → (t.fl.lane k).shFix = (s.fl.lane k).shFix)

/-! Stopping, images and residency. -/

/-- The image of a flight stands at an address of a die's mezzanine (R340). -/
def ImageAt (t : State) (die a : Nat) (f : Flight) : Prop :=
  ∀ i, i < 0x3400 → readWord t (mezzKey die (a + 8 * i)) = imageWord f i

/-- Of memory, nothing but an image at an address of a die's mezzanine differs. -/
def OnlyImage (s t : State) (die a : Nat) : Prop :=
  ∀ b, (b < mezzKey die a ∨ mezzKey die a + 0x1A000 ≤ b) → readByte t b = readByte s b

/-- The flight y is x with its run interrupted, to go on later as the rest of the same run (R26, R29, R337). -/
def Interrupted (x y : Flight) : Prop :=
  y.run = none ∧ y.stall = none ∧
  (∀ r, x.run = some r → y.halted = some { r with rep := none }) ∧ (x.run = none → y.halted = x.halted) ∧
  (∀ k, (y.lane k).regs = (x.lane k).regs ∧ (y.lane k).lat = (x.lane k).lat ∧ (y.lane k).pc = (x.lane k).pc ∧
    (y.lane k).pos = (x.lane k).pos ∧ (y.lane k).st = (x.lane k).st)

/-- A flight is STOPPED, by a requester's wish (R338). -/
def StoppedBy (x y : Flight) (b : StopBy) : Prop :=
  Interrupted x y ∧ y.stopped = true ∧ y.preempt = none ∧ y.stoppedBy = some b ∧ y.slot = x.slot ∧ y.id = x.id

/-- A stop is asked of the flight x by `b` (R337): a request of another stands in for one of the newel; otherwise one that is asked
already stays. A flight whose word is stalled for room in the grid (R184), for an MDRAIN (R185), for held stores (R208) or for
room in a queue (R244) gives that word up. -/
def Asked (s : State) (x y : Flight) (b : StopBy) : Prop :=
  let now := ccountOf s x.id.die
  (x.stopped = true → y = if x.stoppedBy = some .newel then { x with stoppedBy := some b } else x) ∧
  (x.stopped = false → (∀ t c, x.preempt = some (t, c) → y = { x with preempt := some (t, if c = .newel then b else c) }) ∧
    (x.preempt = none →
      let idles := x.stall = some .gridFull ∨ (∃ r, x.stall = some (.drain r)) ∨ x.stall = some .heldFull ∨
        ∃ q, x.stall = some (.queueFull q)
      (¬idles → y = { x with preempt := some (now, b) }) ∧
      (idles → ∃ z, Interrupted x z ∧ y = { z with preempt := some (now, b) })))

/-- The flight can stop now (R191, R337): it is between runs, or at a REP boundary with no word stalled, with no trap and no grid
operation outstanding. -/
def MayStop (s : State) (x : Flight) : Prop :=
  (∀ r, x.run = some r → r.rep ≠ none ∧ x.stall = none) ∧ x.pendTrap = none ∧ gridOps s x = []

/-- A flight takes part in the arbitration of an engine (R132, R133, R338). -/
def Contends (core eng : Nat) (x : Flight) : Prop :=
  x.id.coreNo = core ∧ (∃ n, x.slot = some n ∧ n / 2 = eng) ∧ x.live = true ∧ x.stopped = false ∧ x.service = false ∧
  x.pendTrap = none ∧ x.awaitImage = none ∧ x.ending = none ∧ x.preempt = none ∧
  (x.halted ≠ none ∨ ∃ k, (x.lane k).st = .ready ∧ (x.hnd = true → (x.lane k).inS = true))

/-- The lanes of a set are those at the smallest pc of the lanes that may issue (R128, R326). -/
def AtLeastPc (x : Flight) (set : LaneSet) : Prop :=
  let may := fun (k : LaneId) => (x.lane k).st = .ready ∧ (x.hnd = true → (x.lane k).inS = true)
  ∀ k, set.has k = true ↔ may k ∧ ∀ j, may j → (x.lane k).pc.toNat ≤ (x.lane j).pc.toNat

/-! Events to the host, errors, and the host's actions. -/

/-- An event record (R388): kind, code, context, die, detail words, and TIME. -/
def eventOf (kind code : Nat) (ctx : BitVec 6) (die : Nat) (d1 d2 time : Word) : List Word :=
  [BitVec.ofNat 64 (2 ^ 56 * kind + 2 ^ 48 * code + 2 ^ 42 * ctx.toNat + 2 ^ 39 * (die % 8)), d1, d2, 0, time, 0, 0, 0]

/-- The slots of a ring (R379): none before it is set up. -/
def slotsOf (base : Word) : Nat :=
  if base = 0 then 0 else 2 ^ (if base.toNat / 2 ^ 56 % 16 = 0 then 16 else base.toNat / 2 ^ 56 % 16)

/-- An event record has gone to the host (R379, R388): into the ring, or, where that has no room or others wait, behind those. -/
def EventIn (s t : State) (rec : List Word) : Prop :=
  let h := s.host
  let size := slotsOf h.evbase
  let at_ := mainKey (h.evbase.toNat % 2 ^ 48 + 64 * (h.evprod.toNat % size))
  let room := s.eventWait = [] ∧ (h.evprod - h.evcons).toNat < size
  (room → t = { s with mem := t.mem, poison := t.poison, cmds := t.cmds, host := { h with evprod := h.evprod + 1 } } ∧
    (∀ i, i < 8 → rec[i]? = some (readWord t (at_ + 8 * i))) ∧ ∀ b, (b < at_ ∨ at_ + 64 ≤ b) → readByte t b = readByte s b) ∧
  (¬room → t = { s with eventWait := s.eventWait ++ [rec] })

/-- An instruction whose whole effect is an event of the hub in the state u. -/
def Tells (i : Instr) (s u : State) (kind code : Nat) (d1 : Word) : Prop :=
  ∃ t, exec i s = .next t ∧ EventIn u t (eventOf kind code 0 0 d1 0 u.hubcount)

/-- The value of a register that shows BUSY and REFUSED, without them (R379). -/
def plainOf (v : Word) : Word := BitVec.ofNat 64 (v.toNat % 2 ^ 62)

/-- The fields of SVCCTL, FLTCTL and REQ (R385, R387, R388). -/
def actOf (v : Word) : Nat := v.toNat / 2 ^ 52 % 16
def namedFlight (v : Word) : FlightId := ⟨v.toNat / 2 ^ 39 % 8, v.toNat / 2 ^ 33 % 64, v.toNat / 2 ^ 27 % 64⟩
def namedUnit (v : Word) : Nat := v.toNat / 2 ^ 8 % 16

/-- A flat address of the halls, the galleries, the mezzanine or the instruction stores of a die. -/
def OnDie (n a : Nat) : Prop :=
  (∃ u x, u / 48 = n ∧ ((x < 0x80000 ∧ a = hallKey u x) ∨ (x < 0x20000 ∧ a = storeKey u x))) ∨
  (∃ u x, u / 6 = n ∧ x < 0x800000 ∧ a = galleryKey u x) ∨ ∃ x, x < 0x10000000 ∧ a = mezzKey n x

/-- A member is lost with a die (R346): it is placed, and its leader or its unit is there. -/
def LostWith (m : Member) (n : Nat) : Prop :=
  m.retired = false ∧ ((∃ f, m.leader = some f ∧ f.die = n) ∨ (m.unit.lvl = 3 ∧ m.unit.num = n) ∨
    (m.unit.lvl = 2 ∧ m.unit.num / 6 = n) ∨ (m.unit.lvl < 2 ∧ m.unit.num / 48 = n))

/-- The live flights are marked so, and no two have the same identity (R126). -/
def State.Distinct (s : State) : Prop :=
  (∀ f ∈ s.flights, f.live = true) ∧ (allFlights s).Pairwise fun x y => x.id ≠ y.id

/-- A context has ended (R196, R381): it is not live, its flights and the rest of its work are gone without a future resolved,
its lines are zero and FREE, the host is told, and what is not of the context is as before. -/
def ContextEnds (s t : State) (c : BitVec 6) (code : Nat) : Prop :=
  ctxOf t c = Context.blank ∧ (∀ d, d ≠ c → ctxOf t d = ctxOf s d) ∧
  (∀ f, f ∈ allFlights t ↔ f ∈ allFlights s ∧ f.ctx ≠ c) ∧
  t.grids = (s.grids.filter fun g => decide (g.ctx ≠ c)) ∧
  t.conts = (s.conts.filter fun x => decide (x.ctx ≠ c)) ∧ t.dues = (s.dues.filter fun x => decide (x.ctx ≠ c)) ∧
  (∀ x ∈ t.cmds, x.ctx ≠ c) ∧ (∀ x ∈ t.tokens, x.1 ≠ c) ∧ (∀ x ∈ t.outstanding, x.ctx ≠ c) ∧ (∀ x ∈ t.inbound, x.req.pctx ≠ c) ∧
  (∀ x ∈ t.phasers, x.2.owner ≠ some c) ∧ (∀ n, ∀ f ∈ (coreOf t n).fetches, f.src.ctx ≠ c) ∧
  (∀ n, 2 ^ 54 ≤ n → if (lineSt s n).owner = some c then lineSt t n = LineState.free ∧ ∀ i, i < 64 → readByte t (64 * n + i) = 0
    else lineSt t n = lineSt s n ∧ ∀ i, i < 64 → readByte t (64 * n + i) = readByte s (64 * n + i)) ∧
  ∃ u, u.host = s.host ∧ u.eventWait = s.eventWait ∧ EventIn u t (eventOf 2 code c 0 0 0 s.hubcount)

/-- Waits on a unit after an answer (R383). -/
def answers (vpn : Nat) (b : Bool) (ws : List Wait) : List Wait :=
  ws.map fun w => if w.vpn.toNat = vpn ∧ w.answer = none then { w with answer := some b } else w

/-- Every access of a context that waits on a unit has its answer (R383); nothing else is changed. -/
def AnsweredAll (s t : State) (c : BitVec 6) (vpn : Nat) (b : Bool) : Prop :=
  t = { s with fl := t.fl, flights := t.flights, cmds := t.cmds, dues := t.dues, inbound := t.inbound, cores := t.cores } ∧
  (t.cmds = s.cmds.map fun x => if x.ctx = c then
    { x with waits := x.waits.map (fun w => (w.1, answers vpn b w.2)), futWaits := answers vpn b x.futWaits } else x) ∧
  (t.dues = s.dues.map fun x => if x.ctx = c then { x with waits := answers vpn b x.waits } else x) ∧
  (t.inbound = s.inbound.map fun x => if x.req.pctx = c then { x with waits := answers vpn b x.waits } else x) ∧
  (∀ n, coreOf t n = { coreOf s n with fetches := (coreOf s n).fetches.map fun x =>
    if x.src.ctx = c then { x with waits := answers vpn b x.waits } else x }) ∧
  ∀ id x, flightOf s id = some x → ∃ y, flightOf t id = some y ∧ (x.ctx ≠ c → y = x) ∧ (x.ctx = c →
    y = { x with lanes := y.lanes, held := y.held, awaitImage := y.awaitImage } ∧
    (y.held = x.held.map fun z => { z with waits := answers vpn b z.waits }) ∧ y.awaitImage = x.awaitImage.map (answers vpn b) ∧
    ∀ k : LaneId, y.lane k = match (x.lane k).st with
      | .parked (.fault a ws) => { x.lane k with st := .parked (.fault a (answers vpn b ws)) }
      | .parked (.future sp a d w set j ws) => { x.lane k with st := .parked (.future sp a d w set j (answers vpn b ws)) }
      | _ => x.lane k)

end Sys2Proof.Machine
end

