-- ==== Sys2Proof/Certificates/Slice0/Obligations.lean ====
section
/-! DEFINITION. The statements for the provers. -/

open Sys2Proof Sys2Proof.Machine

/-- ADD, ADDI, SUB, NEG, MUL and ABS (R64, R65), MULH, MULHU (R66), MIN, MAX, MINU and MAXU (R67). -/
def Obligations.ScalarArithmetic : Prop :=
  (∀ (s : State) (h : Hdr) (o : OpsA) (ob : OpsB) (a b : LaneId → Word), Clear s h →
     (ReadsG s h o.sa a → ReadsG s h o.sb b →
       GivesFit (.add h o) s h o (fun k => (a k).toInt + (b k).toInt) ∧
       GivesFit (.sub h o) s h o (fun k => (a k).toInt - (b k).toInt) ∧
       GivesFit (.mul h o) s h o (fun k => (a k).toInt * (b k).toInt) ∧
       GivesFit (.neg h o) s h o (fun k => -(a k).toInt) ∧
       GivesFit (.abs h o) s h o (fun k => max (a k).toInt (-(a k).toInt))) ∧
     (ReadsG s h ob.sa a →
       GivesG (.addi h ob) s h ob.dst fun k => BitVec.ofInt 64 ((a k).toInt + ob.imm.toInt))) ∧
  (∀ (s : State) (h : Hdr) (o : OpsA) (a b : LaneId → Word), Clear s h → ReadsG s h o.sa a → ReadsG s h o.sb b →
     GivesG (.mulh h o) s h o.dst (fun k =>
       (BitVec.ofInt 128 ((a k).toInt * (b k).toInt)).extractLsb' 64 64) ∧
     GivesG (.mulhu h o) s h o.dst (fun k =>
       (BitVec.ofNat 128 ((a k).toNat * (b k).toNat)).extractLsb' 64 64) ∧
     GivesG (.min h o) s h o.dst (fun k => BitVec.ofInt 64 (min (a k).toInt (b k).toInt)) ∧
     GivesG (.max h o) s h o.dst (fun k => BitVec.ofInt 64 (max (a k).toInt (b k).toInt)) ∧
     GivesG (.minu h o) s h o.dst (fun k => BitVec.ofNat 64 (min (a k).toNat (b k).toNat)) ∧
     GivesG (.maxu h o) s h o.dst (fun k => BitVec.ofNat 64 (max (a k).toNat (b k).toNat)))

/-- AND, OR, XOR, ANDN, NOT, ANDI, ORI and XORI, bit by bit (R71); SHL, SHR, SAR, ROL and ROR (R72); SHLI, SHRI and SARI by the
count in IMM24[5:0] (R73); CLZ, CTZ, POPC, BREV and BSWAP (R74); BFX, BFXS and BFI (R75). -/
def Obligations.ScalarBits : Prop :=
  (∀ (s : State) (h : Hdr) (o : OpsA) (ob : OpsB) (a b : LaneId → Word), Clear s h →
     (ReadsG s h o.sa a →
       GivesG (.not h o) s h o.dst (fun k => BitVec.ofFnLE fun i : Fin 64 => !(a k).getLsbD i) ∧
       (ReadsG s h o.sb b →
         GivesG (.and h o) s h o.dst (fun k => BitVec.ofFnLE fun i : Fin 64 => (a k).getLsbD i && (b k).getLsbD i) ∧
         GivesG (.or h o) s h o.dst (fun k => BitVec.ofFnLE fun i : Fin 64 => (a k).getLsbD i || (b k).getLsbD i) ∧
         GivesG (.xor h o) s h o.dst (fun k => BitVec.ofFnLE fun i : Fin 64 => xor ((a k).getLsbD i) ((b k).getLsbD i)) ∧
         GivesG (.andn h o) s h o.dst (fun k => BitVec.ofFnLE fun i : Fin 64 => (a k).getLsbD i && !(b k).getLsbD i))) ∧
     (ReadsG s h ob.sa a →
       let imm : Word := BitVec.ofInt 64 ob.imm.toInt
       GivesG (.andi h ob) s h ob.dst (fun k => BitVec.ofFnLE fun i : Fin 64 => (a k).getLsbD i && imm.getLsbD i) ∧
       GivesG (.ori h ob) s h ob.dst (fun k => BitVec.ofFnLE fun i : Fin 64 => (a k).getLsbD i || imm.getLsbD i) ∧
       GivesG (.xori h ob) s h ob.dst (fun k => BitVec.ofFnLE fun i : Fin 64 => xor ((a k).getLsbD i) (imm.getLsbD i)))) ∧
  (∀ (s : State) (h : Hdr) (o : OpsA) (ob : OpsB) (a b : LaneId → Word), Clear s h →
     (ReadsG s h o.sa a → ReadsG s h o.sb b →
       GivesG (.shl h o) s h o.dst (fun k => BitVec.ofNat 64 ((a k).toNat * 2 ^ (b k).toNat)) ∧
       GivesG (.shr h o) s h o.dst (fun k => BitVec.ofNat 64 ((a k).toNat / 2 ^ (b k).toNat)) ∧
       GivesG (.sar h o) s h o.dst (fun k => BitVec.ofInt 64 ((a k).toInt / 2 ^ (b k).toNat)) ∧
       GivesG (.rol h o) s h o.dst (fun k =>
         BitVec.ofFnLE fun i : Fin 64 => (a k).getLsbD ((i + (64 - (b k).toNat % 64)) % 64)) ∧
       GivesG (.ror h o) s h o.dst (fun k =>
         BitVec.ofFnLE fun i : Fin 64 => (a k).getLsbD ((i + (b k).toNat % 64) % 64))) ∧
     (ReadsG s h ob.sa a →
       let n := (ob.imm.extractLsb' 0 6).toNat
       GivesG (.shli h ob) s h ob.dst (fun k => BitVec.ofNat 64 ((a k).toNat * 2 ^ n)) ∧
       GivesG (.shri h ob) s h ob.dst (fun k => BitVec.ofNat 64 ((a k).toNat / 2 ^ n)) ∧
       GivesG (.sari h ob) s h ob.dst (fun k => BitVec.ofInt 64 ((a k).toInt / 2 ^ n)))) ∧
  (∀ (s : State) (h : Hdr) (o : OpsA) (a : LaneId → Word), Clear s h → ReadsG s h o.sa a →
     (∃ n : LaneId → Nat, GivesG (.clz h o) s h o.dst (fun k => BitVec.ofNat 64 (n k)) ∧ ∀ k, n k ≤ 64 ∧
       (∀ i, 64 - n k ≤ i → (a k).getLsbD i = false) ∧ (n k < 64 → (a k).getLsbD (63 - n k) = true)) ∧
     (∃ n : LaneId → Nat, GivesG (.ctz h o) s h o.dst (fun k => BitVec.ofNat 64 (n k)) ∧ ∀ k, n k ≤ 64 ∧
       (∀ i, i < n k → (a k).getLsbD i = false) ∧ (n k < 64 → (a k).getLsbD (n k) = true)) ∧
     GivesG (.popc h o) s h o.dst (fun k => BitVec.ofNat 64 ((List.range 64).filter fun i => (a k).getLsbD i).length) ∧
     (∃ v : LaneId → Word, GivesG (.brev h o) s h o.dst v ∧ ∀ k i, i < 64 → (v k).getLsbD (63 - i) = (a k).getLsbD i) ∧
     (∃ v : LaneId → Word, GivesG (.bswap h o) s h o.dst v ∧ ∀ k i, i < 8 →
       (v k).extractLsb' (8 * (7 - i)) 8 = (a k).extractLsb' (8 * i) 8)) ∧
  (∀ (s : State) (h : Hdr) (o : OpsA) (a b c : LaneId → Word), Clear s h → ReadsG s h o.sa a → ReadsG s h o.sb b →
     ReadsG s h o.sc c →
     let pos := fun k => (b k).toNat % 64
     let len := fun k => min ((c k).toNat % 128) (64 - pos k)
     GivesG (.bfx h o) s h o.dst (fun k => BitVec.ofNat 64 ((a k).toNat / 2 ^ pos k % 2 ^ len k)) ∧
     (∃ v : LaneId → Word, GivesG (.bfxs h o) s h o.dst v ∧ ∀ k i, i < 64 → (v k).getLsbD i =
       (decide (len k ≠ 0) && (a k).getLsbD (pos k + min i (len k - 1)))) ∧
     (∀ old, ReadsG s h o.dst.asSrc old →
       ∃ v : LaneId → Word, GivesG (.bfi h o) s h o.dst v ∧ ∀ k i, i < 64 → (v k).getLsbD i =
         if pos k ≤ i ∧ i < pos k + len k then (a k).getLsbD (i - pos k) else (old k).getLsbD i))

/-- MOV of general registers, MOVI, MOVHI, SEL and LEA (R76); MOV that reads a rejoin mask gives ENROLLED (R139); CMP, CMPU and CMPI
by the condition codes EQ, NE, LT, LE, GT and GE (R77); PAND, POR, PXOR, PNOT and PMOV (R78). A source that names a latch entry takes
its value, or traps where the entry is stale or of another class (R23), in the words that read SA first. -/
def Obligations.MovesAndCompares : Prop :=
  (∀ (s : State) (h : Hdr) (o : OpsA) (oc : OpsC) (a b : LaneId → Word), Clear s h →
     ((∀ j, o.dst ≠ .j j) → ReadsG s h o.sa a → GivesG (.mov h o) s h o.dst a) ∧
     (∀ j, (∀ i, o.dst ≠ .j i) → o.sa = .j j →
       GivesG (.mov h o) s h o.dst fun _ => (s.fl.mask j).enrolled.setWidth 64) ∧
     GivesG (.movi h oc) s h oc.dst (fun _ => BitVec.ofInt 64 oc.imm.toInt) ∧
     (∀ old, ReadsG s h oc.dst.asSrc old →
       GivesG (.movhi h oc) s h oc.dst fun k => BitVec.ofNat 64 (oc.imm.toNat * 2 ^ 32 + (old k).toNat % 2 ^ 32)) ∧
     (ReadsG s h o.sa a → ReadsG s h o.sb b →
       GivesG (.lea h o) s h o.dst (fun k => BitVec.ofNat 64 ((a k).toNat + (b k).toNat * 2 ^ o.is.toNat)) ∧
       ∀ p, ReadsP s h o.sc p → GivesG (.sel h o) s h o.dst fun k => if p k then a k else b k)) ∧
  (∀ (s : State) (h : Hdr) (o : OpsA) (ob : OpsB), Clear s h →
     (TakesP s h o.dst →
       (∀ a b, ReadsG s h o.sa a → ReadsG s h o.sb b →
         (o.cc = 0 → GivesP (.cmp h o) s h o.dst fun k => decide ((a k).toInt = (b k).toInt)) ∧
         (o.cc = 1 → GivesP (.cmp h o) s h o.dst fun k => decide ((a k).toInt ≠ (b k).toInt)) ∧
         (o.cc = 2 → GivesP (.cmp h o) s h o.dst fun k => decide ((a k).toInt < (b k).toInt)) ∧
         (o.cc = 3 → GivesP (.cmp h o) s h o.dst fun k => decide ((a k).toInt ≤ (b k).toInt)) ∧
         (o.cc = 4 → GivesP (.cmp h o) s h o.dst fun k => decide ((a k).toInt > (b k).toInt)) ∧
         (o.cc = 5 → GivesP (.cmp h o) s h o.dst fun k => decide ((a k).toInt ≥ (b k).toInt)) ∧
         (o.cc = 0 → GivesP (.cmpu h o) s h o.dst fun k => decide ((a k).toNat = (b k).toNat)) ∧
         (o.cc = 1 → GivesP (.cmpu h o) s h o.dst fun k => decide ((a k).toNat ≠ (b k).toNat)) ∧
         (o.cc = 2 → GivesP (.cmpu h o) s h o.dst fun k => decide ((a k).toNat < (b k).toNat)) ∧
         (o.cc = 3 → GivesP (.cmpu h o) s h o.dst fun k => decide ((a k).toNat ≤ (b k).toNat)) ∧
         (o.cc = 4 → GivesP (.cmpu h o) s h o.dst fun k => decide ((a k).toNat > (b k).toNat)) ∧
         (o.cc = 5 → GivesP (.cmpu h o) s h o.dst fun k => decide ((a k).toNat ≥ (b k).toNat))) ∧
       (∀ p q, ReadsP s h o.sa p → GivesP (.pnot h o) s h o.dst (fun k => !p k) ∧ GivesP (.pmov h o) s h o.dst p ∧
         (ReadsP s h o.sb q → GivesP (.pand h o) s h o.dst (fun k => p k && q k) ∧
           GivesP (.por h o) s h o.dst (fun k => p k || q k) ∧ GivesP (.pxor h o) s h o.dst fun k => xor (p k) (q k)))) ∧
     (TakesP s h ob.dst → ∀ a, ReadsG s h ob.sa a →
       (ob.bm = 0 → GivesP (.cmpi h ob) s h ob.dst fun k => decide ((a k).toInt = ob.imm.toInt)) ∧
       (ob.bm = 1 → GivesP (.cmpi h ob) s h ob.dst fun k => decide ((a k).toInt ≠ ob.imm.toInt)) ∧
       (ob.bm = 2 → GivesP (.cmpi h ob) s h ob.dst fun k => decide ((a k).toInt < ob.imm.toInt)) ∧
       (ob.bm = 3 → GivesP (.cmpi h ob) s h ob.dst fun k => decide ((a k).toInt ≤ ob.imm.toInt)) ∧
       (ob.bm = 4 → GivesP (.cmpi h ob) s h ob.dst fun k => decide ((a k).toInt > ob.imm.toInt)) ∧
       (ob.bm = 5 → GivesP (.cmpi h ob) s h ob.dst fun k => decide ((a k).toInt ≥ ob.imm.toInt)))) ∧
  (∀ (s : State) (h : Hdr) (o : OpsA), Clear s h → ∀ k : BitVec 2, o.sa = .latch k → (∀ j, (s.fl.lane j).faulty = []) →
     (∀ a, (∀ j, o.dst ≠ .j j) → (∀ j, Acts s h j → (s.fl.lane j).latch k = some (.gen (a j))) → GivesG (.mov h o) s h o.dst a) ∧
     (∀ a, TakesP s h o.dst → (∀ j, Acts s h j → (s.fl.lane j).latch k = some (.pred (a j))) → GivesP (.pmov h o) s h o.dst a) ∧
     ∀ a, (∀ j, Acts s h j → (s.fl.lane j).latch k = some (.vec (a j))) → GivesV (.vmov h o) s h o.dst a) ∧
  ∀ (s : State) (h : Hdr) (o : OpsA) (c : Cause) (tval : LaneId → Word), Clear s h → MayTrap s → (∃ k, Acts s h k) →
    let fails := fun (cls : LatchVal → Prop) => ∀ k, Acts s h k → LatchFails (s.fl.lane k) o.sa cls c (tval k)
    let trap := fun i => Traps i s h (Acts s h) c 0 tval (fun k => s.fl.lane k) fun _ => none
    (fails IsGen → (∀ i ∈ readsGen h o, trap i) ∧ ((∀ j, o.dst ≠ .j j) → trap (.mov h o))) ∧
    (fails IsPred → ∀ i ∈ readsPred h o, trap i) ∧ (fails IsVec → ∀ i ∈ readsVec h o, trap i)

/-- DIV, DIVU, REM and REMU (R68, R69, R70): without an enabled condition they complete with quotient or remainder and the
sticky flags; lanes with an enabled zero divisor or overflow trap, INT_DIVZERO leading, and the rest complete. -/
def Obligations.Divisions : Prop :=
  ∀ (s : State) (h : Hdr) (o : OpsA) (a b : LaneId → Word), Clear s h → ReadsG s h o.sa a → ReadsG s h o.sb b →
    ∀ p ∈ [(Instr.div h o, Instr.rem h o, true), (Instr.divu h o, Instr.remu h o, false)],
      ∃ (q r : LaneId → Word) (f : LaneId → BitVec 3), (∀ k, Divided p.2.2 (a k) (b k) (q k) (r k) (f k)) ∧
        let zero : LaneId → Prop := fun k => Acts s h k ∧ b k = 0 ∧ s.fl.ictl.getLsbD 0 = true
        let corner : LaneId → Prop := fun k => Acts s h k ∧ p.2.2 = true ∧ (a k).toInt = -2 ^ 63 ∧ (b k).toInt = -1 ∧
          s.fl.ictl.getLsbD 1 = true
        let tval : LaneId → Word := fun k => if b k = 0 then 0 else 1
        ((∀ k, ¬zero k ∧ ¬corner k) →
          Completes p.1 s h false (divLane s h o.dst q f) (fun k => some (.gen (q k))) ∧
          Completes p.2.1 s h false (divLane s h o.dst r f) (fun k => some (.gen (r k)))) ∧
        (MayTrap s → (∃ k, zero k) →
          Traps p.1 s h (fun k => zero k ∨ corner k) .intDivzero 0 tval (divLane s h o.dst q f) (fun k => some (.gen (q k))) ∧
          Traps p.2.1 s h (fun k => zero k ∨ corner k) .intDivzero 0 tval (divLane s h o.dst r f) (fun k => some (.gen (r k)))) ∧
        (MayTrap s → (∀ k, ¬zero k) → (∃ k, corner k) →
          Traps p.1 s h corner .intOverflow 0 tval (divLane s h o.dst q f) (fun k => some (.gen (q k))) ∧
          Traps p.2.1 s h corner .intOverflow 0 tval (divLane s h o.dst r f) (fun k => some (.gen (r k))))

/-- BRA and CALL, relative (R80); BRX and CALLX, through a register (R81), inside the slot of the branch; RET (R81) and JF (R82)
to any PRESENT slot; with the link of R79 and the traps of R79 and R19. -/
def Obligations.Branches : Prop :=
  ∀ (s : State) (h : Hdr) (o : OpsA) (oc : OpsC), Clear s h →
    let rel : LaneId → Word := fun k => BitVec.ofInt 64 ((s.fl.lane k).pc.toNat + 8 * oc.imm.toInt)
    let abs : LaneId → Word := fun _ => BitVec.ofNat 64 (8 * (oc.imm.toNat / 8 % 2 ^ 14))
    BranchesTo (.bra h oc) s h rel true (fun k => s.fl.lane k) (fun _ => none) ∧
    BranchesTo (.call h oc) s h rel true (linked s h oc.dst) (fun k => some (.gen (linkAt s k))) ∧
    BranchesTo (.jf h oc) s h abs false (linked s h oc.dst) (fun k => some (.gen (linkAt s k))) ∧
    ∀ a, ReadsG s h o.sa a →
      BranchesTo (.brx h o) s h a true (fun k => s.fl.lane k) (fun _ => none) ∧
      BranchesTo (.ret h o) s h a false (fun k => s.fl.lane k) (fun _ => none) ∧
      BranchesTo (.callx h o) s h a true (linked s h o.dst) (fun k => some (.gen (linkAt s k)))

/-- MFS returns the register's 64-bit value, the lane's own where the register is held per lane (R10 to R14, R89). MTS (R11, R90). A
class S register is refused without privilege, in the whole issuing set. A register held per lane takes each lane's own value, and
the lanes whose value it does not allow trap with ILLEGAL; REPCNT reads afterwards as it was written (R29). Another register takes
the value of the highest lane of Active, which alone is checked: a value that it does not allow traps with ILLEGAL in the whole of
Active. A class C register is cleared whatever the value. No word is an MTS of a class R register, or names a number that R10 does
not list: such a word is ILLEGAL as a word that is no instruction is. -/
def Obligations.SystemRegisters : Prop :=
  (∀ (s : State) (h : Hdr) (o : OpsB), Clear s h →
     let f := s.fl
     let c := ctxOf s f.ctx
     ∀ p ∈ ([(0x000, fun _ => 32), (0x001, fun _ => 5), (0x002, fun k => BitVec.ofNat 64 k.val), (0x003, fun _ => BitVec.ofNat 64 f.id.fnum),
         (0x004, fun _ => BitVec.ofNat 64 f.id.core), (0x005, fun _ => BitVec.ofNat 64 (f.id.core / 8)),
         (0x006, fun _ => BitVec.ofNat 64 f.id.die), (0x007, fun _ => s.host.pkgnum.setWidth 64),
         (0x008, fun _ => f.ctx.setWidth 64), (0x010, fun _ => f.level.setWidth 64), (0x011, fun _ => f.rootlvl.setWidth 64),
         (0x012, fun _ => f.teamidx), (0x013, fun _ => f.teamcnt), (0x014, fun _ => f.ginst.setWidth 64),
         (0x020, fun _ => BitVec.ofNat 64 (4 * f.hnd.toNat + 2 * f.priv.toNat + f.mm.toNat)),
         (0x021, fun k => if (f.lane k).repInt
           then BitVec.ofNat 64 (256 * (f.lane k).done.toNat + (f.lane k).remain.toNat) else 0),
         (0x022, fun _ => f.dphase.setWidth 64), (0x023, fun _ => (s.dies.get (Fin.ofNat 4 f.id.die)).ccount),
         (0x030, fun _ => f.fpctl.setWidth 64), (0x031, fun k => (f.lane k).fpstat.setWidth 64),
         (0x032, fun _ => f.ictl.setWidth 64), (0x033, fun k => (f.lane k).istat.setWidth 64),
         (0x040, fun _ => f.tcause.setWidth 64), (0x041, fun _ => f.tmask.setWidth 64), (0x042, fun k => (f.lane k).temask),
         (0x043, fun _ => f.tpc.setWidth 64), (0x044, fun _ => f.tinsn), (0x045, fun k => (f.lane k).tval),
         (0x046, fun _ => f.tvec), (0x050, fun _ => f.merr), (0x051, fun _ => f.merrxy), (0x081, fun _ => f.rflat),
         (0x080, fun _ => BitVec.ofNat 64 (2 ^ 32 * c.eqCount.toNat + 2 ^ 16 * c.eqDrops.toNat + c.eqHead.toNat))] :
         List (Nat × (LaneId → Word))),
       o.imm.toNat = p.1 → GivesG (.mfs h o) s h o.dst p.2) ∧
  (∀ (s : State) (h : Hdr) (o : OpsB) (a : LaneId → Word), Clear s h → ReadsG s h o.sa a →
     let n := o.imm.toNat
     let i := Instr.mts h o
     let f := s.fl
     let keep := fun k => s.fl.lane k
     (n ∈ [0x021, 0x040, 0x041, 0x042, 0x043, 0x044, 0x045] → f.priv = false → MayTrap s →
       (∃ k, (issuing s).has k = true) → Traps i s h (fun k => (issuing s).has k = true) .priv 0 (fun _ => 0) keep fun _ => none) ∧
     -- registers held per lane: number, privilege, the values allowed, and the lane with the value
     (∀ p ∈ ([
         (0x021, true, (fun v => ∃ d r : Nat, v = BitVec.ofNat 64 (256 * d + r) ∧ d ≤ 63 ∧ d + r ≤ 64 ∧ (r = 0 → d = 0)),
           fun l v => { l with done := v.extractLsb' 8 7, remain := v.extractLsb' 0 7 }),
         (0x031, false, (fun v => v.toNat < 32), fun l v => { l with fpstat := v.setWidth 5 }),
         (0x033, false, (fun v => v.toNat < 8), fun l v => { l with istat := v.setWidth 3 }),
         (0x042, true, (fun _ => True), fun l v => { l with temask := v }),
         (0x045, true, (fun _ => True), fun l v => { l with tval := v })] :
         List (Nat × Bool × (Word → Prop) × (Lane → Word → Lane))),
       n = p.1 → (p.2.1 = true → f.priv = true) →
         let e := fun k => p.2.2.2 (f.lane k) (a k)
         (repeating s = none → (∀ k, Acts s h k → p.2.2.1 (a k)) → ∃ t, exec i s = .next t ∧
           AfterWord s t h false e (fun _ => none) (fun k => (f.lane k).pc + 8) ∧
           (n = 0x021 → ∀ k, Acts s h k → (t.fl.lane k).repcnt = a k ∧ (t.fl.lane k).done = (e k).done ∧
             (t.fl.lane k).remain = (e k).remain)) ∧
         ∀ T, MayTrap s → (∃ k, T k) → (∀ k, T k ↔ Acts s h k ∧ ¬p.2.2.1 (a k)) →
           Traps i s h T .illegal 0 (fun _ => 0) e fun _ => none) ∧
     -- registers with one holder: number, privilege, the values allowed, and the state with the value
     ∀ k, Acts s h k → (∀ j, Acts s h j → j ≤ k) → ∀ p ∈ ([
         (0x022, false, (fun v => v.toNat < 64), fun v => { s with fl := { f with dphase := v.setWidth 6 } }),
         (0x030, false, (fun v => v.toNat < 256 ∧ v.toNat % 8 ≤ 4), fun v => { s with fl := { f with fpctl := v.setWidth 8 } }),
         (0x032, false, (fun v => v.toNat < 4), fun v => { s with fl := { f with ictl := v.setWidth 2 } }),
         (0x046, false, (fun v => v.toNat < 2 ^ 48 ∧ v.extractLsb' 17 15 = 0 ∧ v.extractLsb' 1 2 = 0),
           fun v => setCtx { s with fl := { f with tvec := v } } f.ctx { ctxOf s f.ctx with tvec := v }),
         (0x050, false, (fun _ => True), fun _ => { s with fl := { f with merr := 0 } }),
         (0x051, false, (fun _ => True), fun _ => { s with fl := { f with merrxy := 0 } }),
         (0x081, false, (fun _ => True), fun _ => { s with fl := { f with rflat := 0 } }),
         (0x040, true, (fun v => v.toNat < 2 ^ 10 ∧ (v.toNat % 256 = 0 ∨ ∃ c : Cause, c.code.toNat = v.toNat % 256)),
           fun v => { s with fl := { f with tcause := v.setWidth 10 } }),
         (0x041, true, (fun v => v.toNat < 2 ^ 32), fun v => { s with fl := { f with tmask := v.setWidth 32 } }),
         (0x043, true, (fun v => v.toNat < 2 ^ 17 ∧ v.toNat % 8 = 0), fun v => { s with fl := { f with tpc := v.setWidth 17 } }),
         (0x044, true, (fun _ => True), fun v => { s with fl := { f with tinsn := v } })] :
         List (Nat × Bool × (Word → Prop) × (Word → State))),
       n = p.1 → (p.2.1 = true → f.priv = true) →
         (p.2.2.1 (a k) → CompletesAs i s (p.2.2.2 (a k)) h false keep fun _ => none) ∧
         (¬p.2.2.1 (a k) → MayTrap s → Traps i s h (Acts s h) .illegal 0 (fun _ => 0) keep fun _ => none)) ∧
  ∀ (w : Word) (h : Hdr) (o : OpsB),
    (decode w = .ok (.mts h o) → o.imm.toNat ∈ [0x021, 0x022, 0x030, 0x031, 0x032, 0x033, 0x040, 0x041, 0x042, 0x043, 0x044,
      0x045, 0x046, 0x050, 0x051, 0x081]) ∧
    (decode w = .ok (.mfs h o) → o.imm.toNat ∈ [0x000, 0x001, 0x002, 0x003, 0x004, 0x005, 0x006, 0x007, 0x008, 0x010, 0x011, 0x012,
      0x013, 0x014, 0x020, 0x021, 0x022, 0x023, 0x030, 0x031, 0x032, 0x033, 0x040, 0x041, 0x042, 0x043, 0x044, 0x045, 0x046, 0x050,
      0x051, 0x060, 0x061, 0x062, 0x070, 0x080, 0x081])

/-- NOP has no effect (R84); EXIT ends its lanes, strikes them from every mask (R83, R142), and frees the slot of a flight whose
every lane has exited (R127). TRAP n raises SOFTWARE_TRAP in every lane of Active, with n in TVAL (R91); trap entry is that of R325. -/
def Obligations.ExitsAndTraps : Prop :=
  (∀ (s : State) (h : Hdr) (o : OpsA), Clear s h →
     Completes (.nop h o) s h false (fun k => s.fl.lane k) (fun _ => none) ∧
     ∃ t, exec (.exit h o) s = .next t ∧ KeepsData s t ∧
       (∀ k, Acts s h k → (t.fl.lane k).st = .exited ∧ ∀ j, (t.fl.mask j).enrolled.has k = false) ∧
       (∀ k, ¬Acts s h k → (∀ j, (s.fl.lane k).st ≠ .parked (.rejoin j)) → (t.fl.lane k).st = (s.fl.lane k).st) ∧
       ((∀ k, Acts s h k ∨ (s.fl.lane k).st = .exited) → t.fl.slot = none ∧ t.fl.run = none)) ∧
  (∀ (s : State) (h : Hdr) (o : OpsB), Clear s h → MayTrap s → (∃ k, Acts s h k) →
     let n : Word := BitVec.ofNat 64 (o.imm.toNat % 0x1000)
     Traps (.trap h o) s h (Acts s h) .softwareTrap n (fun _ => n) (fun k => s.fl.lane k) fun _ => none)

/-- REP (R27, R28, R87, R88): the repetition begins at repeat 0 in the lanes in which REP executes, its word is the next one with
the selected fields stepped, and L0 is stale; a REP with E = 1 or as the 24th word, a word that may not be a target and a field that
may not be stepped trap with ILLEGAL in the whole issuing set. A REP that no lane executes leads to the word after its target, and
every lane keeps its REPCNT (R9, R29). One repeat of a repetition (R27, R29): each lane that takes it counts it, and the run goes to
the next repeat, or leaves the target two words after the REP word with REPCNT zero. It is stated here of NOP, ADDI, CMPI and
VMOV, one word of each kind of result, and every statement that a word completes carries it for that word (AfterWord). -/
def Obligations.Repetitions : Prop :=
  (∀ (s : State) (h : Hdr) (o : OpsB), Clear s h → repeating s = none → (issuePc s + 8).toNat % 4096 ≠ 0 →
     let n := o.imm.toNat % 64 + 1
     let step := o.imm.extractLsb' 6 4
     let w := codeWord s s.fl.id.coreNo (issuePc s + 8)
     let refused := Traps (.rep h o) s h (fun k => (issuing s).has k = true) .illegal 0 (fun _ => 0) (fun k => s.fl.lane k)
       fun _ => none
     (MayTrap s → (∃ k, (issuing s).has k = true) → (h.e = true → refused) ∧
       ((∃ k, (issuing s).has k = true ∧ (s.fl.lane k).repCont = false ∧ 23 ≤ (s.fl.lane k).pos) → refused) ∧
       ((∀ i, decode w = .ok i → i.repOk = false ∨ stepsOk w step i.selectors n = false) → refused)) ∧
     ∀ i, decode w = .ok i → i.repOk = true → stepsOk w step i.selectors n = true → h.e = false →
       (∀ k, (issuing s).has k = true → (s.fl.lane k).repCont = false ∧ (s.fl.lane k).pos < 23) →
       (∀ j, j < n → Stepped w (stepWord w step j) step j) ∧
       ((∀ k, Acts s h k → (s.fl.lane k).remain = 0 ∧ (s.fl.lane k).repFin = false) → ∃ t, exec (.rep h o) s = .next t ∧ KeepsData s t ∧
         (∀ k, (issuing s).has k = true → ¬Acts s h k → (t.fl.lane k).done = (s.fl.lane k).done ∧
           (t.fl.lane k).remain = (s.fl.lane k).remain ∧ (t.fl.lane k).repcnt = (s.fl.lane k).repcnt) ∧
         ((∃ k, Acts s h k) →
           t.fl.run = some ⟨issuing s, some { i := 0, last := n, word := w, step := step, lanes := active s h }⟩ ∧
           (∀ k, Acts s h k → (t.fl.lane k).done = 0 ∧ (t.fl.lane k).remain.toNat = n) ∧
           ∀ k, (issuing s).has k = true → (t.fl.lane k).pc = (s.fl.lane k).pc ∧ (t.fl.lane k).lat = (s.fl.lane k).lat.shift none) ∧
         ((∀ k, ¬Acts s h k) → ∀ k, (issuing s).has k = true → (t.fl.lane k).pc = (s.fl.lane k).pc + 16 ∧
           let ends := w.getLsbD 63 = true ∨ 24 ≤ runPos s.fl (issuing s) + 2
           (ends → t.fl.run = none ∧ (t.fl.lane k).lat = .stale) ∧
           (¬ends → t.fl.run = some ⟨issuing s, none⟩ ∧ (t.fl.lane k).lat = ((s.fl.lane k).lat.shift none).shift none)))) ∧
  (∀ (s : State) (h : Hdr) (o : OpsA) (ob : OpsB) (r : RepRun), Clear s h → repeating s = some r →
     let counts := fun (i : Instr) (e : LaneId → Lane) (x : LaneId → Option LatchVal) =>
       ∃ t, exec i s = .next t ∧ CountsRepeat s t h r e x ∧ ∀ k, Acts s h k → (t.fl.lane k).regs = (e k).regs
     let l := fun k => s.fl.lane k
     counts (.nop h o) l (fun _ => none) ∧
     (∀ v : LaneId → VWord, ReadsV s h o.ty o.sa v →
       counts (.vmov h o) (fun k => if h.w then (l k).setV o.dst.vReg (v k) else l k) fun k => some (.vec (v k))) ∧
     ∀ b : LaneId → Word, ReadsG s h ob.sa b →
       let sum := fun k => BitVec.ofInt 64 ((b k).toInt + ob.imm.toInt)
       counts (.addi h ob) (fun k => if h.w then (l k).setG ob.dst.gReg (sum k) else l k) (fun k => some (.gen (sum k))) ∧
       (ob.bm = 0 → TakesP s h ob.dst → let eq := fun k => decide ((b k).toInt = ob.imm.toInt)
         counts (.cmpi h ob) (fun k => if h.w then (l k).setP ob.dst.pReg (eq k) else l k) fun k => some (.pred (eq k))))

/-- RJE, RJX and RJW (R138, R140, R141) and MOV into a rejoin mask (R139). -/
def Obligations.RejoinMasks : Prop :=
  ∀ (s : State) (h : Hdr) (o : OpsA) (j : BitVec 3), Clear s h → AllReady s →
    let m := s.fl.mask j
    let act := active s h
    (o.sa = .j j →
      (∃ t, exec (.rje h o) s = .next t ∧ GoesOn s t ∧
        if act = 0 then KeepsData s t ∧ ∀ i, t.fl.mask i = s.fl.mask i
        else MaskBecomes s t j ⟨m.enrolled ||| act, m.arrived⟩) ∧
      (∃ t, exec (.rjx h o) s = .next t ∧ GoesOn s t ∧
        if act = 0 then KeepsData s t ∧ ∀ i, t.fl.mask i = s.fl.mask i
        else MaskBecomes s t j ⟨m.enrolled &&& ~~~act, m.arrived⟩) ∧
      (repeating s = none → ∃ t, exec (.rjw h o) s = .next t ∧
        if act = 0 then GoesOn s t ∧ KeepsData s t ∧ ∀ i, t.fl.mask i = s.fl.mask i
        else
          MaskBecomes s t j ⟨m.enrolled ||| act, m.arrived ||| act⟩ ∧
          if m.enrolled ||| act = m.arrived ||| act then GoesOn s t
          else t.fl.run = none ∧ ∀ k, (issuing s).has k = true →
            if isActive s h k then (t.fl.lane k).st = .parked (.rejoin j) ∧ (t.fl.lane k).pc = (s.fl.lane k).pc
            else (t.fl.lane k).st = .ready ∧ (t.fl.lane k).pc = (s.fl.lane k).pc + 8)) ∧
    (∀ a, o.dst = .j j → h.w = true → ReadsG s h o.sa a → ∀ k, Acts s h k → (∀ i, Acts s h i → i ≤ k) →
      ∃ t, exec (.mov h o) s = .next t ∧ GoesOn s t ∧
        MaskBecomes s t j ⟨((a k).setWidth 32 &&& laneSetOf fun i => decide ((s.fl.lane i).st ≠ .exited)) ||| m.arrived,
          m.arrived⟩)

/-- RoundTo (R101 to R103): the code and flags of every rounded result, in every format, rounding and dither threshold; and the special
results of R102 and R109. The model's choice (log entry 8): a value that lies on the grid of R101 and is no value of the format rounds to
itself and then overflows or is invalid. -/
def Obligations.Rounding : Prop :=
  ∀ (ty : Ty) (p : Nat), ty ∈ [Ty.fp64, .fp32, .fp16, .bf16, .b8s, .b8sf, .b8u, .b8uf] → 1 ≤ p → p ≤ 7 →
    ∀ (neg : Bool) (rm : Rnd) (t : Nat) (sat : Bool), t < 64 →
      let f := fmtOf ty p
      (∀ (n d : Nat) (root : Bool), 0 < n → 0 < d → (root = true → neg = false) →
        RoundsTo f neg (n / d) root rm t sat (f.round (.real neg n d root) rm t sat)) ∧
      (∀ iv, f.round (.nan iv) rm t sat = (f.nan, if iv then flIV else 0)) ∧
      f.round (.zero neg) rm t sat = (f.encode neg 0, 0) ∧
      f.round .cancel rm t sat = (f.encode (rm == .rdn) 0, 0) ∧
      ∀ dz, f.round (.inf neg dz) rm t sat =
        if f.sgn = false ∧ neg = true then (if sat then (0, flIX) else (f.nan, flIV))
        else if f.inf then (f.encode neg f.infCode, if dz then flDZ else 0)
        else if sat then (f.encode neg f.top, flIX) else (f.nan, flIV)

/-- The exact results of R109 and R113: sums, differences, products, fused products, quotients and roots of finite values; the signs
of zeros, those of exact zero sums included; infinities; invalid operations; NaN operands, where ∞ × 0 is invalid in a fused product
also when the addend is a NaN. -/
def Obligations.ExactResults : Prop :=
  (∀ (n1 : Bool) (m1 : Nat) (e1 : Int) (n2 : Bool) (m2 : Nat) (e2 : Int) (n3 : Bool) (m3 : Nat) (e3 : Int),
    let a := Sys2Proof.Machine.Num.fin n1 m1 e1
    let b := Sys2Proof.Machine.Num.fin n2 m2 e2
    let c := Sys2Proof.Machine.Num.fin n3 m3 e3
    (addNum a b).Means (a.rat + b.rat) ∧ (subNum a b).Means (a.rat - b.rat) ∧ (mulNum a b).Means (a.rat * b.rat) ∧
    (fmaNum a b c).Means (a.rat * b.rat + c.rat) ∧
    (a.rat + b.rat = 0 → addNum a b = if m1 = 0 ∧ m2 = 0 ∧ n1 = n2 then .zero n1 else .cancel) ∧
    (a.rat * b.rat + c.rat = 0 →
      fmaNum a b c = if (m1 = 0 ∨ m2 = 0) ∧ m3 = 0 ∧ xor n1 n2 = n3 then .zero n3 else .cancel) ∧
    (a.rat * b.rat = 0 → mulNum a b = .zero (xor n1 n2)) ∧
    (b.rat ≠ 0 → (divNum a b).Means (a.rat / b.rat) ∧ (a.rat = 0 → divNum a b = .zero (xor n1 n2))) ∧
    (b.rat = 0 → divNum a b = if a.rat = 0 then .nan true else .inf (xor n1 n2) true) ∧
    (a.rat = 0 → sqrtNum a = .zero n1) ∧ (a.rat < 0 → sqrtNum a = .nan true) ∧
    (0 < a.rat → ∃ n d, sqrtNum a = .real false n d true ∧ 0 < n ∧ 0 < d ∧ a.rat = n / d) ∧
    (∀ k : Int, -8192 ≤ k → k ≤ 8192 → (scaleNum a k).Means (a.rat * (2 : ℚ) ^ k)) ∧
    ∀ n, addNum (.inf n) b = .inf n false ∧ addNum a (.inf n) = .inf n false ∧
      subNum (.inf n) b = .inf n false ∧ subNum a (.inf n) = .inf (!n) false ∧
      (b.rat ≠ 0 → mulNum (.inf n) b = .inf (xor n n2) false ∧ mulNum b (.inf n) = .inf (xor n n2) false) ∧
      (b.rat = 0 → mulNum (.inf n) b = .nan true ∧ mulNum b (.inf n) = .nan true) ∧
      divNum (.inf n) b = .inf (xor n n2) false ∧ divNum a (.inf n) = .zero (xor n1 n) ∧
      -- a fused product: its addend infinite, or its product
      fmaNum a b (.inf n) = .inf n false ∧
      (b.rat = 0 → ∀ z, fmaNum (.inf n) b z = .nan true ∧ fmaNum b (.inf n) z = .nan true) ∧
      (b.rat ≠ 0 → fmaNum (.inf n) b c = .inf (xor n n2) false ∧ fmaNum b (.inf n) c = .inf (xor n n2) false ∧
        ∀ m, let r := if xor n n2 = m then Val.inf m false else .nan true
          fmaNum (.inf n) b (.inf m) = r ∧ fmaNum b (.inf n) (.inf m) = r) ∧
      ∀ m, fmaNum (.inf n) (.inf m) c = .inf (xor n m) false) ∧
  (∀ n1 n2, addNum (.inf n1) (.inf n2) = (if n1 = n2 then .inf n1 false else .nan true) ∧
    subNum (.inf n1) (.inf n2) = (if n1 = n2 then .nan true else .inf n1 false) ∧
    mulNum (.inf n1) (.inf n2) = .inf (xor n1 n2) false ∧ divNum (.inf n1) (.inf n2) = .nan true ∧
    ∀ m, fmaNum (.inf n1) (.inf n2) (.inf m) = if xor n1 n2 = m then .inf m false else .nan true) ∧
  sqrtNum (.inf false) = .inf false false ∧ sqrtNum (.inf true) = .nan true ∧ (∀ sig, sqrtNum (.nan sig) = .nan sig) ∧
  ∀ (a b : Sys2Proof.Machine.Num),
    ((a.isNan = true ∨ b.isNan = true) →
      let r := Val.nan (a.isSnan || b.isSnan)
      addNum a b = r ∧ subNum a b = r ∧ mulNum a b = r ∧ divNum a b = r) ∧
    ∀ c : Sys2Proof.Machine.Num, (a.isNan = true ∨ b.isNan = true ∨ c.isNan = true) →
      let zeroInf := ∃ n m e, (a = .inf n ∧ b = .fin m 0 e) ∨ (a = .fin m 0 e ∧ b = .inf n)
      (zeroInf → fmaNum a b c = .nan true) ∧ (¬zeroInf → fmaNum a b c = .nan (a.isSnan || b.isSnan || c.isSnan))

/-- FADD, FSUB, FMUL, FFMA, FDIV, FSQRT (R113), FCVT (R119), ICVTF (R121), CVT8 (R122), CVT8X (R123) and FSCALE (R124): RoundTo of the exact
result, by the rounding of R104 and the dither threshold of R105, with FpRaise. The model's choice (log entry 8): every pair of ICVTF whose
value is too large overflows, where R121 names UINT64 to FP16 alone. -/
def Obligations.FpArithmetic : Prop :=
  ∀ (s : State) (h : Hdr) (o : OpsA) (a : LaneId → Word), Clear s h → ReadsG s h o.sa a →
    let f := fmtOf o.ty o.is.toNat
    let g := fmtOf (Ty.ofCode o.cc) o.is.toNat
    let rm := rndOf s o.rm
    let rnd := fun (k : LaneId) (v : Val) => f.round v rm (ditherAt s.fl.dphase k.val 0) false
    let A := fun k => f.decode (a k).toNat
    let C := fun k => g.decode (a k).toNat
    (o.adv = false → GivesFp (.fsqrt h o) s h o fun k => rnd k (sqrtNum (A k))) ∧
    GivesFp (.fcvt h o) s h o (fun k => rnd k (C k).val) ∧
    GivesFp (.icvtf h o) s h o (fun k => rnd k (intVal (readInt (Ty.ofCode o.cc) (a k).toNat))) ∧
    ∀ b, ReadsG s h o.sb b →
      let B := fun k => f.decode (b k).toNat
      let e := fun k => (b k).toNat % 256
      (o.adv = false →
        GivesFp (.fadd h o) s h o (fun k => rnd k (addNum (A k) (B k))) ∧
        GivesFp (.fsub h o) s h o (fun k => rnd k (subNum (A k) (B k))) ∧
        GivesFp (.fmul h o) s h o (fun k => rnd k (mulNum (A k) (B k))) ∧
        GivesFp (.fdiv h o) s h o (fun k => rnd k (divNum (A k) (B k))) ∧
        (∃ r, GivesFp (.fscale h o) s h o r ∧ ∀ k, Acts s h k →
          ((A k).rat = 0 → r k = rnd k (A k).val) ∧
          ((A k).rat ≠ 0 → RoundsTo f (A k).sign (|(A k).rat| * (2 : ℚ) ^ (b k).toInt) false rm
            (ditherAt s.fl.dphase k.val 0) false (r k))) ∧
        ∀ c, ReadsG s h o.sc c →
          GivesFp (.ffma h o) s h o fun k => rnd k (fmaNum (A k) (B k) (f.decode (c k).toNat))) ∧
      GivesFp (.cvt8 h o) s h o (fun k =>
        if o.sb = .g 0 then f.round (C k).val rm (ditherAt s.fl.dphase k.val 0) o.sat
        else if e k = 255 then (f.nan, flIV)
        else f.round (scaleNum (C k) (127 - e k)) rm (ditherAt s.fl.dphase k.val 0) o.sat) ∧
      GivesFp (.cvt8x h o) s h o fun k =>
        if (C k).isNan = true ∨ (o.sb ≠ .g 0 ∧ e k = 255) then (f.nan, flIV)
        else if o.sb = .g 0 then rnd k (C k).val else rnd k (scaleNum (C k) (e k - 127))

/-- FMIN and FMAX (R114), FABS and FNEG (R115), FCMP (R116), FCLASS (R117), FRND (R118), FCVTI (R120) and SCLX (R125). -/
def Obligations.FpOtherWords : Prop :=
  ∀ (s : State) (h : Hdr) (o : OpsA) (a : LaneId → Word), Clear s h → ReadsG s h o.sa a →
    let f := fmtOf o.ty o.is.toNat
    let g := fmtOf (Ty.ofCode o.cc) o.is.toNat
    let rm := rndOf s o.rm
    let t := fun (k : LaneId) => ditherAt s.fl.dphase k.val 0
    let A := fun k => f.decode (a k).toNat
    let C := fun k => g.decode (a k).toNat
    (o.ty ∈ [Ty.fp64, .fp32, .fp16, .bf16] →
      GivesFp (.fabs h o) s h o (fun k => ((a k).toNat % 2 ^ (f.w - 1), 0)) ∧
      GivesFp (.fneg h o) s h o (fun k => (((a k).toNat + 2 ^ (f.w - 1)) % 2 ^ f.w, 0)) ∧
      (∃ r, GivesFp (.frnd h o) s h o r ∧ ∀ k,
        ((∀ n m e, A k ≠ .fin n m e) → r k = f.round (A k).val rm (t k) false) ∧
        ∀ n m e, A k = .fin n m e → ∃ q, IntRounds rm n (t k) |(A k).rat| q ∧
          (f.decode (r k).1).rat = (if n then -1 else 1) * q ∧ (f.decode (r k).1).sign = n ∧
          (r k).2 = if |(A k).rat| = ⌊|(A k).rat|⌋₊ then 0 else flIX) ∧
      ∀ b, ReadsG s h o.sb b →
        let B := fun k => f.decode (b k).toNat
        let fl := fun k => if (A k).isSnan = true ∨ (B k).isSnan = true then flIV else 0
        (∃ (lo hi : LaneId → Nat), GivesFp (.fmin h o) s h o (fun k => (lo k, fl k)) ∧ GivesFp (.fmax h o) s h o (fun k => (hi k, fl k)) ∧
          ∀ k, IsMinMax f ((a k).toNat % 2 ^ f.w) ((b k).toNat % 2 ^ f.w) (lo k) (hi k)) ∧
        (TakesP s h o.dst → o.cc.toNat < 8 → ∃ (v : LaneId → Bool) (w : LaneId → BitVec 5),
          RaisesFp (.fcmp h o) s h false w
            (fun k => if h.w then ((s.fl.lane k).withF (w k)).setP o.dst.pReg (v k) else (s.fl.lane k).withF (w k))
            (fun k => some (.pred (v k))) ∧
          ∀ k, IsCompare o.cc (A k) (B k) (v k) (w k))) ∧
    (∃ (c : LaneId → Nat), GivesFp (.fclass h o) s h o (fun k => (2 ^ c k, 0)) ∧ ∀ k,
      (∀ sig, A k = .nan sig → c k = if sig then 8 else 9) ∧ (∀ n, A k = .inf n → c k = if n then 0 else 7) ∧
      ∀ n m e, A k = .fin n m e →
        if (A k).rat = 0 then c k = (if n then 3 else 4)
        else if |(A k).rat| < (2 : ℚ) ^ (1 - f.bias) then c k = (if n then 2 else 5)
        else c k = if n then 1 else 6) ∧
    (∃ (r : LaneId → Int × BitVec 5), GivesFp (.fcvti h o) s h o (fun k => ((BitVec.ofInt 64 (r k).1).toNat, (r k).2)) ∧ ∀ k,
      IsToInt o.ty (C k) rm (t k) (r k)) ∧
    (o.ty ∈ [Ty.b8s, .b8sf, .b8u, .b8uf] → 0 < o.is.toNat → ∃ r, GivesFp (.sclx h o) s h o r ∧ ∀ k,
      (∀ sig, C k = .nan sig → r k = (255, if sig then flIV else 0)) ∧ (∀ n, C k = .inf n → r k = (255, 0)) ∧
      ∀ n m e, C k = .fin n m e →
        let fits := fun (b : Nat) => |(C k).rat| ≤ f.at f.top * (2 : ℚ) ^ ((b : Int) - 127)
        (fits 254 → fits (r k).1 ∧ (r k).1 ≤ 254 ∧ (∀ b, b < (r k).1 → ¬fits b) ∧ (r k).2 = 0) ∧
        (¬fits 254 → r k = (254, flOF)))

/-- The binary8 codes (R97) and the ranges of their formats (R98), the canonical NaNs (R96) and the dither matrix (R105). -/
def Obligations.NumberFormats : Prop :=
  (∀ P c, 1 ≤ P → P ≤ 7 → c < 256 →
    let value := fun (m : Nat) (bias : Int) => (if m / 2 ^ (P - 1) = 0
      then (m % 2 ^ (P - 1) : Nat) * (2 : ℚ) ^ (1 - bias - (P - 1 : Nat))
      else (2 ^ (P - 1) + m % 2 ^ (P - 1) : Nat) * (2 : ℚ) ^ ((m / 2 ^ (P - 1) : Nat) - bias - (P - 1 : Nat)))
    (∀ ty ∈ [Ty.b8s, .b8sf],
      (c = 0x80 → (fmtOf ty P).decode c = .nan false) ∧
      (ty = .b8s → c % 128 = 0x7F → (fmtOf ty P).decode c = .inf (decide (128 ≤ c))) ∧
      (c ≠ 0x80 → ¬(ty = .b8s ∧ c % 128 = 0x7F) →
        ∃ m e, (fmtOf ty P).decode c = .fin (decide (128 ≤ c)) m e ∧ m * (2 : ℚ) ^ e = value (c % 128) (2 ^ (7 - P)))) ∧
    ∀ ty ∈ [Ty.b8u, .b8uf],
      (c = 0xFF → (fmtOf ty P).decode c = .nan false) ∧
      (ty = .b8u → c = 0xFE → (fmtOf ty P).decode c = .inf false) ∧
      (c ≠ 0xFF → ¬(ty = .b8u ∧ c = 0xFE) →
        ∃ m e, (fmtOf ty P).decode c = .fin false m e ∧ m * (2 : ℚ) ^ e = value c (2 ^ (8 - P)))) ∧
  (∀ r ∈ ([(1, 0, -63, 2 ^ 62, 2 ^ 63), (2, -32, -31, 2 ^ 31, 3 * 2 ^ 30), (3, -17, -15, 49152, 57344), (4, -10, -7, 224, 240),
      (5, -7, -3, 15, 31 / 2), (6, -6, -1, 31 / 8, 63 / 16), (7, -6, 0, 63 / 32, 127 / 64)] : List (Nat × Int × Int × ℚ × ℚ)),
    (2 ≤ r.1 → (fmtOf .b8s r.1).at 1 = 2 ^ r.2.1) ∧ (fmtOf .b8s r.1).at (2 ^ (r.1 - 1)) = 2 ^ r.2.2.1 ∧
    (fmtOf .b8s r.1).at (fmtOf .b8s r.1).top = r.2.2.2.1 ∧ (fmtOf .b8sf r.1).at (fmtOf .b8sf r.1).top = r.2.2.2.2) ∧
  (∀ r ∈ ([(1, 0, -127, 2 ^ 125, 2 ^ 126), (2, -64, -63, 3 * 2 ^ 61, 2 ^ 63), (3, -33, -31, 5 * 2 ^ 29, 3 * 2 ^ 30),
      (4, -18, -15, 53248, 57344), (5, -11, -7, 232, 240), (6, -8, -3, 61 / 4, 31 / 2), (7, -7, -1, 125 / 32, 63 / 16)] :
      List (Nat × Int × Int × ℚ × ℚ)),
    (2 ≤ r.1 → (fmtOf .b8u r.1).at 1 = 2 ^ r.2.1) ∧ (fmtOf .b8u r.1).at (2 ^ (r.1 - 1)) = 2 ^ r.2.2.1 ∧
    (fmtOf .b8u r.1).at (fmtOf .b8u r.1).top = r.2.2.2.1 ∧ (fmtOf .b8uf r.1).at (fmtOf .b8uf r.1).top = r.2.2.2.2) ∧
  (fmtOf .fp64 0).nan = 0x7FF8000000000000 ∧ (fmtOf .fp32 0).nan = 0x7FC00000 ∧ (fmtOf .fp16 0).nan = 0x7E00 ∧
  (fmtOf .bf16 0).nan = 0x7FC0 ∧
  ∀ (phase : BitVec 6) (r c : Nat), ditherAt phase r c =
    ((([[0, 32, 8, 40, 2, 34, 10, 42], [48, 16, 56, 24, 50, 18, 58, 26], [12, 44, 4, 36, 14, 46, 6, 38],
      [60, 28, 52, 20, 62, 30, 54, 22], [3, 35, 11, 43, 1, 33, 9, 41], [51, 19, 59, 27, 49, 17, 57, 25],
      [15, 47, 7, 39, 13, 45, 5, 37], [63, 31, 55, 23, 61, 29, 53, 21]] : List (List Nat)).getD (r % 8) []).getD (c % 8) 0 +
      phase.toNat) % 64

/-- VADD, VSUB, VMUL, VDIV, VSQRT, VMIN and VMAX (R144, R147, R150): each sub-element as the scalar words compute it, with the
dither of its own column; integers through FitW; the flags of a sub-element are its own. -/
def Obligations.VectorArithmetic : Prop :=
  (∀ (v : VWord) (w j : Nat), subWord v w j = (v.extractLsb' (w * j) w).toNat) ∧
  ∀ (s : State) (h : Hdr) (o : OpsA) (a : LaneId → VWord), Clear s h → ReadsV s h o.ty o.sa a →
    let f := fmtOf o.ty 0
    let w := o.ty.width
    let fp := fun (k : LaneId) (j : Nat) (v : Val) =>
      let x := f.round v (rndOf s o.rm) (ditherAt s.fl.dphase k.val j) false
      (⟨x.1, x.2, false⟩ : SubRes)
    let A := fun k j => subWord (a k) w j
    (o.ty ∈ [Ty.fp64, .fp32, .fp16, .bf16] →
      GivesSubs (.vsqrt h o) s h o.dst o.ty fun k j => fp k j (sqrtNum (f.decode (A k j)))) ∧
    ∀ b, ReadsV s h o.ty o.sb b →
      let B := fun k j => subWord (b k) w j
      let x := fun k j => f.decode (A k j)
      let y := fun k j => f.decode (B k j)
      let m := fun k j => readInt o.ty (A k j)
      let n := fun k j => readInt o.ty (B k j)
      (o.ty ∈ [Ty.fp64, .fp32, .fp16, .bf16] →
        GivesSubs (.vadd h o) s h o.dst o.ty (fun k j => fp k j (addNum (x k j) (y k j))) ∧
        GivesSubs (.vsub h o) s h o.dst o.ty (fun k j => fp k j (subNum (x k j) (y k j))) ∧
        GivesSubs (.vmul h o) s h o.dst o.ty (fun k j => fp k j (mulNum (x k j) (y k j))) ∧
        GivesSubs (.vdiv h o) s h o.dst o.ty (fun k j => fp k j (divNum (x k j) (y k j))) ∧
        ∃ lo hi : LaneId → Nat → Nat, (∀ k j, IsMinMax f (A k j) (B k j) (lo k j) (hi k j)) ∧
          let fl := fun k j => if (x k j).isSnan = true ∨ (y k j).isSnan = true then flIV else 0
          GivesSubs (.vmin h o) s h o.dst o.ty (fun k j => ⟨lo k j, fl k j, false⟩) ∧
          GivesSubs (.vmax h o) s h o.dst o.ty fun k j => ⟨hi k j, fl k j, false⟩) ∧
      (o.ty.isFp = false →
        GivesSubs (.vadd h o) s h o.dst o.ty (fun k j => fitTo o.ty o.sat (m k j + n k j)) ∧
        GivesSubs (.vsub h o) s h o.dst o.ty (fun k j => fitTo o.ty o.sat (m k j - n k j)) ∧
        GivesSubs (.vmul h o) s h o.dst o.ty (fun k j => fitTo o.ty o.sat (m k j * n k j)) ∧
        GivesSubs (.vmin h o) s h o.dst o.ty (fun k j => fitTo o.ty false (min (m k j) (n k j))) ∧
        GivesSubs (.vmax h o) s h o.dst o.ty fun k j => fitTo o.ty false (max (m k j) (n k j)))

/-- VFMA (R151): the products of a sub-element are added in ascending order, one rounding or clamp per step. -/
def Obligations.VectorFma : Prop :=
  ∀ (s : State) (h : Hdr) (o : OpsA) (a b c : LaneId → VWord), Clear s h →
    let t := Ty.ofCode o.cc
    let r := o.ty.width / t.width
    let f := fmtOf o.ty 0
    let g := fmtOf t o.is.toNat
    ReadsV s h t o.sa a → ReadsV s h t o.sb b → ReadsV s h o.ty o.sc c →
    ∃ acc : LaneId → Nat → Nat → SubRes, GivesSubs (.vfma h o) s h o.dst o.ty (fun k j => acc k j r) ∧ ∀ k j,
      acc k j 0 = ⟨subWord (c k) o.ty.width j, 0, false⟩ ∧ ∀ i, i < r →
        let x := subWord (a k) t.width (r * j + i)
        let y := subWord (b k) t.width (r * j + i)
        let z := acc k j i
        (o.ty.isFp = true →
          let u := f.round (fmaNum (g.decode x) (g.decode y) (f.decode z.bits)) (rndOf s o.rm) (ditherAt s.fl.dphase k.val j) false
          acc k j (i + 1) = ⟨u.1, z.fl ||| u.2, z.sat⟩) ∧
        (o.ty.isFp = false →
          let u := fitTo o.ty o.sat (readInt t x * readInt t y + readInt o.ty z.bits)
          acc k j (i + 1) = ⟨u.bits, 0, z.sat || u.sat⟩)

/-- VAND, VOR, VXOR, VSHL, VSHR and VSAR (R152), VCMP (R153) and VSEL (R154). -/
def Obligations.VectorLogic : Prop :=
  ∀ (s : State) (h : Hdr) (o : OpsA) (a b : LaneId → VWord), Clear s h → ReadsV s h o.ty o.sa a → ReadsV s h o.ty o.sb b →
    let w := o.ty.width
    let A := fun k j => subWord (a k) w j
    let B := fun k j => subWord (b k) w j
    let bits := fun (op : Bool → Bool → Bool) (r : LaneId → Nat → Nat) =>
      ∀ k j i, (r k j).testBit i = (decide (i < w) && op ((A k j).testBit i) ((B k j).testBit i))
    (∃ r, bits (fun x y => x && y) r ∧ GivesSubs (.vand h o) s h o.dst o.ty fun k j => ⟨r k j, 0, false⟩) ∧
    (∃ r, bits (fun x y => x || y) r ∧ GivesSubs (.vor h o) s h o.dst o.ty fun k j => ⟨r k j, 0, false⟩) ∧
    (∃ r, bits xor r ∧ GivesSubs (.vxor h o) s h o.dst o.ty fun k j => ⟨r k j, 0, false⟩) ∧
    GivesSubs (.vshl h o) s h o.dst o.ty (fun k j => ⟨A k j * 2 ^ B k j % 2 ^ w, 0, false⟩) ∧
    GivesSubs (.vshr h o) s h o.dst o.ty (fun k j => ⟨A k j / 2 ^ B k j, 0, false⟩) ∧
    GivesSubs (.vsar h o) s h o.dst o.ty (fun k j =>
      ⟨(BitVec.ofInt w ((BitVec.ofNat w (A k j)).toInt / 2 ^ B k j)).toNat, 0, false⟩) ∧
    (∃ v : LaneId → Nat → Bool, ∃ fl : LaneId → Nat → BitVec 5,
      GivesSubs (.vcmp h o) s h o.dst o.ty (fun k j => ⟨if v k j then 2 ^ w - 1 else 0, fl k j, false⟩) ∧ ∀ k j,
        (o.ty ∈ [Ty.fp64, .fp32, .fp16, .bf16] → o.cc.toNat < 8 →
          IsCompare o.cc ((fmtOf o.ty 0).decode (A k j)) ((fmtOf o.ty 0).decode (B k j)) (v k j) (fl k j)) ∧
        (o.ty.isFp = false →
          let x := readInt o.ty (A k j)
          let y := readInt o.ty (B k j)
          fl k j = 0 ∧ (o.cc = 0 → v k j = decide (x = y)) ∧ (o.cc = 1 → v k j = decide (x ≠ y)) ∧
          (o.cc = 2 → v k j = decide (x < y)) ∧ (o.cc = 3 → v k j = decide (x ≤ y)) ∧
          (o.cc = 4 → v k j = decide (x > y)) ∧ (o.cc = 5 → v k j = decide (x ≥ y)))) ∧
    ∀ c, ReadsV s h o.ty o.sc c →
      GivesV (.vsel h o) s h o.dst fun k =>
        BitVec.ofFnLE fun i : Fin 512 => if (c k).getLsbD i then (a k).getLsbD i else (b k).getLsbD i

/-- VCVT (R155) and VCVT8 (R156): a widening reads the part of A, and a narrowing writes the part of the destination and
keeps the rest. -/
def Obligations.VectorConversions : Prop :=
  ∀ (s : State) (h : Hdr) (o : OpsA) (a : LaneId → VWord), Clear s h →
    let t := o.ty
    let c := Ty.ofCode o.cc
    let n := min t.count c.count
    let widen := decide (t.count ≤ c.count)
    let src := fun (part j : Nat) => if widen then part * t.count + j else j - part * n
    let here := fun (part j : Nat) => widen || decide (part * n ≤ j ∧ j < part * n + n)
    let dith := fun (k : LaneId) (j : Nat) => ditherAt s.fl.dphase k.val j
    let fp := fun (k : LaneId) (j : Nat) (v : Val) (sat : Bool) =>
      let x := (fmtOf t o.is.toNat).round v (rndOf s o.rm) (dith k j) sat
      (⟨x.1, x.2, false⟩ : SubRes)
    ReadsV s h c o.sa a → (widen = false → ∀ k, Acts s h k → (s.fl.lane k).granules o.dst.asSrc = []) →
    (t.isB8 = false → c.isB8 = false → (widen = false → (o.is.toNat + 1) * n ≤ t.count) →
      let A := fun k j => subWord (a k) c.width (src o.is.toNat j)
      ∃ r, GivesSubsAs (.vcvt h o) s s h o.adv o.dst t.width t.count (here o.is.toNat) r ∧ ∀ k j,
        (t.isFp = true → r k j =
          fp k j (if c.isFp then ((fmtOf c 0).decode (A k j)).val else intVal (readInt c (A k j))) false) ∧
        (t.isFp = false → c.isFp = true → ∃ x, IsToInt t ((fmtOf c 0).decode (A k j)) (rndOf s o.rm) (dith k j) x ∧
          r k j = ⟨(BitVec.ofInt t.width x.1).toNat, x.2, false⟩) ∧
        (t.isFp = false → c.isFp = false → r k j = fitTo t o.sat (readInt c (A k j)))) ∧
    ∀ b part, ReadsG s h o.sb b → o.sc = .imm part → (widen = false → (part.toNat + 1) * n ≤ t.count) →
      let A := fun k j => (fmtOf c o.is.toNat).decode (subWord (a k) c.width (src part.toNat j))
      let e := fun (k : LaneId) (q : Nat) => (b k).toNat / 2 ^ (8 * (q / 32)) % 256
      (c.isFp = true → c.isB8 = false → t.isB8 = true →
        GivesSubsAs (.vcvt8 h o) s s h o.adv o.dst t.width t.count (here part.toNat) fun k j =>
          if o.sb = .g 0 then fp k j (A k j).val o.sat
          else if e k j = 255 then ⟨(fmtOf t o.is.toNat).nan, flIV, false⟩
          else fp k j (scaleNum (A k j) (127 - e k j)) o.sat) ∧
      (c.isB8 = true → t.isFp = true → t.isB8 = false →
        GivesSubsAs (.vcvt8 h o) s s h o.adv o.dst t.width t.count (here part.toNat) fun k j =>
          let x := e k (src part.toNat j)
          if (A k j).isNan = true ∨ (o.sb ≠ .g 0 ∧ x = 255) then ⟨(fmtOf t o.is.toNat).nan, flIV, false⟩
          else if o.sb = .g 0 then fp k j (A k j).val false else fp k j (scaleNum (A k j) (x - 127)) false)

/-- VSPLAT, VEXT, VINS and VMOV (R157), and VTBL (R166). -/
def Obligations.VectorMoves : Prop :=
  ∀ (s : State) (h : Hdr) (o : OpsA), Clear s h →
    let w := o.ty.width
    let n := o.ty.count
    (∀ a, ReadsG s h o.sa a → GivesV (.vsplat h o) s h o.dst fun k => vecOf w n fun _ => (a k).toNat % 2 ^ w) ∧
    (∀ a, ReadsV s h o.ty o.sa a → GivesV (.vmov h o) s h o.dst a) ∧
    (∀ a b, ReadsV s h o.ty o.sa a → ReadsG s h o.sb b → GivesG (.vext h o) s h o.dst fun k =>
      let x := BitVec.ofNat w (subWord (a k) w (b k).toNat)
      if n ≤ (b k).toNat then 0 else if Ty.signedInt o.ty then x.signExtend 64 else x.setWidth 64) ∧
    (∀ a b, ReadsG s h o.sa a → ReadsG s h o.sb b → (∀ k, Acts s h k → (s.fl.lane k).granules o.dst.asSrc = []) →
      GivesV (.vins h o) s h o.dst fun k =>
        vecOf w n fun j => if j = (b k).toNat then (a k).toNat % 2 ^ w else subWord ((s.fl.lane k).getV o.dst.vReg) w j) ∧
    ∀ (q : OpsT) (a : LaneId → VWord) (i : BitVec 5), ReadsV s h .uint8 q.sa a → q.sb = .v i → i.toNat + 2 ^ q.nt.toNat ≤ 32 →
      (∀ k, Acts s h k → (s.fl.lane k).faulty = []) →
      let at_ := fun k x => if x < 64 * 2 ^ q.nt.toNat
        then subWord ((s.fl.lane k).getV (i + BitVec.ofNat 5 (x / 64))) 8 (x % 64) else q.fill.toNat
      (q.form = false → GivesV (.vtbl h q) s h q.dst fun k => vecOf 8 64 fun j => at_ k (subWord (a k) 8 j)) ∧
      (q.form = true → GivesV (.vtbl h q) s h q.dst fun k => vecOf 8 64 fun j =>
        if (j / 32 = 1) ↔ q.half = true then at_ k (subWord (a k) 16 (j % 32))
        else subWord ((s.fl.lane k).getV q.dst.vReg) 8 j)

/-- VSHFL and GSHFL (R160), BALLOT (R161), VBFLY (R165) and VBCAST (R167): every lane of Active reads first, and a lane outside
Active supplies nothing (R158). -/
def Obligations.CrossLaneMoves : Prop :=
  ∀ (s : State) (h : Hdr) (o : OpsA), Clear s h →
    let lane := fun (k : LaneId) (b : Word) =>
      if o.is = 0 then b.toNat
      else if o.is = 1 then ((k.val - b.toNat : Int) % 32).toNat
      else if o.is = 2 then (k.val + b.toNat) % 32
      else if o.is = 3 then k.val ^^^ b.toNat
      else (k.val + b.toNat % 256 * 32 / 256) % 32
    let mate := fun (k : LaneId) => k.val ^^^ 2 ^ o.is.toNat
    let low := fun (k : LaneId) => !k.val.testBit o.is.toNat
    (∀ a b, ReadsG s h o.sb b → o.is.toNat ≤ 4 →
      (ReadsV s h .uint64 o.sa a → ∃ v, CrossV (.vshfl h o) s h o.dst v ∧ ∀ k, TakenFrom s h a k (lane k (b k)) (v k))) ∧
    (∀ a b, ReadsG s h o.sb b → ReadsG s h o.sa a →
      (o.is.toNat ≤ 4 → ∃ v, CrossG (.gshfl h o) s h o.dst v ∧ ∀ k, TakenFrom s h a k (lane k (b k)) (v k)) ∧
      CrossG (.ballot h o) s h o.dst fun k =>
        BitVec.ofFnLE fun i : Fin 64 => if l : i.val < 32 then isActive s h ⟨i, l⟩ && (a ⟨i, l⟩).getLsbD ((b k).toNat % 64) else false) ∧
    (∀ p, ReadsP s h o.sa p → o.sb = .g 0 →
      CrossG (.ballot h o) s h o.dst fun _ =>
        BitVec.ofFnLE fun i : Fin 64 => if l : i.val < 32 then isActive s h ⟨i, l⟩ && p ⟨i, l⟩ else false) ∧
    (∀ m sh, ReadsG s h o.sb m → ReadsG s h o.sc sh → o.is.toNat ≤ 4 →
      (∀ a g, o.dst = .g g → ReadsG s h o.sa a →
        ∃ v, CrossG (.vbfly h o) s h o.dst v ∧ ∀ k : LaneId,
          (∀ j : LaneId, j.val = mate k → Acts s h j →
            IsFly 64 (low k) (a k).toNat (a j).toNat (m k).toNat (sh k).toNat (v k).toNat) ∧
          ((∀ j : LaneId, j.val = mate k → ¬Acts s h j) → v k = a k)) ∧
      ∀ a g, o.dst = .v g → ReadsV s h o.ty o.sa a →
        ∃ v, CrossV (.vbfly h o) s h o.dst v ∧ ∀ k : LaneId,
          (∀ j : LaneId, j.val = mate k → Acts s h j → ∀ i, i < o.ty.count →
            IsFly o.ty.width (low k) (subWord (a k) o.ty.width i) (subWord (a j) o.ty.width i) (m k).toNat (sh k).toNat
              (subWord (v k) o.ty.width i)) ∧
          ((∀ j : LaneId, j.val = mate k → ¬Acts s h j) → v k = a k)) ∧
    ∀ a k b, ReadsV s h o.ty o.sa a → Acts s h k → (∀ j, Acts s h j → k ≤ j) → srcG (s.fl.lane k) o.sb = .ok b →
      ∃ v, CrossV (.vbcast h o) s h o.dst v ∧ ∀ j, TakenFrom s h a j b.toNat (v j)

/-- VRED (R162, R163) and VREDS (R164): the fixed tree over the lanes of Active, without the absent ones; VRED raises as one
instruction, VREDS by sub-element; neither dithers. -/
def Obligations.Reductions : Prop :=
  ∀ (s : State) (h : Hdr) (o : OpsA) (a : LaneId → VWord), Clear s h → ReadsV s h o.ty o.sa a → o.cc.toNat < 6 →
    let w := o.ty.width
    let en := s.fl.fpctl.extractLsb' 3 5
    let rm := rndOf s o.rm
    let f := fmtOf o.ty 0
    ∃ op : Nat → Nat → SubRes,
      (∀ x y, (o.ty ∈ [Ty.fp64, .fp32, .fp16, .bf16] →
          let fl := if (f.decode x).isSnan = true ∨ (f.decode y).isSnan = true then flIV else 0
          (o.cc = 0 → let z := f.round (addNum (f.decode x) (f.decode y)) rm 0 false
            op x y = ⟨z.1, z.2, false⟩) ∧
          (x < 2 ^ w → y < 2 ^ w → ∃ lo hi, IsMinMax f x y lo hi ∧ (o.cc = 1 → op x y = ⟨lo, fl, false⟩) ∧
            (o.cc = 2 → op x y = ⟨hi, fl, false⟩))) ∧
        (o.ty.isFp = false → x < 2 ^ w → y < 2 ^ w →
          (o.cc = 0 → op x y = fitTo o.ty o.sat (readInt o.ty x + readInt o.ty y)) ∧
          (o.cc = 1 → op x y = fitTo o.ty false (min (readInt o.ty x) (readInt o.ty y))) ∧
          (o.cc = 2 → op x y = fitTo o.ty false (max (readInt o.ty x) (readInt o.ty y))) ∧
          (o.cc = 3 → op x y = ⟨x &&& y, 0, false⟩) ∧ (o.cc = 4 → op x y = ⟨x ||| y, 0, false⟩) ∧
          (o.cc = 5 → op x y = ⟨x ^^^ y, 0, false⟩))) ∧
      let x := fun (j l : Nat) => if g : l < 32 then
          if isActive s h ⟨l, g⟩ then some (⟨subWord (a ⟨l, g⟩) w j, 0, false⟩ : SubRes) else none
        else none
      let r := fun j => (treeLevel op (x j) 5 0).getD ⟨0, 0, false⟩
      let n := o.ty.count
      let fl := allFlags n (fun _ => true) fun j => (r j).fl
      let keep := fun k => s.fl.lane k
      ((o.ty.isFp = true → rm ≠ .dith) →
        (fl &&& en = 0 →
          let flagged := fun k => ((s.fl.lane k).withF fl).withI (if (List.range n).any fun j => (r j).sat then 4 else 0)
          let v := vecOf w n fun j => (r j).bits
          CompletesAs (.vred h o) s s.crossed h false (fun k => if h.w then (flagged k).setV o.dst.vReg v else flagged k)
            fun _ => some (.vec v)) ∧
        (fl &&& en ≠ 0 → MayTrap s → (∃ k, Acts s h k) → ∀ b, b < 5 → (fl &&& en).getLsbD b = true →
          (∀ c, c < b → (fl &&& en).getLsbD c = false) →
          TrapsAs (.vred h o) s h (Acts s h) (flagCause b) 0
            (fun _ => BitVec.ofFnLE fun j : Fin 64 => decide (j.val < n) && ((r j.val).fl &&& en != 0))
            (fun _ => (fl &&& en).setWidth 64) keep (fun k => some (.vec ((s.fl.lane k).getV o.dst.vReg))) keep fun _ => none) ∧
        (o.is.toNat ≤ 4 → ∃ q : LaneId → Nat → SubRes,
          GivesSubsAs (.vreds h o) s s.crossed h false o.dst w n (fun _ => true) q ∧ ∀ k i,
            let mine := subWord (a k) w i
            (∀ j : LaneId, j.val = k.val + 2 ^ o.is.toNat → k.val % 2 ^ (o.is.toNat + 1) = 0 → Acts s h j →
              q k i = op mine (subWord (a j) w i)) ∧
            ((k.val % 2 ^ (o.is.toNat + 1) ≠ 0 ∨ ∀ j : LaneId, j.val = k.val + 2 ^ o.is.toNat → ¬Acts s h j) →
              q k i = ⟨mine, 0, false⟩))) ∧
      (o.ty.isFp = true → rm = .dith → MayTrap s → (∃ k, Acts s h k) → ∀ i ∈ [Instr.vred h o, .vreds h o],
        Traps i s h (Acts s h) .illegal 0 (fun _ => 0) keep fun _ => none)

/-- The checks of an access to the hall, the gallery or the mezzanine, in their order: bounds, alignment, owner tag, and the
wait for an absent line (R15, R194, R195, R198, R211); and the elements of an access with their addresses (R93, R170, R212,
R213). -/
def Obligations.ChipAccesses : Prop :=
  (∀ (s : State) (f : Flight) (a : Acc) (store : Bool) (e : Elem), a.sp ∈ [MSpace.h, .g, .z] →
    let bound := if a.sp = .h then 0x60000 else if a.sp = .g then 0x600000 else if f.priv then 0xA000000 else 0x8000000
    let base := if a.sp = .h then hallKey f.id.coreNo 0 else if a.sp = .g then galleryKey f.id.clusterNo 0 else mezzKey f.id.die 0
    let line := lineOf (base + e.addr.toNat)
    let n := e.addr.toNat
    (bound < n + e.len → probe s f a store e = .trap .bounds (BitVec.ofNat 64 (max n bound))) ∧
    (n + e.len ≤ bound → n % e.len ≠ 0 → probe s f a store e = .trap .align e.addr) ∧
    (n + e.len ≤ bound → n % e.len = 0 →
      (∀ c, (lineSt s line).owner = some c → c ≠ f.ctx → f.priv = false →
        probe s f a store e = .trap .owner (BitVec.ofNat 64 (n / 64 * 64))) ∧
      ((f.priv = true ∨ (lineSt s line).owner = none ∨ (lineSt s line).owner = some f.ctx) →
        probe s f a store e =
          if (a.kind = .load ∨ a.kind = .gather) ∧ store = false ∧ a.sp ≠ .z ∧ (lineSt s line).p = false then .absent line
          else .at_ (base + n)))) ∧
  ∀ a : Acc, a.sp ∈ [MSpace.h, .g, .z] →
    (a.kind ≠ .gather → a.elems = [⟨0, a.size, a.addr + BitVec.ofInt 64 a.disp, false⟩]) ∧
    (a.kind = .gather → a.elems = (List.range (64 / a.size)).map fun j =>
      ⟨j * a.size, a.size, a.addr + BitVec.ofNat 64 (subWord a.idx (8 * a.size) j * a.size), false⟩)

/-- The checks of an access to a main-memory buffer, in their order (R202): bounds, alignment, owner, space, rights, then the
translation, whose page may be unavailable. The translation (R204, R205): an entry is that of memory or a copy of it (R203); what each
entry of the walk gives, and what its leaf does, the lowest fault kind that applies; the byte of the page (R206). PlaceLine keeps the
group of 8192 lines, and no two lines of a frame share a place. -/
def Obligations.BufferAccesses : Prop :=
  (∀ (s : State) (c : BitVec 6) (r : Right) (e : Elem) (aligned : Bool),
    let b := bufEntry s c (e.addr.extractLsb' 52 12).toNat
    let off := (e.addr.extractLsb' 0 52).toNat
    let got := probeMain s c r e aligned
    lineOf (bufKey s c (e.addr.extractLsb' 52 12).toNat) ∉ s.poison → e.out = false →
      (b.v = false → got = .trap .bounds e.addr) ∧
      (b.v = true → b.len < off + e.len →
        got = .trap .bounds (BitVec.ofNat 64 (e.addr.toNat / 2 ^ 52 * 2 ^ 52 + max off b.len % 2 ^ 52))) ∧
      (b.v = true → off + e.len ≤ b.len →
        (aligned = false → got = .trap .align e.addr) ∧
        (aligned = true → b.owner ≠ c → got = .trap .owner e.addr) ∧
        (aligned = true → b.owner = c → b.rem = true → got = .trap .space e.addr) ∧
        (aligned = true → b.owner = c → b.rem = false →
          ((r = .rd ∧ b.rd = false ∨ r = .wr ∧ b.wr = false ∨ r = .at_ ∧ b.at_ = false) → got = .trap .rights e.addr) ∧
          ((r = .rd → b.rd = true) → (r = .wr → b.wr = true) → (r = .at_ → b.at_ = true) →
            (∀ k, translate s c b (b.vbase + off) = .fail k → got = .fault k (BitVec.ofNat 48 (b.vbase + off))) ∧
            ∀ key ua tier leaf, translate s c b (b.vbase + off) = .page key ua tier leaf →
              got = if ua then .trap .memPathLost e.addr else .at_ key)))) ∧
  (∀ (s : State) (c : BitVec 6) (a : Nat), pteAt s c a = readWord s (mainKey a) ∨
    ∃ w, (ctxOf s c).pteCache.lookup a = some w ∧ pteAt s c a = w) ∧
  (∀ (s : State) (c : BitVec 6) (b : BufEntry) (va L : Nat) (at_ : Nat → Nat) (e : Nat → Word), 1 ≤ L → L ≤ 4 →
    WalkTo s c va L at_ e →
    let x := e L
    let got := translate s c b va
    (lineCapacity (retirements s) ≤ at_ L / 64 → got = .fail 6) ∧
    (at_ L / 64 < lineCapacity (retirements s) → lineOf (at_ L) ∈ s.poison → got = .fail 9) ∧
    (at_ L / 64 < lineCapacity (retirements s) → lineOf (at_ L) ∉ s.poison →
      (x.getLsbD 63 = false → got = .fail 1) ∧
      (x.getLsbD 63 = true → x.getLsbD 62 = false → (L = 4 → got = .fail 1) ∧
        (L < 4 → (¬pteClean x ∨ pteAddr x % (8 * walkEntries (L + 1)) ≠ 0) → got = .fail 2)) ∧
      (x.getLsbD 63 = true → x.getLsbD 62 = true → L = 1 → (¬pteClean x → got = .fail 2) ∧ (pteClean x → got = .fail 8)) ∧
      (x.getLsbD 63 = true → x.getLsbD 62 = true → L ≠ 1 →
        let F := pteFrame x + va / 65536 % leafFrames L
        let cl := (x.extractLsb' 59 2).toNat
        (∀ n, LeafKind s b L x F n → (∀ m, m < n → ¬LeafKind s b L x F m) → got = .fail n) ∧
        ((∀ n, ¬LeafKind s b L x F n) → got =
          if x.getLsbD 61 then .page (cellarKey cl (65536 * F + va % 65536)) (x.getLsbD 58 || portLost s cl) (some cl) (at_ L)
          else .page (64 * placeLine F (va % 65536) b.il + va % 64) (x.getLsbD 58) none (at_ L))))) ∧
  ∀ (F o : Nat) (il : BitVec 3),
    let y := 1024 * F + o / 64
    let u := if il = 0 then 4 else if il = 1 then 64 else 1024
    placeLine F o il / 8192 = y / 8192 ∧ placeLine F o il % 8 = y % 8192 / u % 8 ∧ frameLine (placeLine F o il) il = y

/-- LDH (R93), LDG, LDZ and LDM (R210, R211), VLDH (R169), VLDG, VLDZ and VLDM (R212), VLDHX (R170) and VLDMX (R213): a hall load
completes with the value read, and one of another space parks; then LANE_RESUME completes it with the value that it reads. LDH, VLDH
and VLDHX wait for an absent line (R198), and a load whose checks fail traps in its lane, the lanes whose lines are there completing
(R15, R31, R93), shown on LDH; of a gather the sub-elements that passed are written, and a poisoned line traps (R213, R215). A load that
fails translation parks with its fault records; the answers replay it, or end it with PAGE_FAULT (R207, R209); and a lane whose park
has failed traps when it next issues (R30). Which element a refusal blames is the model's reading (log entry 16). -/
def Obligations.LoadsAndFailures : Prop :=
  ((∀ (s : State) (h : Hdr) (o : OpsM) (a : LaneId → Word), Clear s h → scopeCheck s s.fl o.scope = .ok () → ReadsG s h o.sa a →
     (∀ p ∈ [(Instr.ldh h o, MSpace.h), (.ldg h o, .g), (.ldz h o, .z), (.ldm h o, .m)],
       LoadsAs p.1 s h o (fun k => accOf p.2 h o false (a k)) ∧ FailsAs p.1 s h o fun k => accOf p.2 h o false (a k)) ∧
     (∀ p ∈ [(Instr.vldh h o, MSpace.h), (.vldg h o, .g), (.vldz h o, .z), (.vldm h o, .m)],
       LoadsAs p.1 s h o (fun k => accOf p.2 h o true (a k)) ∧ FailsAs p.1 s h o fun k => accOf p.2 h o true (a k)) ∧
     MissesAs (.ldm h o) s h o 0 (fun k => accOf .m h o false (a k)) ∧ MissesAs (.vldm h o) s h o 0 (fun k => accOf .m h o true (a k)) ∧
     ∀ idx, o.sz.toNat < 4 → ReadsV s h (idxType o.sz) o.sb idx →
       LoadsAs (.vldhx h o) s h o (fun k => gatherOf .h h o (a k) (idx k)) ∧
       FailsAs (.vldhx h o) s h o (fun k => gatherOf .h h o (a k) (idx k)) ∧
       LoadsAs (.vldmx h o) s h o (fun k => gatherOf .m h o (a k) (idx k)) ∧
       FailsAs (.vldmx h o) s h o (fun k => gatherOf .m h o (a k) (idx k)) ∧
       MissesAs (.vldmx h o) s h o 0 fun k => gatherOf .m h o (a k) (idx k)) ∧
   ∀ (s : State) (id : FlightId) (f : Flight) (k : LaneId) (a : Acc) (key : Elem → Nat), flightOf s id = some f →
     ((f.lane k).st = .parked (.load a) ∨ (f.lane k).st = .parked (.line a) ∨
       ∃ ws, (f.lane k).st = .parked (.fault a ws) ∧ ∀ w ∈ ws, w.answer = some true) →
     (a.kind = .load ∨ a.kind = .gather) →
     ((a.sgn = true → a.size ∈ [1, 2, 4, 8]) → Reaches s f a false key →
       ∃ x, LoadedFrom s f k a key x ∧ WakesWith s id k f ((f.lane k).taken a x)) ∧
     (∀ P, Misses s f a false P key → (∀ e ∈ a.elems, ∀ x, P e = some x → x.1 ≠ 9) →
       ∃ u g ws, exec (.laneResume id k) s = .next u ∧ flightOf u id = some g ∧ WaitsFor a P ws ∧
         u.faultWait = s.faultWait ++ missRecords s f k 0 a P ∧ (∀ b, readByte u b = readByte s b) ∧
         g.lane k = { f.lane k with st := .parked (.fault a ws) } ∧ ∀ j, j ≠ k → g.lane j = f.lane j) ∧
     ∀ F t, (∀ cl, portLost s cl = false) → Fails s f a false F key →
       (∀ e ∈ a.elems, ∀ v, F e = some (.memPoison, v) → ∃ y, probe s f a false e = .at_ y) → TrapFor a false F t →
       ∃ x, PartlyFrom s f k a F key x ∧ FailsWith s id k f ((f.lane k).partly a x) t) ∧
  (∀ (s : State) (id : FlightId) (f : Flight) (k : LaneId) (a : Acc) (ws : List Wait), flightOf s id = some f →
     (f.lane k).st = .parked (.fault a ws) → a.sp = .m →
     ((∃ w ∈ ws, w.answer = none) → exec (.laneResume id k) s = .next s) ∧
     ((∀ w ∈ ws, w.answer ≠ none) → (∃ w ∈ ws, w.answer = some false) → ∀ F key e c v, RefusedAt s f a ws F key → e ∈ a.elems →
       F e = some (c, v) →
       (if a.kind = .gather then ∀ y ∈ a.elems, F y ≠ none → e.pos ≤ y.pos
        else c = .pageFault ∧ v = e.addr ∧ ∀ y ∈ a.elems, ∀ z, F y = some (.pageFault, z) → e.pos ≤ y.pos) →
       ∃ x, PartlyFrom s f k a F key x ∧
         FailsWith s id k f ((f.lane k).partly a x) ⟨5, 0, c, v, if a.kind = .gather then failBits a F else 1⟩)) ∧
  (∀ (s : State) (h : Hdr) (o : OpsM) (T : LaneId → LTrap) (k0 : LaneId), s.fl.run ≠ none → MayTrap s →
     scopeCheck s s.fl o.scope = .ok () → (o.ord.getLsbD 1 = true → ∀ k, Acts s h k → Settled s k) →
     (∀ k, Acts s h k → (T k).step = 5 ∧ (T k).rank = 0 ∧ ∃ w, (s.fl.lane k).fail = some (T k, w)) → Acts s h k0 →
     (∀ k, Acts s h k → k0 ≤ k) →
     ∀ i ∈ [Instr.ldh h o, .vldh h o, .vldhx h o, .ldg h o, .vldg h o, .ldz h o, .vldz h o, .ldm h o, .vldm h o, .vldmx h o,
       .ldx h o, .vldx h o, .aadd h o, .amin h o, .amax h o, .aand h o, .aor h o, .axor h o, .axchg h o, .acas h o, .afadd h o,
       .ainc h o],
       ∃ t, exec i s = .next t ∧ (∀ k, Acts s h k → (t.fl.lane k).fail = none) ∧
         AfterTrap s t h (Acts s h) (T k0).cause (T k0).tval (fun k => (T k).temask) (fun k => (T k).tval) (fun k => s.fl.lane k)
           (fun k => (s.fl.lane k).part) (fun k => s.fl.lane k) fun _ => none) ∧
  (∀ (s : State) (h : Hdr) (o : OpsM) (a : LaneId → Word), Clear s h → scopeCheck s s.fl o.scope = .ok () → ReadsG s h o.sa a →
     let acc := fun k => accOf .h h o false (a k)
     let s1 := noteScope s s.fl o.scope
     ((∀ k, Acts s h k → ∃ line, probes s1 s.fl (acc k) false = (acc k).elems.map fun e => (e, .absent line)) →
       Parks (.ldh h o) s s1 h fun k => .line (acc k)) ∧
     ∀ (T : LaneId → Prop) (key : LaneId → Elem → Nat) (c : LaneId → Cause) (tval : LaneId → Word) (k0 : LaneId), MayTrap s →
       (∀ k, T k → Acts s h k ∧ probes s1 s.fl (acc k) false = (acc k).elems.map fun e => (e, .trap (c k) (tval k))) →
       (∀ k, Acts s h k → ¬T k → Reaches s1 s.fl (acc k) false (key k)) → T k0 → (∀ k, T k → k0 ≤ k) →
       ∃ x : LaneId → Nat, (∀ k, Acts s h k → ¬T k → LoadedFrom s s.fl k (acc k) (key k) (x k)) ∧
         Traps (.ldh h o) s h T (c k0) 0 tval (fun k => ((s.fl.lane k).taken (acc k) (x k)).1)
           fun k => ((s.fl.lane k).taken (acc k) (x k)).2)

/-- STH (R93), STG, STZ and STM (R211), VSTH (R169), VSTG, VSTZ and VSTM (R212), VSTHX (R170) and VSTMX (R213). A store that fails its
checks traps, a scatter storing the sub-elements that passed (R213); one that fails translation is held (R208); one to a poisoned
line clears the poison where it writes all 64 bytes, and is dropped and reported otherwise (R215). A held store whose translation
is answered is performed, or dropped and reported with PAGE_FAULT (R208), by the next step once nothing is due before it. -/
def Obligations.Stores : Prop :=
  (∀ (s : State) (h : Hdr) (o : OpsM) (a : LaneId → Word), Clear s h → scopeCheck s s.fl o.scope = .ok () → ReadsG s h o.sa a →
    let stores := fun i acc x => StoresAs i s h o acc x ∧ StoreFailsAs i s h o acc x
    (∀ d, ReadsG s h o.dst.asSrc d →
      let x := fun k => (d k).toNat
      (∀ p ∈ [(Instr.sth h o, MSpace.h), (.stg h o, .g), (.stz h o, .z), (.stm h o, .m)],
        stores p.1 (fun k => accOf p.2 h o false (a k)) x) ∧
      let m := fun k => accOf .m h o false (a k)
      HoldsAs (.stm h o) s h o m x ∧ PoisonedAs (.stm h o) s h o m x) ∧
    ∀ d : LaneId → VWord,
      let x := fun k => (d k).toNat
      (ReadsV s h .uint64 o.dst.asSrc d →
        (∀ p ∈ [(Instr.vsth h o, MSpace.h), (.vstg h o, .g), (.vstz h o, .z), (.vstm h o, .m)],
          stores p.1 (fun k => accOf p.2 h o true (a k)) x) ∧
        let m := fun k => accOf .m h o true (a k)
        HoldsAs (.vstm h o) s h o m x ∧ PoisonedAs (.vstm h o) s h o m x) ∧
      ∀ idx, o.sz.toNat < 4 → ReadsV s h (idxType o.sz) o.sb idx → ReadsV s h (idxType o.sz) o.dst.asSrc d →
        stores (.vsthx h o) (fun k => gatherOf .h h o (a k) (idx k)) x ∧ stores (.vstmx h o) (fun k => gatherOf .m h o (a k) (idx k)) x ∧
        HoldsAs (.vstmx h o) s h o (fun k => gatherOf .m h o (a k) (idx k)) x) ∧
  (∀ s t : State, s.power.shutDown = false → s.dues.all (fun d => !d.ready) = true → nextHeld s = some t → step s = .next t) ∧
  ∀ (s : State) (x : Flight) (pre post : List HeldStore) (y : HeldStore), flightOf s x.id = some x → x.live = true →
    x.held = pre ++ y :: post → (∀ z ∈ pre, ∃ w ∈ z.waits, w.answer = none) → y.waits ≠ [] → (∀ w ∈ y.waits, w.answer ≠ none) →
    let s1 := setFlight s { x with held := pre ++ post }
    let shape := fun (z : HeldStore) => (z.lane, z.waits, z.parts.map fun p => (p.h, p.bytes))
    let left := fun (t : State) => ∃ g, flightOf t x.id = some g ∧ g.held.map shape = (pre ++ post).map shape
    let dropped := fun (v t : State) (c : Cause) (hd : Word) =>
      t = updFlight (errReport v x.ctx c.code { src := 0, flight := x.id, lane := y.lane.val, peer := 0, tag := 0 } hd 0) x.id
        fun z => { z with dropped := z.dropped ||| 1#32 <<< y.lane.val }
    ((∀ w ∈ y.waits, w.answer = some false) → ∀ p rest, y.parts = p :: rest →
      ∃ t, settleHeld s x = some t ∧ dropped s1 t .pageFault p.h) ∧
    ((∀ w ∈ y.waits, w.answer = some true) → ∀ p, y.parts = [p] →
      let got := probeMain s x.ctx .wr ⟨0, p.bytes.length, p.h, false⟩ true
      (∀ key, got = .at_ key → lineOf key ∉ s.poison → ∃ t, settleHeld s x = some t ∧ left t ∧
        (∀ i, i < p.bytes.length → if (∃ r ∈ p.later, r.1 ≤ key + i ∧ key + i < r.1 + r.2)
          then readByte t (key + i) = readByte s (key + i) else p.bytes[i]? = some (readByte t (key + i))) ∧
        ∀ b, (b < key ∨ key + p.bytes.length ≤ b) → readByte t b = readByte s b) ∧
      (∀ n va, got = .fault n va → n ≠ 9 → ∃ t g, settleHeld s x = some t ∧ flightOf t x.id = some g ∧
        t.faultWait = s.faultWait ++ [faultOf s x y.lane 1 n p.h va] ∧ (∀ b, readByte t b = readByte s b) ∧
        g.held = pre ++ post ++ [{ y with waits := [⟨va.extractLsb' 16 32, none⟩] }]) ∧
      ∀ c v, got = .trap c v → c ≠ .memPoison → (∀ cl, portLost s cl = false) →
        ∃ t u, settleHeld s x = some t ∧ u = { s1 with contexts := u.contexts, fresh := u.fresh } ∧ dropped u t c p.h)

/-- AADD, AMIN, AMAX, AAND, AOR, AXOR, AXCHG, ACAS, AFADD and AINC (R233, R234, R236): indivisible, in ascending lane order; the
lane goes on with the old value, zero-extended. One whose checks fail traps before any effect (R235), ATOMIC_PATH where the path to
an expander's page does not carry its class (R237); one that fails translation parks, and is performed once it is resolved (R207);
one of space X is sent to the peer (R236, R370). -/
def Obligations.Atomics : Prop :=
  (∀ (s : State) (h : Hdr) (o : OpsM), Clear s h → scopeCheck s s.fl o.scope = .ok () →
    ∀ p ∈ [(Instr.aadd h o, AtomOp.add), (.amin h o, .min), (.amax h o, .max), (.aand h o, .and), (.aor h o, .or),
      (.axor h o, .xor), (.axchg h o, .xchg), (.acas h o, .cas), (.afadd h o, .fadd), (.ainc h o, .inc)],
      AtomicAs p.1 p.2 s h o ∧
      ∀ a v d : LaneId → Word, ReadsG s h o.sa a → ReadsG s h o.sb v → (p.2 = .cas → ReadsG s h o.dst.asSrc d) →
        (o.ord.getLsbD 1 = true → ∀ k, Acts s h k → Settled s k) →
        ∀ size ∈ [4, 8], o.sz.toNat = (if size = 4 then 2 else 3) →
        let cmp := fun k => if p.2 = .cas then d k else 0
        let acc := fun k => atomicOf p.2 h o size (a k) (v k) (cmp k)
        FailsAs p.1 s h o acc ∧ MissesAs p.1 s h o 2 acc ∧
        ∀ far : LaneId → BitVec 10 × BitVec 6 × BitVec 12 × Nat, o.sp = 4 →
          (∀ k, Acts s h k → probes (noteScope s s.fl o.scope) s.fl (acc k) false = (acc k).elems.map fun e =>
            (e, .far (far k).1 (far k).2.1 (far k).2.2.1 (far k).2.2.2)) →
          ∃ u, Sent s u h acc (fun k _ => far k) (fun k e => .lane s.fl.id k e.pos)
              (fun k _ => .atomic p.2 (decide (size = 8)) (v k) (cmp k)) ∧
            Parks p.1 s u h fun k => .remote (acc k) [] [] 1) ∧
  (∀ (s : State) (f : Flight) (a : Acc) (op : AtomOp) (v c : Word) (e : Elem) (key : Nat), a.kind = .atomic op v c → a.sp = .m →
    a.elems = [e] → probe s f a false e = .at_ key →
    let cls := if op = .fadd then 2 else if a.size = 4 then 0 else 1
    let lacks := (cellarKey 1 0 ≤ key ∧ key < cellarKey 2 0 ∧ (s.expanders.get 0).atc.getLsbD cls = false) ∨
      (cellarKey 2 0 ≤ key ∧ (s.expanders.get 1).atc.getLsbD cls = false)
    (lacks → probes s f a false = [(e, .trap .atomicPath e.addr)]) ∧
    (¬lacks → probes s f a false = [(e, if lineOf key ∈ s.poison then .trap .memPoison e.addr else .at_ key)])) ∧
  (∀ (s : State) (id : FlightId) (f : Flight) (k : LaneId) (a : Acc) (old : Word), flightOf s id = some f →
    (f.lane k).st = .parked (.atomic a old) → a.sgn = false → WakesWith s id k f ((f.lane k).taken a old.toNat)) ∧
  ∀ (s : State) (id : FlightId) (f : Flight) (k : LaneId) (a : Acc) (ws : List Wait) (op : AtomOp) (v c : Word) (e : Elem) (key : Nat),
    flightOf s id = some f → f.live = true → f.held = [] → s.inbound = [] → (f.lane k).st = .parked (.fault a ws) →
    (∀ w ∈ ws, w.answer = some true) → a.kind = .atomic op v c → a.sp = .m → a.sgn = false → a.size ∈ [4, 8] → a.elems = [e] →
    Reaches s f a false (fun _ => key) →
    ∃ u g old r, exec (.laneResume id k) s = .next u ∧ flightOf u id = some g ∧ old < 2 ^ (8 * a.size) ∧
      (∀ i, i < a.size → BitVec.ofNat 8 (old / 2 ^ (8 * i)) = readByte s (key + i)) ∧
      IsAtomNew op (8 * a.size) old (v.toNat % 2 ^ (8 * a.size)) (c.toNat % 2 ^ (8 * a.size)) r ∧
      (∀ b, readByte u b = match r with
        | some x => if key ≤ b ∧ b < key + a.size then BitVec.ofNat 8 (x / 2 ^ (8 * (b - key))) else readByte s b
        | none => readByte s b) ∧
      (g.lane k).regs = ((f.lane k).taken a old).1.regs ∧ (g.lane k).st = .ready ∧ ∀ j, j ≠ k → g.lane j = f.lane j

/-- PPROBE, PREL and PCLR (R197, R200, R217), with PREL's effect, which comes later and in order. FENCE (R229, R230): a release
completes once no store of its lanes waits, writes in its predicate whether none was dropped, and covers the drops; until then it
waits. FENCE_POD_TIMEOUT (R231) drops the stores to peers that have not been answered after 2^24 cycles, and their peers are marked
LOST (R371). The model's choices (log entry 17): FENCE's predicate tells of the drops since the lane's last release fence, and such a
fence covers those; a release waits as a stall; and PPROBE shows a privileged reader OWN where the line has an owner. -/
def Obligations.LinesAndFences : Prop :=
  ((∀ (s : State) (h : Hdr) (o : OpsM) (a : LaneId → Word) (key : LaneId → Nat), Clear s h →
     scopeCheck s s.fl o.scope = .ok () → ReadsG s h o.sa a →
     let sp := if o.sp = 0 then MSpace.h else .g
     let unit := if o.sp = 0 then s.fl.id.coreNo else s.fl.id.clusterNo
     let s1 := noteScope s s.fl o.scope
     let ps := (actors s h).map fun k => (⟨if o.sp = 0 then .hall else .gallery, unit, lineOf (key k)⟩ : Prel)
     (∀ k, Acts s h k → probeChip s1 s.fl sp ⟨0, 64, a k + BitVec.ofInt 64 (o.disp.toInt * 64), false⟩ false = .at_ (key k)) →
     (∃ v : LaneId → Word,
       CompletesAs (.pprobe h o) s s1 h false (fun k => if h.w then (s.fl.lane k).setG o.dst.gReg (v k) else s.fl.lane k)
         (fun k => some (.gen (v k))) ∧
       ∀ k, let l := lineSt s (lineOf (key k))
         ((v k).getLsbD 0 = l.p) ∧ ((v k).getLsbD 1 = l.c) ∧ ((v k).getLsbD 3 = l.owner.isSome) ∧ ((v k).toNat < 16) ∧
         ((v k).getLsbD 2 = true ↔ ∃ c ∈ s.cmds, c.result = none ∧ lineOf (key k) ∈ c.begun)) ∧
     ((o.ord.getLsbD 1 = true → ∀ k, Acts s h k → Settled s k) →
       CompletesAs (.prel h o) s { s1 with prels := s.prels ++ ps, agenda := s.agenda ++ ps.map fun _ => Instr.prelEffect } h false
         (fun k => s.fl.lane k) (fun _ => none) ∧
       ∃ u, u = { s1 with lines := u.lines } ∧
         CompletesAs (.pclr h o) s u h false (fun k => s.fl.lane k) (fun _ => none) ∧ ∀ n, lineSt u n =
           if (actors s h).any fun k => decide (lineOf (key k) = n) then
             { owner := if s.fl.priv = false ∧ (lineSt s n).owner = none then some s.fl.ctx else (lineSt s n).owner, p := false, c := false }
           else lineSt s n)) ∧
   ∀ s : State, ∃ t, exec .prelEffect s = .next t ∧ t = { s with prels := t.prels, lines := t.lines } ∧
     (s.prels = [] → t = s) ∧ ∀ p rest, s.prels = p :: rest → t.prels = rest ∧
       ∀ n, lineSt t n = if n = p.line then { lineSt s n with c := true } else lineSt s n) ∧
  ((∀ (s : State) (h : Hdr) (o : OpsX), Clear s h → scopeCheck s s.fl o.scope = .ok () → TakesP s h o.dst →
     let rel := o.ord.getLsbD 1
     let s1 := noteScope s s.fl o.scope
     let kept := fun k => !(rel && s.fl.dropped.has k)
     ((rel = true → ∀ k, Acts s h k → Settled s k) →
       CompletesAs (.fence h o) s
         { s1 with fl := { s.fl with dropped := if rel then s.fl.dropped &&& ~~~active s h else s.fl.dropped } } h false
         (fun k => if h.w then (s.fl.lane k).setP o.dst.pReg (kept k) else s.fl.lane k)
         fun k => if h.w then some (.pred (kept k)) else none) ∧
     (rel = true → (∃ k, Acts s h k ∧ ¬Settled s k) → ∃ t w, exec (.fence h o) s = .next t ∧ KeepsData s t ∧
       t.fl = { s.fl with stall := some (.order w (ccountOf s s.fl.id.die) (scopeIsPod s.fl o.scope)) } ∧
       ∀ k, w.has k = true ↔ Acts s h k ∧ ¬Settled s k)) ∧
   ∀ (s : State) (id : FlightId) (f : Flight) (l : LaneId) (lanes : LaneSet) (start : Word),
     flightOf s id = some f → f.stall = some (.order lanes start true) → lanes.has l = true →
     (∀ x ∈ s.outstanding, ∀ y ∈ s.outstanding, x.id = y.id → x = y) →
     ∃ t, exec (.fencePodTimeout id l) s = .next t ∧
       if start.toNat + 2 ^ 24 ≤ (ccountOf s id.die).toNat then
         (∀ x, x ∈ t.outstanding ↔ x ∈ s.outstanding ∧ x.owner ≠ .store id l) ∧
         (∀ x ∈ s.outstanding, x.owner = .store id l → (groupEntry s x.peer.toNat).getLsbD 63 = true →
           (groupEntry t x.peer.toNat).getLsbD 62 = true) ∧
         ((∃ x ∈ s.outstanding, x.owner = .store id l) → ∃ g, flightOf t id = some g ∧ g.dropped.has l = true)
       else t = s)

/-- LDX, VLDX, STX and VSTX (R370): one request an element to the peer, with the peer's context and buffer; a load parks until
they are answered. A load that fails its checks traps (R202), and so does one whose peer is not reachable; a store to such a peer is
dropped and reported (R371). -/
def Obligations.RemoteWords : Prop :=
  ∀ (s : State) (h : Hdr) (o : OpsM) (a : LaneId → Word), Clear s h → scopeCheck s s.fl o.scope = .ok () → ReadsG s h o.sa a →
    ∀ (vec : Bool) (far : LaneId → Elem → BitVec 10 × BitVec 6 × BitVec 12 × Nat),
    let acc := fun k => accOf .x h o vec (a k)
    let s1 := noteScope s s.fl o.scope
    let reached := fun store => ∀ k, Acts s h k → probes s1 s.fl (acc k) store = (acc k).elems.map fun e =>
      (e, .far (far k e).1 (far k e).2.1 (far k e).2.2.1 (far k e).2.2.2)
    (reached false → ∃ u, Sent s u h acc far (fun k e => .lane s.fl.id k e.pos) (fun _ e => .load e.len) ∧
      Parks (if vec then .vldx h o else .ldx h o) s u h fun k => .remote (acc k) [] [] (acc k).elems.length) ∧
    FailsAs (if vec then .vldx h o else .ldx h o) s h o acc ∧
    ∀ x : LaneId → Nat,
      (if vec then ∃ d, ReadsV s h .uint64 o.dst.asSrc d ∧ ∀ k, x k = (d k).toNat
        else ∃ d, ReadsG s h o.dst.asSrc d ∧ ∀ k, x k = (d k).toNat) →
      (o.ord.getLsbD 1 = true → ∀ k, Acts s h k → Settled s k) → s.fl.held.length ≤ 16 →
      StoreFailsAs (if vec then .vstx h o else .stx h o) s h o acc x ∧
      (s.fl.live = true → ∀ k e v, (∀ j, Acts s h j ↔ j = k) → (acc k).elems = [e] →
        probes s1 s.fl (acc k) true = [(e, .trap .peerUnreachable v)] →
        ∃ y u, y = { s with contexts := y.contexts, fresh := y.fresh } ∧
          u = { errReport y s.fl.ctx 0x40 ⟨1, s.fl.id, k.val, (bufEntry s1 s.fl.ctx (v.toNat / 2 ^ 52)).peer, 0⟩ v 0 with
                fl := { s.fl with dropped := s.fl.dropped ||| 1#32 <<< k.val } } ∧
          CompletesAs (if vec then .vstx h o else .stx h o) s u h false (fun j => s.fl.lane j) fun _ => none) ∧
      (reached true → ∃ (u : State) (bs : LaneId → Elem → List Byte), Sent s u h acc far (fun k _ => .store s.fl.id k) (fun k e => .store (bs k e)) ∧
        (∀ k e, (bs k e).length = e.len ∧ ∀ i, i < e.len → (bs k e)[i]? = some (BitVec.ofNat 8 (x k / 2 ^ (8 * (e.pos + i))))) ∧
        CompletesAs (if vec then .vstx h o else .stx h o) s u h false (fun k => s.fl.lane k) fun _ => none)

/-- The answers of peers (R368, R371): the bytes of an element come to its lane, a failure marks it, a lane whose elements are all
answered goes on with its value, sign-extended where the load says so, or traps for its lowest failing element (R30); the timeout and its
extension. At the peer (R370): a packet of another generation is answered as not current, one that fails a check is answered with the cause,
one that fails translation waits with its fault record, and otherwise the access is performed, a store leaving every other byte as it
was; the deadline of a store that waits there, and the keep-alives of the rest. The model's choices (log entry 26): an answer that a
packet was not current is taken whatever its generation, and an answer of another package than the one that was asked does nothing. -/
def Obligations.RemoteEvents : Prop :=
  (∀ (s : State) (o : Outstanding) (f : Flight) (k : LaneId) (pos : Nat) (a : Acc) (got : List (Nat × List Byte))
    (bad : List (Nat × Cause × Word)) (n : Nat), s.outstanding.find? (fun x => decide (x.id = o.id)) = some o →
    o.owner = .lane f.id k pos → flightOf s f.id = some f → (f.lane k).st = .parked (.remote a got bad n) →
    let gen := s.podgen
    let goes := fun (t : State) (c : Park) => (∀ x, x ∈ t.outstanding → x.id ≠ o.id) ∧
      ∃ g, flightOf t f.id = some g ∧ (g.lane k).st = .parked c ∧ (g.lane k).regs = (f.lane k).regs ∧ ∀ j, j ≠ k → g.lane j = f.lane j
    let lost := Park.remote a got (bad ++ [(pos, .peerUnreachable, o.handle)]) (n - 1)
    (∀ bs, ∃ t, exec (.remoteAnswer ⟨o.peer, gen, o.id⟩ (.data bs)) s = .next t ∧ goes t (.remote a (got ++ [(pos, bs)]) bad (n - 1)) ∧
      ∀ b, readByte t b = readByte s b) ∧
    (∀ g, ∃ t, exec (.remoteAnswer ⟨o.peer, g, o.id⟩ .notCurrent) s = .next t ∧ goes t lost) ∧
    (∀ c, ∃ t, exec (.remoteAnswer ⟨o.peer, gen, o.id⟩ (.fail c)) s = .next t ∧
      goes t (.remote a got (bad ++ [(pos, .remoteLoadFail, o.handle)]) (n - 1))) ∧
    (∀ p g r, r ≠ .notCurrent → g ≠ gen → ∃ t, exec (.remoteAnswer ⟨p, g, o.id⟩ r) s = .next t ∧ t = { s with outbox := t.outbox } ∧
      ((groupEntry s p.toNat).getLsbD 63 = true → t.outbox = s.outbox ++ [.notCurrent p gen])) ∧
    (∀ p r, p ≠ o.peer → exec (.remoteAnswer ⟨p, gen, o.id⟩ r) s = .next s) ∧
    (∃ t, exec (.remoteTimeout o.id) s = .next t ∧
      if o.start.toNat + 2 ^ 24 ≤ (ccountOf s o.die).toNat then
        goes t lost ∧ ((groupEntry s o.peer.toNat).getLsbD 63 = true → (groupEntry t o.peer.toNat).getLsbD 62 = true)
      else t = s) ∧
    (∃ t, exec (.keepAlive ⟨o.peer, gen, o.id⟩) s = .next t ∧ t = { s with outstanding := t.outstanding } ∧
      t.outstanding.find? (fun x => decide (x.id = o.id)) = some { o with start := ccountOf s o.die })) ∧
  (∀ (s : State) (id : FlightId) (f : Flight) (k : LaneId) (a : Acc) (got : List (Nat × List Byte)) (bad : List (Nat × Cause × Word))
    (n : Nat), flightOf s id = some f → (f.lane k).st = .parked (.remote a got bad n) → a.kind ≠ .gather → a.sp = .x →
    a.size ∈ [1, 2, 4, 8, 64] →
    (n ≠ 0 → exec (.laneResume id k) s = .next s) ∧
    (n = 0 → bad = [] → ∀ bs : Elem → List Byte, (∀ e ∈ a.elems, got.lookup e.pos = some (bs e) ∧ (bs e).length = e.len) →
      ∃ x, x < 2 ^ (8 * a.size) ∧ (∀ e ∈ a.elems, ∀ i, i < e.len → (bs e)[i]? = some (BitVec.ofNat 8 (x / 2 ^ (8 * (e.pos + i))))) ∧
        WakesWith s id k f ((f.lane k).taken a x)) ∧
    (n = 0 → ∀ e c v, e ∈ a.elems → bad.lookup e.pos = some (c, v) → (∀ y ∈ a.elems, y.pos < e.pos → bad.lookup y.pos = none) →
      FailsWith s id k f (f.lane k, none) ⟨5, 0, c, v, 1⟩)) ∧
  ∀ (s : State) (r : RemRequest), (groupEntry s r.pkg.toNat).getLsbD 63 = true →
    let tells := fun (t : State) (a : RemAnswer) => t.outbox = s.outbox ++ [.answer r.pkg s.podgen r.id a]
    let same := fun (t : State) => ∀ b, readByte t b = readByte s b
    (r.gen ≠ s.podgen → ∃ t, exec (.peerRemoteAccess r) s = .next t ∧ tells t .notCurrent ∧ t = { s with outbox := t.outbox }) ∧
    (r.gen = s.podgen → (ctxOf s r.pctx).live = false →
      ∃ t, exec (.peerRemoteAccess r) s = .next t ∧ tells t (.fail 0x55) ∧ t = { s with outbox := t.outbox }) ∧
    (r.gen = s.podgen → (ctxOf s r.pctx).live = true →
      let got := probeMain s r.pctx (reqRight r) ⟨0, reqLen r, reqHandle r, decide (2 ^ 52 ≤ r.off)⟩
        (match r.op with | .atomic _ wide _ _ => r.off % (if wide then 8 else 4) == 0 | _ => true)
      (∀ c v, got = .trap c v → Intact s → ∃ t, exec (.peerRemoteAccess r) s = .next t ∧ tells t (.fail c.code) ∧ same t) ∧
      (∀ m va, got = .fault m va → Intact s → ∃ t rec, exec (.peerRemoteAccess r) s = .next t ∧ same t ∧ t.outbox = s.outbox ∧
        t.inbound = s.inbound ++ [⟨s.uid, r, [⟨va.extractLsb' 16 32, none⟩], s.hubcount, s.hubcount, []⟩] ∧
        t.faultWait = s.faultWait ++ [rec] ∧ rec.getD 0 0 = va.setWidth 64 ∧ rec.getD 1 0 = reqHandle r ∧
        (rec.getD 2 0).extractLsb' 58 6 = r.pctx ∧ (rec.getD 2 0).extractLsb' 0 8 = BitVec.ofNat 8 m) ∧
      ∀ key, got = .at_ key →
        (∀ n, r.op = .load n → lineOf key ∈ s.poison →
          ∃ t, exec (.peerRemoteAccess r) s = .next t ∧ tells t (.fail 0x36) ∧ same t) ∧
        (lineOf key ∉ s.poison →
          (∀ n, r.op = .load n → ∃ t, exec (.peerRemoteAccess r) s = .next t ∧ same t ∧
            tells t (.data ((List.range n).map fun i => readByte s (key + i)))) ∧
          (∀ bs, r.op = .store bs → ∃ t, exec (.peerRemoteAccess r) s = .next t ∧ tells t .done ∧
            (∀ i, i < bs.length → bs[i]? = some (readByte t (key + i))) ∧
            ∀ b, (b < key ∨ key + bs.length ≤ b) → readByte t b = readByte s b) ∧
          ∀ op wide v cmp, r.op = .atomic op wide v cmp → key < cellarKey 1 0 →
            let size := if wide then 8 else 4
            ∃ t old x, exec (.peerRemoteAccess r) s = .next t ∧ old < 2 ^ (8 * size) ∧
              IsAtomNew op (8 * size) old (v.toNat % 2 ^ (8 * size)) (cmp.toNat % 2 ^ (8 * size)) x ∧
              (∀ i, i < size → BitVec.ofNat 8 (old / 2 ^ (8 * i)) = readByte s (key + i)) ∧
              tells t (.data ((List.range size).map fun i => readByte s (key + i))) ∧
              ∀ b, readByte t b = match x with
                | some y => if key ≤ b ∧ b < key + size then BitVec.ofNat 8 (y / 2 ^ (8 * (b - key))) else readByte s b
                | none => readByte s b)) ∧
    ∀ x : Inbound, x.req = r → s.inbound.find? (fun y => decide (y.id = x.id)) = some x →
      let store := match r.op with | .store _ => !r.eng | _ => false
      (∃ t, exec (.remoteStoreDeadline x.id) s = .next t ∧
        if store = true ∧ x.arrived.toNat + 2 ^ 22 ≤ s.hubcount.toNat then
          t = { s with inbound := t.inbound, outbox := t.outbox } ∧ tells t (.fail 0x34) ∧
          ∀ y, y ∈ t.inbound ↔ y ∈ s.inbound ∧ y.id ≠ x.id
        else t = s) ∧
      ∃ t, exec (.keepAliveSend x.id) s = .next t ∧
        if store = false ∧ x.kept.toNat + 2 ^ 20 ≤ s.hubcount.toNat then
          t = { s with inbound := t.inbound, outbox := s.outbox ++ [.keepAlive r.pkg s.podgen r.id] } ∧
          t.inbound.find? (fun y => decide (y.id = x.id)) = some { x with kept := s.hubcount }
        else t = s

/-- The dual word (R48 to R52): each slot has the effect of its full form, both reading before either writes, and a trap of
either slot leaves no effect; after RTE.SKIP the skipped slot is a NOP in its lanes. Where no register is faulty and no
floating-point trap is enabled, the word completes. -/
def Obligations.DualWords : Prop :=
  (∀ (s : State) (e : Bool) (a b : Slot), (Instr.dualWord e a b).wf = true → s.fl.run ≠ none → repeating s = none →
    (∀ k, (s.fl.lane k).fail = none) → ∀ ta tb,
      exec (slotFull e a) (s.slotOnly false) = .next ta → exec (slotFull e b) (s.slotOnly true) = .next tb →
      let passA := Passes (s.slotOnly false) ta
      let passB := Passes (s.slotOnly true) tb
      (passA → passB → DualEnds s e a b ta tb) ∧
      (MayTrap s → ¬passA → ∃ t, exec (.dualWord e a b) s = .next t ∧ SlotTraps s t ta false) ∧
      (MayTrap s → passA → ¬passB → ∃ t, exec (.dualWord e a b) s = .next t ∧ SlotTraps s t tb true)) ∧
  ∀ (s : State) (e : Bool) (a b : Slot), (Instr.dualWord e a b).wf = true → s.fl.run ≠ none → repeating s = none →
    (∀ k, (s.fl.lane k).fail = none ∧ (s.fl.lane k).faulty = []) → s.fl.fpctl.extractLsb' 3 5 = 0 →
    ∃ ta tb, exec (slotFull e a) (s.slotOnly false) = .next ta ∧ exec (slotFull e b) (s.slotOnly true) = .next tb ∧
      DualEnds s e a b ta tb

/-- MMODE (R176, R177): the lanes of Active park, and all live lanes pass together with MODE.MM changed; the traps of a wrong
mode, of a handler, and of lanes at another MMODE. A word that waits for the grid waits without effect, and
ENGINE_STALL_RELEASE lets it issue (R184 to R186, R188). The model's choice: TVAL is 0 for a wrong mode and in a handler, where R176
gives none (log entries 19 and 20), and the issuing set acts together, all of it parking or trapping (log entry 18). -/
def Obligations.MatrixModes : Prop :=
  (∀ (s : State) (h : Hdr) (o : OpsA), Clear s h → ∀ p ∈ [(Instr.mmodeOn h o, true), (Instr.mmodeOff h o, false)],
    let at_ := fun (k : LaneId) (a : Pc) => (∃ on, (s.fl.lane k).st = .parked (.mmode on)) ∧ (s.fl.lane k).pc = a
    ((s.fl.hnd = true ∨ s.fl.mm = p.2) → AllTrap p.1 s h .modeViolation 0) ∧
    (s.fl.hnd = false → s.fl.mm ≠ p.2 →
      ((∀ j k a, at_ j a → Acts s h k → a = (s.fl.lane k).pc) → Parks p.1 s s h fun _ => .mmode p.2) ∧
      ∀ a, (∃ j, at_ j a) → (∀ j b, at_ j b → b = a) → (∀ k, Acts s h k → (s.fl.lane k).pc ≠ a) →
        AllTrap p.1 s h .modeViolation (a.setWidth 64))) ∧
  (∀ (s : State) (f : FlightId) (x : Flight) (on : Bool), flightOf s f = some x → (∃ k, (x.lane k).st ≠ .exited) →
    (∀ k, (x.lane k).st = .exited ∨ (x.lane k).st = .parked (.mmode on)) → (on = false → gridOps s x = []) →
    ∃ t y, exec (.mmodeGatherComplete f) s = .next t ∧ flightOf t f = some y ∧ (∀ a, readByte t a = readByte s a) ∧
      y = { x with mm := on, lanes := y.lanes } ∧ ∀ k, (y.lane k).regs = (x.lane k).regs ∧
        ((x.lane k).st = .exited → y.lane k = x.lane k) ∧
        ((x.lane k).st ≠ .exited → (y.lane k).st = .ready ∧ ((x.lane k).parkRep = false →
          (y.lane k).pc = (x.lane k).pc + 8 ∧ (y.lane k).lat = .stale))) ∧
  (∀ (s : State) (f : FlightId) (x : Flight), flightOf s f = some x →
    (∀ w, x.stall = some w →
      (match w with
        | .gridFull => (gridOf s x).length < 8
        | .drain regs => ∀ o ∈ gridOps s x, ∀ r ∈ regs, r < o.first ∨ o.first + o.count ≤ r
        | .flightGrid => gridOps s x = []
        | .engineGrid => gridOf s x = []
        | .queueFull q => (x.queue q).entries.length < 16
        | .heldFull => x.held.length ≤ 16
        | .order .. => False) →
      exec (.engineStallRelease f) s = .next (setFlight s { x with stall := none }))) ∧
  ∀ (s : State) (h : Hdr) (oa : OpsA) (og : OpsG),
    (∀ i ∈ [Instr.mma h og, .mmai h og, .mzero h oa], s.fl.mm = true →
      gridStall s i = if 8 ≤ (gridOf s s.fl).length then some .gridFull else none) ∧
    (gridStall s (.mdrain h oa) = if gridOps s s.fl = [] then none else some .flightGrid) ∧
    gridStall s (.mstat h oa) = none ∧
    (∀ i ∈ [Instr.fadd h oa, .ffma h oa, .fcmp h oa, .fcvt h oa, .vdiv h oa, .vsqrt h oa, .vcvt8 h oa], gridOps s s.fl = [] →
      gridStall s i = if gridOf s s.fl = [] then none else some .engineGrid) ∧
    ∀ i ∈ [Instr.vadd h oa, .vmov h oa, .vshfl h oa, .vand h oa],
      ∀ r : BitVec 5, 24 ≤ r.toNat → (oa.dst = .v r ∨ oa.sa = .v r) →
      (∃ g ∈ gridOps s s.fl, g.first ≤ r.toNat ∧ r.toNat < g.first + g.count) → ∃ rs, r.toNat ∈ rs ∧ gridStall s i = some (.drain rs)

/-- MMA, MMAI, MZERO, MDRAIN and MSTAT (R178 to R189): the checks of an MMA, what it queues, and what the grid's next operation
does to the accumulators of its lanes, their flags and PASSES. An MMA raises no RF_UNCORRECTABLE (R190), and the BASE of an MMAI that
decodes is at most 24 (R178). -/
def Obligations.MatrixWords : Prop :=
  (∀ (s : State) (h : Hdr) (o : OpsG), Clear s h → (∃ r, o.sc = .g r) → ∀ p ∈ [(Instr.mma h o, false), (Instr.mmai h o, true)],
    (∀ k, Acts s h k → ∃ a b : Word, srcG (s.fl.lane k) o.sc = .ok a ∧
      srcG (s.fl.lane k) (.g (BitVec.ofNat 6 ((srcReg o.sc).toNat + 1))) = .ok b) →
    let w := fun k => (s.fl.lane k).getG (srcReg o.sc)
    let md : Word := BitVec.ofNat 64 (2 ^ 11 * o.vs.toNat + 2 ^ 4 * o.base.toNat + (if o.sat then 8 else 0) + o.kp.toNat)
    (s.fl.mm = false → AllTrap p.1 s h .modeViolation 0) ∧
    (s.fl.mm = true →
      (((∃ j k, Acts s h j ∧ Acts s h k ∧ w j ≠ w k) ∨ ∃ k, Acts s h k ∧ 2 ^ 22 ≤ (w k).toNat) → MayTrap s →
        (∃ k, Acts s h k) → Traps p.1 s h (Acts s h) .formatDivergence 0 w (fun k => s.fl.lane k) fun _ => none) ∧
      ∀ x : Word, x.toNat < 2 ^ 22 → (∀ k, Acts s h k → w k = x) →
        ((∀ r c m, ¬FormatRow x r c m) → AllTrap p.1 s h .illegal x) ∧
        ∀ r c m, FormatRow x r c m →
          (m < o.kp.toNat ∨ (o.sat = true ∧ (x.extractLsb' 8 4).toNat ≠ 11) → AllTrap p.1 s h .illegal md) ∧
          (o.kp.toNat ≤ m → (o.sat = true → (x.extractLsb' 8 4).toNat = 11) →
            (o.dst.vReg.toNat % r ≠ 0 → AllTrap p.1 s h .illegal (BitVec.ofNat 64 o.dst.vReg.toNat)) ∧
            (o.dst.vReg.toNat % r = 0 →
              (x.getLsbD 19 = false ∧ o.vs ≠ 0 → AllTrap p.1 s h .illegal md) ∧
              ((x.getLsbD 19 = false → o.vs = 0) → ∀ base : Nat → Nat, (∀ q, q < 4 → QuarterBase s h o p.2 q (base q)) →
                ((∀ k, Acts s h k → base (k.val / 8) ≤ 24) → (∃ k, Acts s h k) → ∃ op,
                  ReadAtIssue s h o p.2 x r (Acts s h) op ∧
                  CompletesAs p.1 s (queueGrid { s with fresh := s.fresh + 1 } op) h false (fun k => s.fl.lane k) fun _ => none) ∧
                ((∀ k, Acts s h k → 24 < base (k.val / 8)) → MayTrap s → (∃ k, Acts s h k) →
                  Traps p.1 s h (Acts s h) .illegal 0 (fun k => BitVec.ofNat 64 (base (k.val / 8))) (fun k => s.fl.lane k)
                    fun _ => none) ∧
                ((∃ k, Acts s h k ∧ 24 < base (k.val / 8)) → (∃ k, Acts s h k ∧ base (k.val / 8) ≤ 24) →
                  repeating s = none → s.fl.slot ≠ none → (∀ k, (issuing s).has k = true → (s.fl.lane k).st ≠ .exited) →
                  ∃ t op i, exec p.1 s = .next t ∧ gridOf t t.fl = gridOf s s.fl ++ [op] ∧ t.fl.pendTrap = some i ∧
                    ReadAtIssue s h o p.2 x r (fun k => Acts s h k ∧ base (k.val / 8) ≤ 24) op ∧
                    ∀ k, (∃ u, (k, u) ∈ i.traps) ↔ Acts s h k ∧ 24 < base (k.val / 8))))))) ∧
  (∀ (s : State) (h : Hdr) (o : OpsG), s.fl.run ≠ none → (∀ k, Acts s h k → (s.fl.lane k).fail = none) → s.fl.pendTrap = none →
    ∀ i ∈ [Instr.mma h o, .mmai h o], ∃ t, exec i s = .next t ∧
      (∀ x, t.fl.pendTrap = some x → ∀ y ∈ x.traps, y.2.cause ≠ .rfUncorrectable) ∧
      (s.fl.hnd = false → t.fl.hnd = true → t.fl.tcause.extractLsb' 0 8 ≠ Cause.rfUncorrectable.code)) ∧
  (∀ (w : Word) (h : Hdr) (o : OpsG), decode w = .ok (.mmai h o) → o.base.toNat ≤ 24) ∧
  (∀ (s : State) (op : GridOp), s.fl.slot ≠ none → gridOf (queueGrid s op) s.fl = gridOf s s.fl ++ [op]) ∧
  (∀ (s : State) (h : Hdr) (o : OpsA) (d : BitVec 5), o.dst = .v d → Clear s h → d.toNat + 2 ^ o.is.toNat ≤ 32 →
    (s.fl.mm = false → Completes (.mzero h o) s h false (fun k =>
      { s.fl.lane k with v := Vector.ofFn fun r =>
        if d.toNat ≤ r.val ∧ r.val < d.toNat + 2 ^ o.is.toNat then 0 else (s.fl.lane k).v.get r }) fun _ => none) ∧
    (s.fl.mm = true → (∃ k, Acts s h k) → ∃ op, CompletesAs (.mzero h o) s (queueGrid s op) h false (fun k => s.fl.lane k)
        (fun _ => none) ∧
      op.flight = s.fl.id ∧ op.zero = true ∧ op.first = d.toNat ∧ op.count = 2 ^ o.is.toNat ∧
      ∀ k, op.act.has k = true ↔ Acts s h k)) ∧
  (∀ (s : State) (h : Hdr) (o : OpsA), Clear s h → Completes (.mdrain h o) s h o.adv (fun k => s.fl.lane k) (fun _ => none) ∧
    ∃ x : Word, GivesG (.mstat h o) s h o.dst (fun _ => x) ∧
      ((gridOps s s.fl).length < 16 → ((gridOps s s.fl).map fun g => if g.zero then 0 else g.passes.length).sum < 256 →
        x.toNat = 2 ^ 32 * s.fl.mpasses.toNat +
          2 ^ 8 * ((gridOps s s.fl).map fun g => if g.zero then 0 else g.passes.length).sum +
          16 * (gridOps s s.fl).length + (if s.fl.mm then 1 else 0))) ∧
  ∀ (s : State) (core : Nat) (eng : Fin 4) (op : GridOp) (rest : List GridOp) (f : Flight),
    (coreOf s core).grid.get eng = op :: rest → flightOf s op.flight = some f → op.first + op.count ≤ 32 →
    op.bad = [] → (∀ k, (f.lane k).faulty = []) →
    ∃ t g, exec (.gridOperation core eng.val) s = .next t ∧ (coreOf t core).grid.get eng = rest ∧ flightOf t op.flight = some g ∧
      (∀ a, readByte t a = readByte s a) ∧ g = { f with lanes := g.lanes, mpasses := g.mpasses } ∧
      (∀ k, op.act.has k = false → g.lane k = f.lane k) ∧
      (∀ k, g.lane k = { f.lane k with v := (g.lane k).v, fpstat := (g.lane k).fpstat, istat := (g.lane k).istat }) ∧
      (∀ (k : LaneId) (r : BitVec 5), r.toNat < op.first ∨ op.first + op.count ≤ r.toNat → (g.lane k).getV r = (f.lane k).getV r) ∧
      (op.zero = true → g.mpasses = f.mpasses ∧ ∀ k, op.act.has k = true → (g.lane k).fpstat = (f.lane k).fpstat ∧
        (g.lane k).istat = (f.lane k).istat ∧ ∀ r : BitVec 5, op.first ≤ r.toNat → r.toNat < op.first + op.count →
          (g.lane k).getV r = 0) ∧
      (op.zero = false → g.mpasses = f.mpasses + BitVec.ofNat 32 op.passes.length ∧
        ∀ cols m, FormatRow op.fmt op.count cols m → (∀ q, op.bases.get q ≤ 24) → ∀ k, op.act.has k = true →
          let w := if (op.fmt.extractLsb' 8 4).toNat = 0 then 64 else 32
          let n := 512 / w
          ∃ y : Nat → SubRes,
            (∀ c, c < cols → GridSteps op k c ⟨subWord ((f.lane k).getV (BitVec.ofNat 5 (op.first + c / n))) w (c % n), 0, false⟩
                (y c) ∧
              subWord ((g.lane k).getV (BitVec.ofNat 5 (op.first + c / n))) w (c % n) = (y c).bits) ∧
            (g.lane k).fpstat = (f.lane k).fpstat ||| allFlags cols (fun _ => true) (fun c => (y c).fl) ∧
            (g.lane k).istat = (f.lane k).istat ||| if (List.range cols).any fun c => (y c).sat then 4 else 0)

/-- Queue registers: MOV as a pop and as a marker, QTRY, QCNT, QBIND and FOOT (R240, R243 to R250, R256). A named lane that is not in
Active is ILLEGAL for the issuing set (R43), and a level of QBIND that does not resolve for all of Active (R272). TVAL 0 of FOOT's
ILLEGAL is R322's, which gives 0 where the rule states none. The model's choice: QBIND of class 0 stores LVL 0 and NR 0 (log entry
21; R248 says only that the level is ignored), and a marker is pushed whatever W is (log entry 18). -/
def Obligations.QueueWords : Prop :=
  (∀ (s : State) (h : Hdr) (o : OpsA) (k : LaneId) (q : BitVec 3), Clear s h → Takes s h o.dst → IssuesIn s h false 0 k →
    let Q := s.fl.queue q
    (o.sa = .q q →
      (∀ pre x post, Q.Oldest pre x post →
        (∀ w, x.result = some w →
          OnceAs (.movQueuePop h o) s (s.withQueue q { Q with entries := pre ++ post }) h o.dst (.gen w)) ∧
        (x.result = none → Parks (.movQueuePop h o) s s h fun _ => .pop q o.dst h.w (active s h))) ∧
      (Q.NonePopped → OnceTraps (.movQueuePop h o) s h k .queueBind 2)) ∧
    (o.dst = .q q → ∀ a, srcG (s.fl.lane k) o.sa = .ok a →
      (Q.cls = 0 → OnceTraps (.movQueueMarker h o) s h k .queueBind 0) ∧
      (Q.cls ≠ 0 → 16 ≤ Q.entries.length →
        (Q.nr = false → OnceTraps (.movQueueMarker h o) s h k .queueBind 4) ∧
        (Q.nr = true → Stalls (.movQueueMarker h o) s (.queueFull q))) ∧
      (Q.cls ≠ 0 → Q.entries.length < 16 → 
        (∀ pre x post, Q.entries = pre ++ x :: post → x.cmd = none → x.result = none → ∃ y ∈ pre, y.result = none) →
        let v : BitVec 32 := a.setWidth 32
        let mark : Word := BitVec.ofNat 64 (2 ^ 63 + 2 ^ 62 + 2 ^ 32 * (Q.seq.toNat % 256) + v.toNat)
        OnceAs (.movQueueMarker h o) s (s.withQueue q { Q with seq := Q.seq + 1, entries := Q.entries ++
          [⟨none, Q.seq, v, if Q.entries.all fun x => x.result.isSome then some mark else none⟩] }) h o.dst .none))) ∧
  (∀ (s : State) (h : Hdr) (o : OpsX), Clear s h → Takes s h o.dst → (∃ k, Acts s h k) → o.ls = true →
    (∀ k, Acts s h k → k.val ≠ o.lane.toNat) → MayTrap s → ∀ i ∈ [Instr.qtry h o, .qcnt h o, .qbind h o, .foot h o],
      Traps i s h (fun j => (issuing s).has j = true) .illegal 0 (fun _ => o.lane.setWidth 64) (fun j => s.fl.lane j) fun _ => none) ∧
  ∀ (s : State) (h : Hdr) (o : OpsX) (k : LaneId), Clear s h → Takes s h o.dst → IssuesIn s h o.ls o.lane k →
    let Q := s.fl.queue o.qn
    (∀ pre x post, Q.Oldest pre x post →
      (∀ w, x.result = some w → OnceAs (.qtry h o) s (s.withQueue o.qn { Q with entries := pre ++ post }) h o.dst (.gen w)) ∧
      (x.result = none → OnceAs (.qtry h o) s s h o.dst (.gen 0))) ∧
    (Q.NonePopped → OnceAs (.qtry h o) s s h o.dst (.gen 0)) ∧
    (∃ w : Word, OnceAs (.qcnt h o) s s h o.dst (.gen w) ∧ (Q.entries.length ≤ 16 → Q.foots.length ≤ 4 →
      w.toNat = (Q.entries.filter fun x => x.result.isNone).length + 2 ^ 8 * (Q.entries.filter fun x => x.result.isSome).length +
        2 ^ 16 * Q.foots.length + 2 ^ 20 * Q.cls.toNat + 2 ^ 24 * Q.lvl.toNat + if Q.nr then 2 ^ 28 else 0)) ∧
    (∀ v, srcG (s.fl.lane k) o.sb = .ok v →
      let c := v.toNat % 8
      let ok := fun (m : Nat) => (c = 1 → m = 3) ∧ (c ∈ [2, 3] → 2 ≤ m ∧ m ≤ 5) ∧ (c ∈ [4, 5] → m = 4)
      ((16 ≤ v.toNat ∨ 6 ≤ c) → OnceTraps (.qbind h o) s h k .illegal v) ∧
      (v.toNat < 16 → c < 6 →
        (c ≠ 0 → resolveLevel s.fl o.lvl = none → AllTrap (.qbind h o) s h .illegal (o.lvl.setWidth 64)) ∧
        (∀ m, c ≠ 0 → resolveLevel s.fl o.lvl = some m → ¬ok m → OnceTraps (.qbind h o) s h k .illegal (BitVec.ofNat 64 m)) ∧
        ∀ m, (c = 0 ∧ m = 0 ∨ c ≠ 0 ∧ resolveLevel s.fl o.lvl = some m ∧ ok m) →
          (c = 5 → s.fl.priv = false → OnceTraps (.qbind h o) s h k .priv 0) ∧
          ((c = 5 → s.fl.priv = true) →
            (Q.entries ≠ [] → OnceTraps (.qbind h o) s h k .queueBind 1) ∧
            (Q.entries = [] → OnceAs (.qbind h o) s (s.withQueue o.qn
              { cls := BitVec.ofNat 3 c, lvl := BitVec.ofNat 4 m, nr := decide (c ≠ 0 ∧ 8 ≤ v.toNat), entries := [], foots := [],
                seq := 0 }) h o.dst .none)))) ∧
    ((srcReg o.sa).toNat = 63 → OnceTraps (.foot h o) s h k .illegal 0) ∧
    ∀ b r : Word, (srcReg o.sa).toNat < 63 → srcG (s.fl.lane k) (.g (srcReg o.sa)) = .ok b →
      srcG (s.fl.lane k) (.g (BitVec.ofNat 6 ((srcReg o.sa).toNat + 1))) = .ok r →
      (Q.cls = 0 → OnceTraps (.foot h o) s h k .queueBind 0) ∧
      (Q.cls ≠ 0 → (4 < r.toNat / 2 ^ 61 ∨ r.toNat % 2 ^ 48 = 0 ∨ r.toNat / 2 ^ 48 % 2 ^ 12 ≠ 0) →
        OnceTraps (.foot h o) s h k .illegal 0) ∧
      (Q.cls ≠ 0 → r.toNat / 2 ^ 61 ≤ 4 → r.toNat % 2 ^ 48 ≠ 0 → r.toNat / 2 ^ 48 % 2 ^ 12 = 0 →
        (4 ≤ Q.foots.length → OnceTraps (.foot h o) s h k .queueBind 3) ∧
        (Q.foots.length < 4 → OnceAs (.foot h o) s (s.withQueue o.qn { Q with foots := Q.foots ++
          [⟨b, BitVec.ofNat 3 (r.toNat / 2 ^ 61), r.getLsbD 60, r.toNat % 2 ^ 48⟩] }) h o.dst .none))

/-- COPY, MCAST, REDUCE, GEMV and MIGR (R241, R244, R246, R247, R251, R259 to R265, R268): the checks in the issuing lane in the order of
R251, each with its trap and TVAL; the acceptance; the lines that an unguarded COPY begins (R197); a scope code that does not resolve
or selects an entry that is not valid (R221, R247, R272), and one that names a die that is absent (R352); MIGR is privileged. The
model's choice: the group past g63 has TVAL 0 and is told before every other check (log entry 18), and MIGR of a context that is not
live is ILLEGAL for its first register (log entry 21). -/
def Obligations.EngineCommands : Prop :=
  ∀ (s : State) (h : Hdr) (o : OpsX) (k : LaneId) (g : List Word), Clear s h → Takes s h o.dst → IssuesIn s h o.ls o.lane k →
    (o.nb = false → h.w = false) → o.ord = 2 →
    let lvl := (s.fl.queue o.qn).lvl.toNat
    let s1 := noteScope s s.fl o.scope
    (scopeCheck s s.fl o.scope = .ok () →
      (g.length = (if (g.getD 2 0).toNat / 2 ^ 44 % 2 ^ 12 = 0 then 3 else 4) →
        CommandAs (.copy h o) s h o k 1 4 g (CopyBad g) [(g.getD 0 0, 8), (g.getD 1 0, 8)]) ∧
      (g.length = 3 → CommandAs (.mcast h o) s h o k 2 3 g (McastBad s lvl g) [(g.getD 0 0, 8), (g.getD 1 0, 8)]) ∧
      (g.length = 3 → CommandAs (.reduce h o) s h o k 3 3 g (ReduceBad s lvl g) [(g.getD 0 0, 8), (g.getD 1 0, 8)]) ∧
      (g.length = 7 → CommandAs (.gemv h o) s h o k 4 7 g (GemvBad g)
        [(g.getD 0 0, 64), (g.getD 1 0, formatBytes (g.getD 4 0) 4), (g.getD 2 0, formatBytes (g.getD 4 0) 8)]) ∧
      (g.length = 2 → s.fl.priv = true → CommandAs (.migr h o) s h o k 5 2 g (MigrBad s1 g) [])) ∧
    (∀ i ∈ [Instr.copy h o, .mcast h o, .reduce h o, .gemv h o] ++ (if s.fl.priv = true then [.migr h o] else []),
      (o.scope.toNat < 32 → resolveLevel s.fl (o.scope.extractLsb' 0 4) = none → AllTrap i s h .illegal (o.scope.setWidth 64)) ∧
      (32 ≤ o.scope.toNat → (scopeEntry s s.fl.ctx o.scope).getD 0 0 ≠ 0x8000000000000000 →
        OnceTraps i s h k .illegal (o.scope.setWidth 64))) ∧
    (s.fl.priv = false → MayTrap s →
      Traps (.migr h o) s h (fun j => (issuing s).has j = true) .priv 0 (fun _ => 0) (fun j => s.fl.lane j) fun _ => none)

/-- The engines at work: ENGINE_COMMAND_START (R255, R258, R355; the drop of a cancelled instance's command comes when it would start),
ENGINE_PIECE (R252, R253, R259, R263, R264, R266, R267),
GUARD_PASS (R200) and RESULT_DELIVERY (R241, R242). -/
def Obligations.EngineEvents : Prop :=
  ∀ (s : State) (c : Cmd), cmdById s c.id = some c →
    (c.started = false → c.result = none → c.cls ≠ 5 →
      let clash := ∃ b ∈ s.cmds, b.order < c.order ∧ b.flight.die = c.flight.die ∧ sameTeam b c = true ∧ b.result = none ∧
        ∃ x ∈ b.regions s, ∃ y ∈ c.regions s, x.inst = y.inst ∧ x.lo < y.hi ∧ y.lo < x.hi ∧ (x.wr = true ∨ y.wr = true)
      let pinned := bufEntry s c.ctx (handleBuf (c.regs.getD 0 0))
      let parked := c.cls = 4 ∧ s.anneal.act = true ∧ pinned.il = 3 ∧ pinned.stk = s.anneal.stk
      ((clash ∨ parked) → exec (.engineCommandStart c.id) s = .next s) ∧
      (¬clash → ¬parked →
        (c.ginst ∈ (ctxOf s c.ctx).cancels → ∃ t d, exec (.engineCommandStart c.id) s = .next t ∧ cmdById t c.id = some d ∧
          d.started = false ∧ d.result.map (·.toNat) = some (resultBits Cause.cancelled.code.toNat c.satf c.flg c.seq 0) ∧
          ∀ a, readByte t a = readByte s a) ∧
        (c.ginst ∉ (ctxOf s c.ctx).cancels → ∃ t, exec (.engineCommandStart c.id) s = .next t ∧
          cmdById t c.id = some { c with started := true } ∧ ∀ a, readByte t a = readByte s a))) ∧
    (∀ p, pieceReady s c p = true → (∀ w ∈ (c.waits.lookup p).getD [], w.answer ≠ some false) → c.migr = none →
      (∀ x, copyPiece s c p = some x → c.cls ∈ [(1 : BitVec 3), 2] → c.answer p 1 = none →
        let a := pieceCheck s c .rd x.src
        let b := pieceCheck s c .wr x.dst
        (∀ e, a = .fail e → ∃ t, exec (.enginePiece c.id p) s = .next t ∧ PieceFailed s t c p x.len ⟨x.off, x.child, e⟩) ∧
        ∀ key, a.Here key →
          (∀ e, b = .fail e → ∃ t, exec (.enginePiece c.id p) s = .next t ∧ PieceFailed s t c p x.len ⟨x.off, x.child, e⟩) ∧
          ∀ to_, b.Here to_ → (lineOf to_ ∈ s.poison → x.len = 64) → ∃ t, exec (.enginePiece c.id p) s = .next t ∧
            PieceWritten s t c p x.len to_ ((List.range x.len).map fun i => enginesByte s c a (key + i))) ∧
      (c.cls = 3 → ∀ (key : Nat → Nat) (to_ : Nat),
        let size := c.redTy.width / 8
        (c.reads s).length = c.kids → c.kids ≤ 1024 →
        (∀ i r, (c.reads s)[i]? = some r → i < c.kids →
          (pieceCheck s c .rd (r.1, r.2.1, p * size, size)).Here (key i)) →
        (pieceCheck s c .wr (parentPlace c.flight c.lvl.toNat, c.regs.getD 0 0, p * size, size)).Here to_ → lineOf to_ ∉ s.poison →
        let fmt := fmtOf c.redTy 0
        let opr := c.field 2 48 2
        let op := fun (x y : Nat) => if c.redTy.isFp then
            (if opr = 0 then (let r := fmt.round (addNum (fmt.decode x) (fmt.decode y)) .rne 0 false; (⟨r.1, r.2, false⟩ : SubRes))
            else subMinMax c.redTy (decide (opr = 2)) x y)
          else if opr = 0 then fitTo c.redTy (c.field 2 47 1 == 1) (readInt c.redTy x + readInt c.redTy y)
          else if opr = 1 then fitTo c.redTy false (min (readInt c.redTy x) (readInt c.redTy y))
          else fitTo c.redTy false (max (readInt c.redTy x) (readInt c.redTy y))
        opr < 3 → ∃ v : Nat → Nat,
          (∀ i r, (c.reads s)[i]? = some r → v i < 2 ^ (8 * size) ∧ ∀ b, b < size → BitVec.ofNat 8 (v i / 2 ^ (8 * b)) =
            enginesByte s c (pieceCheck s c .rd (r.1, r.2.1, p * size, size)) (key i + b)) ∧
          ∃ y : SubRes, treeLevel op (fun i => if i < c.kids then some ⟨v i, 0, false⟩ else none) 10 0 = some y ∧
            ∃ t, exec (.enginePiece c.id p) s = .next t ∧ PieceWritten s t c p 1 to_ (natToBytes size y.bits) ∧
              ∀ d, cmdById t c.id = some d → d.flg = c.flg ||| y.fl ∧ d.satf = (c.satf || y.sat)) ∧
      (c.cls = 4 → ∀ (m x ms xs : List Byte) (to_ : Nat),
        let f := c.gFmt
        let size := fun (lo : Nat) => (Ty.ofCode (f.extractLsb' lo 4)).width / 8
        let blocks := (c.gCols + 31) / 32
        (∃ r n k, FormatRow f r n k) → (bufEntry s c.ctx (handleBuf (c.regs.getD 0 0))).il = 3 →
        mainRange s c (c.regs.getD 0 0) (p * c.gPitch * 64) (c.gCols * size 0) = (m, none, []) →
        mainRange s c (c.regs.getD 1 0) 0 (c.gCols * size 4) = (x, none, []) →
        (f.getLsbD 18 = true → mainRange s c (c.regs.getD 5 0) (p * blocks) blocks = (ms, none, [])) →
        (f.getLsbD 19 = true → mainRange s c (c.regs.getD 6 0) 0 blocks = (xs, none, [])) →
        (pieceCheck s c .wr (.main, c.regs.getD 2 0, p * size 8, size 8)).Here to_ → lineOf to_ ∉ s.poison →
        ∃ z : Nat → SubRes, z 0 = ⟨0, 0, false⟩ ∧
          (∀ j, j < c.gCols → GridStep f c.gSat (elemAt m (size 0) j) (elemAt x (size 4) j)
            (if f.getLsbD 18 then some (elemAt ms 1 (j / 32)) else none) (if f.getLsbD 19 then some (elemAt xs 1 (j / 32)) else none)
            (z j) (z (j + 1))) ∧
          ∃ t, exec (.enginePiece c.id p) s = .next t ∧ PieceWritten s t c p 1 to_ (natToBytes (size 8) (z c.gCols).bits) ∧
            ∀ d, cmdById t c.id = some d → d.flg = c.flg ||| (z c.gCols).fl ∧ d.satf = (c.satf || (z c.gCols).sat))) ∧
    (c.left = 0 → c.result = none →
      (c.fails = [] → c.finish.result.map (·.toNat) = some (resultBits 0 c.satf c.flg c.seq 0)) ∧
      ∀ f ∈ c.fails, (∀ g ∈ c.fails, f.off < g.off ∨ (f.off = g.off ∧ f.child < g.child) ∨ f = g) →
        c.finish.result.map (·.toNat) = some (resultBits f.cause.code.toNat c.satf c.flg c.seq f.off)) ∧
    (∀ line, guardOpen s c line = true → ∃ t d, exec (.guardPass c.id line) s = .next t ∧ cmdById t c.id = some d ∧
      line ∈ d.begun ∧ (∀ a, readByte t a = readByte s a) ∧
      ∀ n, lineSt t n = if n = line then { lineSt s n with p := false, c := false } else lineSt s n) ∧
    ∀ w, c.result = some w → (∀ v ∈ c.futWaits, v.answer ≠ none) →
      (∀ f pre x post, flightOf s c.flight = some f → (f.queue c.qn).entries = pre ++ x :: post → x.cmd = some c.id →
        (∀ y ∈ pre, y.cmd ≠ some c.id) → (∃ y ∈ pre, y.result = none) → exec (.resultDelivery c.id) s = .next s) ∧
      (c.fut = 0 → (flightOf s c.flight = none → exec (.resultDelivery c.id) s =
          .next { s with cmds := s.cmds.filter fun d => decide (d.id ≠ c.id) }) ∧
        ∀ f pre x post, flightOf s c.flight = some f → (f.queue c.qn).entries = pre ++ x :: post → x.cmd = some c.id →
          (∀ y ∈ pre ++ post, y.cmd ≠ some c.id) → (∀ y ∈ pre, y.result ≠ none) → ∃ t g, exec (.resultDelivery c.id) s = .next t ∧
            t.cmds = (s.cmds.filter fun d => decide (d.id ≠ c.id)) ∧ flightOf t c.flight = some g ∧
            (∀ a, readByte t a = readByte s a) ∧ g = { f with queues := g.queues } ∧ (∀ q, q ≠ c.qn → g.queue q = f.queue q) ∧
            if (f.queue c.qn).nr then (g.queue c.qn).entries.map (·.seq) = (pre ++ post).map (·.seq)
            else ∃ rest, (g.queue c.qn).entries = pre ++ { x with result := some w } :: rest ∧ rest.map (·.seq) = post.map (·.seq))

/-- MIGR's copy (R255, R268 to R270, R359, R360): MIGRATION_START, once no hazard and no other migration of the page is in its way, drops
the command of a cancelled instance, fails with PAGE_FAULT where the page has no leaf or one that does not translate, or copies the
whole page, MIGRATION_ROUND the blocks written since,
and MIGRATION_SWITCH, once they are few, the last of them and the leaf; the mapping is kept where the copy does not settle.
That the whole page is copied at the start is the model's reading (log entry 33). -/
def Obligations.Migrations : Prop :=
  ∀ (s : State) (c : Cmd), cmdById s c.id = some c → c.cls = 5 → c.result = none →
    let il := fun (size : Nat) (cur : Word) => pageIl s c.pageCtx c.pageVa size cur
    let apart := fun (old new : Word) (i : BitVec 3) (size : Nat) =>
      (∀ a b, a < size → b < size → pageKey old i a ≠ pageKey new i b ∧ (pageKey new i a = pageKey new i b → a = b)) ∧
      ∀ a, a < size → lineOf (pageKey old i a) ∉ s.poison ∧ lineOf (pageKey new i a) ∉ s.poison
    let lost := fun (e : Word) => e.getLsbD 58 = true ∨ e.getLsbD 61 = true ∧ portLost s (pteCl e) = true
    let room := fun (e : Word) => if e.getLsbD 61 then cellarFrames s (pteCl e) else lineCapacity (retirements s) / 1024
    let ends := fun (i : Instr) (cause data : Nat) => ∃ t d, exec i s = .next t ∧ cmdById t c.id = some d ∧ d.migr = none ∧
      d.result.map (·.toNat) = some (resultBits cause c.satf c.flg c.seq data) ∧ ∀ a, readByte t a = readByte s a
    let miss := fun (lvl : Nat) (e : Word) => e.extractLsb' 48 9 ≠ 0 ∨ pteCl e = 3 ∨ (pteCl e ≠ 0 ∧ e.getLsbD 61 = false) ∨
      e.toNat % 65536 ≠ 0 ∨ pteFrame e % leafFrames lvl ≠ 0 ∨ room e < pteFrame e + leafFrames lvl
    let dropped := c.ginst ∈ (ctxOf s c.ctx).cancels
    let first := fun (cause : Cause) =>
      ends (.migrationStart c.id) (if dropped then Cause.cancelled.code.toNat else cause.code.toNat) 0
    (c.started = false → c.migr = none → hazard s c = false → (runningMigr s).length < 16 →
      ((ctxOf s c.pageCtx).live = false → first .pageFault) ∧
      ((ctxOf s c.pageCtx).live = true → ∀ r,
        walkFrom s c.pageCtx c.pageVa (ptRoot (ctxOf s c.pageCtx)) walkLevels = r →
        (∀ k, r = .fail k → first .pageFault) ∧
        ∀ lvl at_ cur, r = .leaf lvl at_ cur →
          let size := leafBytes lvl
          let fits := c.pageVa % size = 0 ∧ pteFrame c.newLeaf % leafFrames lvl = 0 ∧ c.newLeaf.getLsbD 57 = cur.getLsbD 57
          ((∃ m ∈ runningMigr s, m.leafAt = at_) → exec (.migrationStart c.id) s = .next s) ∧
          ((∀ m ∈ runningMigr s, m.leafAt ≠ at_) →
          (dropped ∨ miss lvl cur → first .pageFault) ∧
          (¬dropped → ¬miss lvl cur → ¬fits → first .illegal) ∧
          (¬dropped → ¬miss lvl cur → fits →
          ((lost cur ∨ lost c.newLeaf) → ends (.migrationStart c.id) Cause.memPathLost.code.toNat 0) ∧
          (¬lost cur → ¬lost c.newLeaf → room c.newLeaf < pteFrame c.newLeaf + size / 65536 → first .illegal) ∧
          (¬lost cur → ¬lost c.newLeaf → pteFrame c.newLeaf + size / 65536 ≤ room c.newLeaf → apart cur c.newLeaf (il size cur) size →
            ∃ t d m, exec (.migrationStart c.id) s = .next t ∧ cmdById t c.id = some d ∧ d.started = true ∧ d.result = none ∧
              d.migr = some m ∧ m.round = 0 ∧ m.size = size ∧ m.leafAt = at_ ∧ m.old = cur ∧
              PageCopied s t (fun n => n < size / 64) (pageKey cur (il size cur)) (pageKey c.newLeaf (il size cur))))))) ∧
    ∀ m, c.migr = some m →
      let few := m.dirty.length * (m.size / 1024) ≤ 16384
      let marked := fun n => ∃ b ∈ m.dirty, n / (m.size / 65536) = b
      (¬few → m.round = 3 → ends (.migrationRound c.id) 0 1) ∧
      (few → exec (.migrationRound c.id) s = .next s) ∧ (¬few → exec (.migrationSwitch c.id) s = .next s) ∧
      (65536 ≤ m.size → (∀ b ∈ m.dirty, b < 1024) → m.size % 65536 = 0 → ¬lost m.old → ¬lost c.newLeaf →
        pteFrame c.newLeaf + m.size / 65536 ≤ room c.newLeaf →
        apart m.old c.newLeaf m.il m.size →
        (¬few → m.round < 3 → ∃ t d n, exec (.migrationRound c.id) s = .next t ∧ cmdById t c.id = some d ∧ d.result = none ∧
          d.migr = some n ∧ n.round = m.round + 1 ∧ PageCopied s t marked (pageKey m.old m.il) (pageKey c.newLeaf m.il)) ∧
        (few → (∀ a, a < m.size → ∀ i, i < 8 → pageKey c.newLeaf m.il a ≠ mainKey m.leafAt + i ∧
            lineOf (mainKey m.leafAt + i) ∉ s.poison) → m.leafAt % 8 = 0 →
          ∃ t d, exec (.migrationSwitch c.id) s = .next t ∧ cmdById t c.id = some d ∧ d.migr = none ∧
            d.result.map (·.toNat) = some (resultBits 0 c.satf c.flg c.seq 0) ∧ readWord t (mainKey m.leafAt) = c.newLeaf ∧
            (∀ e ∈ (ctxOf t c.pageCtx).pteCache, e.1 ≠ m.leafAt) ∧
            ∀ a, marked (a / 64) → readByte t (pageKey c.newLeaf m.il a) = readByte s (pageKey m.old m.il a)))

/-- CFETCH and SEGMENT_FETCH_COMPLETION (R18, R43, R85, R86), and FAULT_RECORD_WRITE (R209, R379): the checks, the fetcher's four
fetches, what the fetch leaves in the slot, and the place of a fault record in its ring. The model's choice: a ring whose size field is
0 has 2^16 slots, and one whose base is 0 is not set up (log entry 13); a group past g63 has TVAL 0 (log entry 18). -/
def Obligations.SegmentFetches : Prop :=
  (∀ (s : State) (h : Hdr) (o : OpsX) (k : LaneId), Clear s h → Takes s h o.dst → IssuesIn s h o.ls o.lane k →
    (srcReg o.sa).toNat = 63 → OnceTraps (.cfetch h o) s h k .illegal 0) ∧
  (∀ (s : State) (h : Hdr) (o : OpsX) (k : LaneId) (image slot fut : Word), Clear s h → Takes s h o.dst →
    IssuesIn s h o.ls o.lane k → (o.nb = false → h.w = false) → (srcReg o.sa).toNat < 63 →
    srcG (s.fl.lane k) (.g (srcReg o.sa)) = .ok image → srcG (s.fl.lane k) (.g (BitVec.ofNat 6 ((srcReg o.sa).toNat + 1))) = .ok slot →
    srcG (s.fl.lane k) o.sb = .ok fut →
    let C := coreOf s s.fl.id.coreNo
    let off := fun (a : Word) => a.toNat % 2 ^ 52
    (32 ≤ slot.toNat → OnceTraps (.cfetch h o) s h k .illegal slot) ∧
    (slot.toNat < 32 → off image % 64 ≠ 0 → OnceTraps (.cfetch h o) s h k .align (BitVec.ofNat 64 (off image))) ∧
    (slot.toNat < 32 → off image % 64 = 0 → off fut % 8 ≠ 0 → OnceTraps (.cfetch h o) s h k .align (BitVec.ofNat 64 (off fut))) ∧
    (slot.toNat < 32 → off image % 64 = 0 → off fut % 8 = 0 → Settled s k →
      (4 ≤ C.fetches.length →
        (o.nb = true → OnceAs (.cfetch h o) s s h o.dst (.pred false)) ∧
        (o.nb = false → Parks (.cfetch h o) s s h fun _ => .fetcher image slot.toNat fut (active s h))) ∧
      (C.fetches.length < 4 → ∃ u, u = { s with cores := u.cores, dues := u.dues } ∧
        OnceAs (.cfetch h o) s u h o.dst (if o.nb then .pred true else .none) ∧
        ∃ x : Fetch, x.slot = slot.toNat ∧ x.fut = fut ∧ x.src.ctx = s.fl.ctx ∧ x.src.buf.toNat = image.toNat / 2 ^ 52 ∧
          x.src.off = off image ∧ x.waits = [] ∧
          let D := coreOf u s.fl.id.coreNo
          D.fetches = C.fetches.filter (fun f => decide (f.slot ≠ slot.toNat)) ++ [x] ∧
          D.slots = C.slots.set (Fin.ofNat 32 slot.toNat) .loading ∧
          ∀ f ∈ C.fetches, f.slot = slot.toNat → f.fut ≠ 0 → ∃ d ∈ u.dues, d.handle = f.fut ∧ d.cause = some Cause.cancelled.code))) ∧
  (∀ (s : State) (core slot : Nat) (x : Fetch), slot < 32 →
    (coreOf s core).fetches.find? (fun f => decide (f.slot = slot)) = some x → (∀ w ∈ x.waits, w.answer = some true) →
    x.reload = false →
    (∀ bs, mainBytes s x.src.ctx (imageHandle x.src) 4096 = .ok bs → bs.length = 4096 →
      ∃ t, exec (.segmentFetchCompletion core slot) s = .next t ∧
        (∀ i, i < 4096 → some (readByte t (storeKey core (4096 * slot) + i)) = bs[i]?) ∧
        (coreOf t core).slots.get (Fin.ofNat 32 slot) = .present ∧ (∀ f ∈ (coreOf t core).fetches, f.slot ≠ slot) ∧
        (x.fut ≠ 0 → ∃ d ∈ t.dues, d.handle = x.fut ∧ d.cause = none)) ∧
    ∀ c, mainBytes s x.src.ctx (imageHandle x.src) 4096 = .fail c →
      ∃ t, exec (.segmentFetchCompletion core slot) s = .next t ∧
        (Intact s → ∀ a, readByte t a = readByte s a) ∧ (coreOf t core).slots.get (Fin.ofNat 32 slot) = .absent ∧ (∀ f ∈ (coreOf t core).fetches, f.slot ≠ slot) ∧
        (x.fut ≠ 0 → ∃ d ∈ t.dues, d.handle = x.fut ∧ d.cause = some c.code)) ∧
  ∀ (s : State) (r : List Word) (rest : List (List Word)), s.faultWait = r :: rest → s.host.frbase ≠ 0 → r.length = 8 →
    let size := 2 ^ (if (s.host.frbase.extractLsb' 56 4) = 0 then 16 else (s.host.frbase.extractLsb' 56 4).toNat)
    if (s.host.frprod - s.host.frcons).toNat < size then
      ∃ t, exec .faultRecordWrite s = .next t ∧ t.faultWait = rest ∧ t.host = { s.host with frprod := s.host.frprod + 1 } ∧
        (∀ i, i < 8 → some (readWord t (mainKey (s.host.frbase.toNat % 2 ^ 48 + 64 * (s.host.frprod.toNat % size) + 8 * i))) = r[i]?)
    else exec .faultRecordWrite s = .next s

/-- LAUNCH, TSPLIT and CANCEL (R276 to R278, R280, R291, R292), CANCEL_TOKEN_ARRIVAL (R293, R368) and RECORD_ACCEPT (R279, R281,
R284): a gang that its domain cannot hold at once is refused with ILLEGAL. The model's choice: HEAD and TAIL of the package launch queue
are compared in their low 32 bits and HEAD is written as a 32-bit count, how many units a gang may have (`gangCapacity`), and which
packages hold members of an instance (log entry 23); a group past g63 has TVAL 0 (log entry 18). -/
def Obligations.Launches : Prop :=
  (∀ (s : State) (h : Hdr) (o : OpsX) (k : LaneId) (ws : List Word), Clear s h → Takes s h o.dst → IssuesIn s h o.ls o.lane k →
    (o.nb = false → h.w = false) → ws.length = 16 → (srcReg o.sa).toNat ≤ 48 →
    (∀ j, j < 16 → srcG (s.fl.lane k) (.g (BitVec.ofNat 6 ((srcReg o.sa).toNat + j))) = .ok (ws.getD j 0)) →
    let i := Instr.launch h o
    let join := ws.getD 12 0
    let done := fun (b : Bool) => if o.nb then OnceVal.pred b else .none
    (resolveLevel s.fl o.lvl = none → OnceTraps i s h k .illegal (o.lvl.setWidth 64)) ∧
    ∀ m, resolveLevel s.fl o.lvl = some m →
      (s.fl.level.toNat < m → OnceTraps i s h k .illegal (BitVec.ofNat 64 m)) ∧
      (m ≤ s.fl.level.toNat →
        (∀ j, RecordBad ws m j → (∀ n, n < j → ¬RecordBad ws m n) →
          OnceTraps i s h k .illegal (BitVec.ofNat 64 ((srcReg o.sa).toNat + j))) ∧
        ((∀ j, ¬RecordBad ws m j) →
          (join.toNat % 8 ≠ 0 → OnceTraps i s h k .align join) ∧
          (join.toNat % 8 = 0 →
            (s.fl.depth = 10 → OnceTraps i s h k .launchDepth 10) ∧
            (s.fl.depth < 10 → Settled s k → ∃ r, CompletedRecord ws r m s.fl.rootlvl.toNat (s.fl.depth + 1) s.fl.ginst s.fl.resv ∧
              (s.fl.launches.length < 4 →
                OnceAs i s { s with fl := { s.fl with launches := s.fl.launches ++ [r] } } h o.dst (done true)) ∧
              (4 ≤ s.fl.launches.length → (o.nb = true → OnceAs i s s h o.dst (done false)) ∧
                (o.nb = false → Parks i s s h fun _ => .launch r (active s h)))))))) ∧
  (∀ (s : State) (h : Hdr) (o : OpsX) (k : LaneId), Clear s h → Takes s h o.dst → IssuesIn s h o.ls o.lane k →
    48 < (srcReg o.sa).toNat → OnceTraps (.launch h o) s h k .illegal 0) ∧
  (∀ (s : State) (h : Hdr) (o : OpsA) (a b c : LaneId → Word), Clear s h → ReadsG s h o.sa a → ReadsG s h o.sb b →
    ReadsG s h o.sc c → ∃ d, GivesG (.tsplit h o) s h o.dst d ∧ ∀ k,
      let E := (a k).toNat / 2 ^ 32
      let i := (b k).toNat % 2 ^ 32
      let n := (c k).toNat % 2 ^ 32
      let q := 2 ^ o.cc.toNat
      ∃ U, E ≤ q * U ∧ q * U < E + q ∧
        let st := if n = 0 ∨ n ≤ i then E else min (q * (i * U / n)) E
        let en := if n = 0 ∨ n ≤ i then E else min (q * ((i + 1) * U / n)) E
        (d k).toNat = 2 ^ 32 * (en - st) + ((a k).toNat % 2 ^ 32 + st) % 2 ^ 32) ∧
  (∀ (s : State) (h : Hdr) (o : OpsX) (k : LaneId) (v : Word), Clear s h → Takes s h o.dst → IssuesIn s h o.ls o.lane k →
    srcG (s.fl.lane k) (.g (srcReg o.sa)) = .ok v →
    (2 ^ 32 ≤ v.toNat → OnceTraps (.cancel h o) s h k .illegal (BitVec.ofNat 64 (srcReg o.sa).toNat)) ∧
    (v.toNat < 2 ^ 32 → OnceAs (.cancel h o) s
      { s with tokens := s.tokens ++ [(s.fl.ctx, if v = 0 then s.fl.ginst else v.setWidth 32)] } h o.dst .none)) ∧
  (∀ (s : State) (ctx : BitVec 6) (inst : BitVec 32) (p : Sender), p.gen ≠ s.podgen →
    NotCurrent (.cancelTokenArrival ctx ⟨inst, some p⟩) s p.pkg) ∧
  (∀ (s : State) (ctx : BitVec 6) (inst : BitVec 32) (src : Option Sender),
    (∀ p, src = some p → p.gen = s.podgen) → ∃ (t : State) (on : List (BitVec 10)), exec (.cancelTokenArrival ctx ⟨inst, src⟩) s = .next t ∧
    (∀ a, readByte t a = readByte s a) ∧ t.tokens = (if src = none then s.tokens.erase (ctx, inst) else s.tokens) ∧
    t.outbox = s.outbox ++ on.map (fun p => Message.cancel p s.podgen ctx inst) ∧
    (∀ p, p ∈ on ↔ p ∈ otherMembers s ∧ HoldsInstance s ctx inst p ∧ ∀ q, src = some q → p ≠ q.pkg) ∧
    ((ctxOf s ctx).live = true → (∃ f ∈ allFlights s, f.ctx = ctx ∧ f.ginst = inst) → inst ∈ (ctxOf t ctx).cancels ∧
      (∀ f, f ∈ allFlights t → f.ctx = ctx → f.ginst = inst → f.ending ≠ none) ∧
      ∀ g ∈ t.grids, g.ctx = ctx → (g.words.getD 13 0).extractLsb' 32 32 = inst → ∀ m ∈ g.members, m.retired = false →
        m.cause ≠ none)) ∧
  (∀ (s : State) (f : FlightId) (x : Flight) (ws : List Word) (rest : List (List Word)), flightOf s f = some x →
    x.launches = ws :: rest → ∃ t y, exec (.recordAccept (.flight f)) s = .next t ∧ flightOf t f = some y ∧ y.launches = rest ∧
      (∀ a, readByte t a = readByte s a) ∧
      let cut := (ws.getD 13 0).extractLsb' 32 32 ∈ (ctxOf s x.ctx).cancels
      (cut → t.grids.length = s.grids.length ∧ IsDue t (ws.getD 12 0) (some .cancelled)) ∧
      let domain := launchDomain x ((ws.getD 0 0).toNat / 2 ^ 52 % 16)
      let gang := (ws.getD 0 0).getLsbD 63 = true
      let units := ((ws.getD 0 0).toNat % 2 ^ 16 + 1) * ((ws.getD 0 0).toNat / 2 ^ 16 % 2 ^ 16 + 1)
      (¬cut → gang → gangCapacity s ws domain false < units → t.grids.length = s.grids.length ∧
        IsDue t (ws.getD 12 0) (some .illegal)) ∧
      (¬cut → (gang → units ≤ gangCapacity s ws domain false) → ∃ g, t.grids = s.grids ++ [g] ∧
        NewGrid g ws x.ctx domain x.member (lineOfMember s x.member) false)) ∧
  ∀ (s : State) (ws : List Word) (h : Word),
    let ctx := h.extractLsb' 58 6
    let m := (ws.getD 0 0).toNat / 2 ^ 52 % 16
    let c := (ctxOf s ctx).inst
    let inst := if c + 1 = 0 then 1 else c + 1
    ws.length = 16 → (ctxOf s ctx).live = true → m ≤ 5 → (h.extractLsb' 54 4).toNat = (if m = 5 then 5 else m + 1) →
    unitOk s ⟨(h.extractLsb' 54 4).toNat, (h.extractLsb' 46 8).toNat⟩ = true →
    (∀ i, ¬RecordBad ((ws.set 13 ((ws.getD 13 0) &&& 0xFFFFFFFF0000FFFF)).set 14 ((ws.getD 14 0) &&& 0xFF0000000000)) m i) →
    (ws.getD 12 0).toNat % 8 = 0 → (ws.getD 0 0).getLsbD 63 = false →
    (∀ i ∈ (ctxOf s ctx).cancels, i ≠ inst) →
    let taken := fun (t : State) (fw : Bool) => (ctxOf t ctx).inst = inst ∧ ∃ r g,
      CompletedRecord ws r m m 0 inst ((ws.getD 13 0).extractLsb' 16 16) ∧ t.grids = s.grids ++ [g] ∧
        NewGrid g r ctx ⟨(h.extractLsb' 54 4).toNat, (h.extractLsb' 46 8).toNat⟩ none [] fw
    (∃ t, exec (.recordAccept (.firmware ws h)) s = .next t ∧ taken t true) ∧
    ((∃ tail : Word, s.lqTail = some tail ∧ tail.setWidth 32 ≠ s.lqPos) → readWords s (mainKey (lqSlot s)) 16 = ws →
      readWord s (mainKey (lqSlot s + 128)) = h →
      (h.setWidth 32 = s.lqPos → ∃ t, exec (.recordAccept .host) s = .next t ∧ taken t false ∧ t.lqPos = s.lqPos + 1 ∧
        readWord t (mainKey ((s.host.lqctl.extractLsb' 0 48).toNat + 8)) = (s.lqPos + 1).setWidth 64) ∧
      (h.setWidth 32 ≠ s.lqPos → ∃ t, exec (.recordAccept .host) s = .next t ∧ t.grids = s.grids ∧ t.lqPos = s.lqPos + 1 ∧
        readWord t (mainKey ((s.host.lqctl.extractLsb' 0 48).toNat + 8)) = (s.lqPos + 1).setWidth 64))

/-- MEMBER_PLACE, IMAGE_LOAD and MEMBER_RETIRE (R8, R127, R191, R271, R273, R275, R283 to R285, R287 to R289, R368): which grid is placed
next, the leader that a member gets or the package that it goes to, a gang placed whole or not at all; the checks of an image, the segments,
hall data and gallery data that it brings, and its failure, which is the grid's; what a member waits for before it retires. The model's
choice: what makes a unit free and which has the most free slots where the spec does not say (`chooseUnit`, `placeable`), and that one
member or one gang is placed in a step (log entry 23); that a member which goes to another package is sent to it with its record, and which
package has the most free slots (log entry 10). -/
def Obligations.Placements : Prop :=
  (∀ (s : State) (us : List HwUnit) (u : HwUnit), mostFree s us = some u →
    (∀ v ∈ us, freeSlots s v ≤ freeSlots s u) ∧ ∃ pre post, us = pre ++ u :: post ∧ ∀ v ∈ pre, freeSlots s v < freeSlots s u) ∧
  (∀ (s : State) (n : HwUnit) (g : Grid), placeTurn s n = some g →
    let waits := fun (x : Grid) => newelOf x.domain = n ∧ unplaced x ≠ [] ∧ x.stopped = false ∧
      recInst x.words ∉ (ctxOf s x.ctx).cancels
    waits g ∧ placeable s g = true ∧ ((∀ x ∈ s.grids, x.pri < 4) → (∀ x ∈ s.grids, waits x → x.pri ≤ g.pri) ∧
      ∃ pre post, s.grids = pre ++ g :: post ∧ ∀ x ∈ pre, waits x → x.pri = g.pri → placeable s x = false)) ∧
  (∀ (s : State) (g : Grid), gridById s g.id = some g →
    (∀ x ∈ s.grids, ∀ y ∈ s.grids, x.id = y.id → x = y) → (recInst g.words) ∉ (ctxOf s g.ctx).cancels → g.stopped = false →
    (placeTurn s (newelOf g.domain) ≠ some g → exec (.memberPlace g.id) s = .next s) ∧
    (placeTurn s (newelOf g.domain) = some g → g.redo = [] → 0 < recMemb g.words → g.next < recTeams g.words * recMemb g.words →
      ((g.words.getD 0 0).getLsbD 63 = true → ∃ t x, exec (.memberPlace g.id) s = .next t ∧
        gridById t g.id = some x ∧ x.next = recTeams g.words * recMemb g.words ∧
        ∀ i, g.next ≤ i → i < recTeams g.words * recMemb g.words →
          ∃ y ∈ x.members, y.team = i / recMemb g.words ∧ y.mem = i % recMemb g.words ∧ y.retired = false ∧ y.cause = none) ∧
      ((g.words.getD 0 0).getLsbD 63 = false →
        let team := g.next / recMemb g.words
        let mem := g.next % recMemb g.words
        (∀ u p, chooseUnit s g team = some (u, .peer p) → ∃ t x y, exec (.memberPlace g.id) s = .next t ∧
          (∀ a, readByte t a = readByte s a) ∧ gridById t g.id = some x ∧ y ∈ x.members ∧ y.team = team ∧ y.mem = mem ∧ y.unit = u ∧
          y.leader = none ∧ y.peer = some p ∧ y.retired = false ∧ y.cause = none ∧ x.next = g.next + 1 ∧
          t.outbox = s.outbox ++ [.place p s.podgen g.ctx g.id team mem g.words]) ∧
        ∀ u core num slot, chooseUnit s g team = some (u, .core core) → freeNum s core = some num → freeSlot s core = some slot →
          let id : FlightId := ⟨core / 48, core % 48, num⟩
          ∃ t x y f, exec (.memberPlace g.id) s = .next t ∧ (∀ a, readByte t a = readByte s a) ∧ gridById t g.id = some x ∧
            y ∈ x.members ∧ y.team = team ∧ y.mem = mem ∧ y.unit = u ∧ y.leader = some id ∧ y.peer = none ∧ y.retired = false ∧
            y.cause = none ∧
            x.next = g.next + 1 ∧ flightOf t id = some f ∧ f.slot = some slot ∧ f.ctx = g.ctx ∧ f.priv = g.firmware ∧ f.mm = false ∧
            f.hnd = false ∧ f.run = none ∧ f.ginst = recInst g.words ∧ f.member = some ⟨g.id, team, mem⟩ ∧
            f.level.toNat = recLvl g.words % 16 ∧ f.depth = recDepth g.words ∧ f.launches = [] ∧
            f.teamidx.toNat = 2 ^ 32 * (team % 2 ^ 16) + mem % 2 ^ 16 ∧
            ∀ k : LaneId, (recLanes g.words ≤ k.val → (f.lane k).st = .exited) ∧
              (k.val < recLanes g.words → (f.lane k).st = .ready ∧
                (f.lane k).pc.toNat = 8 * ((g.words.getD 1 0).toNat / 8 % 2 ^ 14) ∧
                (f.lane k).lat = .stale ∧ (f.lane k).p = 1 ∧ (f.lane k).v = Vector.replicate 32 0 ∧
                ∀ i : BitVec 6, (f.lane k).getG i = if 1 ≤ i.toNat ∧ i.toNat ≤ 6 then g.words.getD (5 + i.toNat) 0 else 0)))) ∧
  (∀ (s : State) (y : Flight) (r : MemberRef) (g : Grid) (m : Member), flightOf s y.id = some y →
    (allFlights s).Pairwise (fun a b => a.id ≠ b.id) →
    y.awaitImage = some [] → y.member = some r → gridById s r.grid = some g → memberOf s r = some m → m.cause = none →
    m.retired = false → m.leader = some y.id →
    let ends := fun (c : Cause) => ∃ t n z, exec (.imageLoad y.id) s = .next t ∧ memberOf t r = some n ∧ n.cause = some c ∧
      flightOf t y.id = some z ∧ z.awaitImage = none ∧ (Intact s → ∀ a, readByte t a = readByte s a)
    let fails := fun (c : Cause) => ends c ∧ ∀ t, exec (.imageLoad y.id) s = .next t → ∃ x, gridById t r.grid = some x ∧
      x.loadFail = some c ∧ ∀ n ∈ x.members, n.retired = false → n.leader ≠ none → n.cause ≠ none
    (∀ c, g.loadFail = some c → ends c) ∧
    (g.loadFail = none → ∀ bs : List Byte, mainBytes s g.ctx (imageHandle (imageSrc g 0)) 64 = .ok bs → bs.length = 64 →
      let word := fun (i : Nat) => bytesToNat ((bs.drop (8 * i)).take 8)
      let slot := (g.words.getD 1 0).toNat / 8 % 2 ^ 14 / 512
      let img := (g.words.getD 0 0).getLsbD 58
      let hlen := word 1 % 2 ^ 19
      let hbase := word 1 / 2 ^ 32 % 2 ^ 19
      let glen := word 2 % 2 ^ 23
      let gbase := word 2 / 2 ^ 32 % 2 ^ 23
      let core := y.id.coreNo
      let cluster := y.id.clusterNo
      (word 0 / 2 ^ slot % 2 = 0 → fails .illegal) ∧
      (word 0 / 2 ^ slot % 2 = 1 → img = true → (0x60000 < hbase + hlen ∨ 0x600000 < gbase + glen) → fails .bounds) ∧
      (word 0 / 2 ^ slot % 2 = 1 → img = false → slotFrom s core slot (imageSrc g 0) = true →
        ∃ t z, exec (.imageLoad y.id) s = .next t ∧ flightOf t y.id = some z ∧ z = { y with awaitImage := none }) ∧
      (word 0 / 2 ^ slot % 2 = 1 → (img = true → hbase + hlen ≤ 0x60000 ∧ gbase + glen ≤ 0x600000) → Intact s →
        let place := fun (j : Nat) => 64 + 4096 * ((List.range j).filter fun i => decide (word 0 / 2 ^ i % 2 = 1)).length
        let read := fun (off len : Nat) (ys : List Byte) =>
          mainBytes s g.ctx (imageHandle (imageSrc g off)) len = .ok ys ∧ ys.length = len
        let want := fun (j : Nat) => j < 32 ∧ (if img then word 0 / 2 ^ j % 2 = 1 else j = slot) ∧
          slotFrom s core j (imageSrc g 0) = false
        let hall := img = true ∧ core ∉ g.hallDone
        let gallery := img = true ∧ cluster ∉ g.galDone
        ∀ (B : Nat → List Byte) (H G : List Byte), (∀ j, want j → read (place j) 4096 (B j)) →
          (hall → read (place 32) hlen H) → (gallery → read (place 32 + (hlen + 63) / 64 * 64) glen G) →
          let inHall := fun (a : Nat) => hall ∧ hallKey core hbase ≤ a ∧ a < hallKey core hbase + hlen
          let inGallery := fun (a : Nat) => gallery ∧ galleryKey cluster gbase ≤ a ∧ a < galleryKey cluster gbase + glen
          (∀ a, inHall a ∨ inGallery a → (lineSt s (lineOf a)).owner = none ∨ (lineSt s (lineOf a)).owner = some g.ctx) →
          ∃ t z, exec (.imageLoad y.id) s = .next t ∧ flightOf t y.id = some z ∧ z = { y with awaitImage := none } ∧
            (∀ j, want j → (coreOf t core).slots.get (Fin.ofNat 32 j) = .present ∧
              ∀ i, i < 4096 → some (readByte t (storeKey core (4096 * j) + i)) = (B j)[i]?) ∧
            (hall → ∀ i, i < hlen → some (readByte t (hallKey core hbase + i)) = H[i]?) ∧
            (gallery → ∀ i, i < glen → some (readByte t (galleryKey cluster gbase + i)) = G[i]?) ∧
            (∀ a, inHall a ∨ inGallery a → (lineSt t (lineOf a)).owner = some g.ctx ∧
              (lineSt t (lineOf a)).p = (lineSt s (lineOf a)).p ∧ (lineSt t (lineOf a)).c = (lineSt s (lineOf a)).c) ∧
            ∀ a, (∀ j, want j → a < storeKey core (4096 * j) ∨ storeKey core (4096 * j) + 4096 ≤ a) →
              (∀ b, lineOf b = lineOf a → ¬inHall b ∧ ¬inGallery b) → readByte t a = readByte s a))) ∧
  (∀ (s : State) (r : MemberRef) (p : PeerRetired), p.gen ≠ s.podgen →
    NotCurrent (.memberRetire r.grid r.team ⟨r.mem, some p⟩) s p.pkg) ∧
  (∀ (s : State) (r : MemberRef) (m : Member) (p : PeerRetired) (c : Cause), memberOf s r = some m → m.retired = false →
    m.peer = some p.pkg → p.gen = s.podgen → m.cause = none →
    exec (.memberRetire r.grid r.team ⟨r.mem, none⟩) s = .next s ∧
    ∃ t, exec (.memberRetire r.grid r.team ⟨r.mem, some p⟩) s = .next t ∧ (∀ a, readByte t a = readByte s a) ∧
      (gridById t r.grid = none ∨ ∃ n, memberOf t r = some n ∧ n.retired = true ∧ (p.cause = some c.code → n.cause = some c))) ∧
  ∀ (s : State) (r : MemberRef) (m : Member) (f : FlightId) (x : Flight), memberOf s r = some m → m.retired = false →
    m.peer = none → m.leader = some f → flightOf s f = some x → x.member = some r →
    ((∃ k, (x.lane k).st ≠ .exited) ∨ x.launches ≠ [] ∨ (∃ c ∈ s.cmds, c.flight = f) ∨
      (∃ g ∈ s.grids, g.parent = some r ∧ (g.words.getD 0 0).getLsbD 59 = false) →
      exec (.memberRetire r.grid r.team ⟨r.mem, none⟩) s = .next s) ∧
    ((∀ k, (x.lane k).st = .exited) → x.launches = [] → (∀ c ∈ s.cmds, c.flight ≠ f) → x.held = [] →
      (∀ o ∈ s.outstanding, ∀ k, o.owner ≠ .store f k) →
      (∀ g ∈ s.grids, g.parent = some r → (g.words.getD 0 0).getLsbD 59 = true) →
      ∃ t, exec (.memberRetire r.grid r.team ⟨r.mem, none⟩) s = .next t ∧ (∀ a, readByte t a = readByte s a) ∧
        ((∃ n, memberOf t r = some n ∧ n.retired = true) ∨ gridById t r.grid = none) ∧
        (∀ e, ∀ op ∈ (coreOf t f.coreNo).grid.get e, op.flight ≠ f) ∧
        (∀ g p id, gridById s r.grid = some g → g.home = some (p, id) →
          ∃ c, Message.retired p s.podgen id r.team r.mem c ∈ t.outbox) ∧
        ∀ g, gridById s r.grid = some g → gridById t r.grid = none → g.home = none → g.cause = none → g.childFail = [] →
          (∀ n ∈ g.members, n.cause = none) → recInst g.words ∉ (ctxOf s g.ctx).cancels → IsDue t (g.words.getD 12 0) none ∧
            (g.firmware = true → g.words.getD 12 0 ≠ 0 → Message.firmwareJoin g.ctx (g.words.getD 12 0) none ∈ t.outbox))

/-- FINIT, FRES, FFAIL, FPOLL and FWAIT (R43, R295 to R300, R302): the descriptor, the state table, the walk from the old HEAD, and the
end of a park of FWAIT. The model's choice: TVAL is 0 for a group past g63 (log entry 18). -/
def Obligations.Futures : Prop :=
  (∀ (s : State) (h : Hdr) (o : OpsX) (k : LaneId), Clear s h → Takes s h o.dst → scopeCheck s s.fl o.scope = .ok () →
    IssuesIn s h o.ls o.lane k → (srcReg o.sa).toNat = 63 →
    ∀ i ∈ [Instr.finit h o, .fres h o, .ffail h o, .fpoll h o, .fwait h o], OnceTraps i s h k .illegal 0) ∧
  (∀ (s : State) (h : Hdr) (o : OpsX) (k : LaneId) (addr desc : Word), Clear s h → Takes s h o.dst →
    scopeCheck s s.fl o.scope = .ok () → IssuesIn s h o.ls o.lane k → s.fl.live = true →
    (srcReg o.sa).toNat < 63 → srcG (s.fl.lane k) (.g (srcReg o.sa)) = .ok addr →
    srcG (s.fl.lane k) (.g (BitVec.ofNat 6 ((srcReg o.sa).toNat + 1))) = .ok desc →
    let n := desc.extractLsb' 16 13
    let v := desc.extractLsb' 32 8
    let sp := descSpace desc
    let s1 := noteScope s s.fl o.scope
    let plain := desc.extractLsb' 40 24 = 0 ∧ desc.extractLsb' 29 3 = 0 ∧ desc.extractLsb' 2 14 = 0
    let quiet := fun (key : Nat) => (∀ x ∈ s.fl.held, x.lane ≠ k) ∧ (sp ≠ .m → s.fl.priv = false →
      (lineSt s (lineOf key)).owner = none → ∀ b, lineOf b = lineOf key → readByte s b = 0)
    let fails := fun (i : Instr) (acc : Acc) => Intact s →
      (∀ c tv, probes s1 s.fl acc false = acc.elems.map (fun e => (e, .trap c tv)) → OnceTraps i s h k c tv) ∧
      ∀ kind va, probes s1 s.fl acc false = acc.elems.map (fun e => (e, .fault kind va)) →
        OnceTraps i s h k .pageFault addr ∧ (MayTrap s → ∀ t, exec i s = .next t →
          t.faultWait = s.faultWait ++ [faultRecord s s.fl.ctx s.fl.id false k.val 3 2 kind addr va 0])
    (∀ p ∈ [(Instr.finit h o, FutOp.init n v, decide (n ≠ 0)), (.fres h o, .res, decide (n = 0 ∧ v = 0)),
        (.ffail h o, .fail v, decide (n = 0 ∧ v ≠ 0))],
      let acc := futAcc sp addr true o.dst h.w
      (¬(plain ∧ p.2.2 = true) → OnceTraps p.1 s h k .illegal desc) ∧
      (plain → p.2.2 = true → o.ord.getLsbD 1 = true → (∃ j, Acts s h j ∧ ¬Settled s j) → ∃ st, Stalls p.1 s st) ∧
      (plain → p.2.2 = true → (o.ord.getLsbD 1 = true → ∀ j, Acts s h j → Settled s j) → fails p.1 acc ∧
        ∀ key, Reaches s1 s.fl acc false (fun _ => key) → quiet key →
          let old := readWord s key
          (4 ≤ old.toNat / 2 ^ 61 → OnceTraps p.1 s h k .illegal old) ∧
          (old.toNat / 2 ^ 61 < 4 →
            (futTable p.2.1 old (sp == .m) = none → OnceTraps p.1 s h k .futureOverresolve old) ∧
            ∀ w walk, futTable p.2.1 old (sp == .m) = some (w, walk) → ∃ u, FutureSet s u key w ∧
              OnceAs p.1 s (if walk then walkFuture u s.fl.ctx s.fl.id.die (s.fl.ginst.setWidth 64) old else u) h o.dst (.gen old)))) ∧
    let acc := futAcc sp addr false o.dst h.w
    (¬(plain ∧ n = 0 ∧ v = 0) → OnceTraps (.fpoll h o) s h k .illegal desc ∧ OnceTraps (.fwait h o) s h k .illegal desc) ∧
    (plain → n = 0 → v = 0 → fails (.fpoll h o) acc ∧
      (Intact s → (∀ c tv, probes s1 s.fl acc false = acc.elems.map (fun e => (e, .trap c tv)) → OnceTraps (.fwait h o) s h k c tv) ∧
        ∀ kind va, probes s1 s.fl acc false = acc.elems.map (fun e => (e, .fault kind va)) → ∃ u,
          u = { s with contexts := u.contexts, fresh := u.fresh,
                       faultWait := s.faultWait ++ [faultRecord s s.fl.ctx s.fl.id false k.val 3 2 kind addr va 0] } ∧
          Parks (.fwait h o) s u h fun _ => .future sp addr o.dst h.w (active s h) k [⟨va.extractLsb' 16 32, none⟩]) ∧
      ∀ key, Reaches s1 s.fl acc false (fun _ => key) → quiet key →
        let old := readWord s key
        let ended := old.toNat / 2 ^ 61 = 2 ∨ old.toNat / 2 ^ 61 = 3
        ∃ u, u = { s with contexts := u.contexts, fresh := u.fresh } ∧
          (4 ≤ old.toNat / 2 ^ 61 → OnceTraps (.fpoll h o) s h k .illegal old ∧ OnceTraps (.fwait h o) s h k .illegal old) ∧
          (old.toNat / 2 ^ 61 < 4 → OnceAs (.fpoll h o) s u h o.dst (.gen old) ∧
            (ended → OnceAs (.fwait h o) s u h o.dst (.gen old)) ∧
            (¬ended → Parks (.fwait h o) s u h fun _ => .future sp addr o.dst h.w (active s h) k [])))) ∧
  ∀ (s : State) (id : FlightId) (f : Flight) (k k0 : LaneId) (sp : MSpace) (addr : Word) (d : Dst) (w : Bool) (set : LaneSet)
    (key : Nat), flightOf s id = some f → (f.lane k).st = .parked (.future sp addr d w set k0 []) → sp ∈ [MSpace.h, .g, .z, .m] →
    Reaches s f (futAcc sp addr false d w) false (fun _ => key) → (∀ x ∈ f.held, x.lane ≠ k0) →
    (sp ≠ .m → f.priv = false → (lineSt s (lineOf key)).owner ≠ none) →
    let now := (readWord s key).toNat / 2 ^ 61
    (now < 2 → exec (.laneResume id k) s = .next s) ∧
    (now = 2 ∨ now = 3 →
      WakesAll s (.laneResume id k) id f set (.future sp addr d w set k0 []) d w (.gen (readWord s key)))

/-- FREG, the walk and the records of the pool (R272, R299, R300, R303 to R306, R390): FREG's checks, what it writes, the decrement of
WAIT and the launch of a record whose WAIT has reached 0. Every access to the pool reads the context's tables (`poolNote`). The model's
choice: which slot register TVAL names for one slot in both (log entry 20), the walk ends after as many links as the pool has slots
(log entry 22), and a group past g63 has TVAL 0 (log entry 18). -/
def Obligations.Continuations : Prop :=
  (∀ (s : State) (h : Hdr) (o : OpsX) (k : LaneId), Clear s h → Takes s h o.dst → scopeCheck s s.fl o.scope = .ok () →
    IssuesIn s h o.ls o.lane k → 62 ≤ (srcReg o.sa).toNat → OnceTraps (.freg h o) s h k .illegal 0) ∧
  (∀ (s : State) (h : Hdr) (o : OpsX) (k : LaneId) (addr desc link rec_ : Word), Clear s h → Takes s h o.dst → o.scope.toNat < 16 →
    scopeCheck s s.fl o.scope = .ok () → IssuesIn s h o.ls o.lane k → s.fl.live = true → (srcReg o.sa).toNat < 62 →
    (∀ p ∈ [(0, addr), (1, desc), (2, link)], srcG (s.fl.lane k) (.g (BitVec.ofNat 6 ((srcReg o.sa).toNat + p.1))) = .ok p.2) →
    srcG (s.fl.lane k) o.sb = .ok rec_ →
    let i := Instr.freg h o
    let S := (((ctxOf s s.fl.ctx).word 3).toNat % 2 ^ 32)
    let good := fun (w : Word) => 0 < w.toNat ∧ w.toNat < S
    let slotAt := fun (n : Word) => poolHandle s s.fl.ctx n.toNat
    let acc := futAcc .m addr true o.dst h.w
    (desc ≠ 3 → OnceTraps i s h k .illegal desc) ∧
    (desc = 3 → good link → ¬good rec_ → OnceTraps i s h k .illegal (BitVec.ofNat 64 (srcReg o.sb).toNat)) ∧
    (desc = 3 → good rec_ → (¬good link ∨ link = rec_) → OnceTraps i s h k .illegal (BitVec.ofNat 64 ((srcReg o.sa).toNat + 2))) ∧
    (desc = 3 → good rec_ → good link → link ≠ rec_ →
      (resolveLevel s.fl o.lvl = none → AllTrap i s h .illegal (o.lvl.setWidth 64)) ∧
      (∀ m, resolveLevel s.fl o.lvl = some m → s.fl.level.toNat < m → OnceTraps i s h k .illegal (o.lvl.setWidth 64)) ∧
      ∀ m, resolveLevel s.fl o.lvl = some m → m ≤ s.fl.level.toNat →
        (10 ≤ s.fl.depth → s.fl.depth < 2 ^ 64 → OnceTraps i s h k .launchDepth (BitVec.ofNat 64 s.fl.depth)) ∧
        (s.fl.depth < 10 → (o.ord.getLsbD 1 = true → ∀ j, Acts s h j → Settled s j) →
          ∀ key, Reaches s s.fl acc false (fun _ => key) → (∀ x ∈ s.fl.held, x.lane ≠ k) →
            let old := readWord s key
            let st := old.toNat / 2 ^ 61
            ((st = 0 ∨ 4 ≤ st) → OnceTraps i s h k .illegal old) ∧
            (1 ≤ st → st < 4 →
              (Intact s → ∀ c, poolAccess s s.fl.ctx rec_.toNat 0 64 .rd true = .error c → OnceTraps i s h k c (slotAt rec_)) ∧
              ∀ p0 p1 w0 w13 l, poolAccess s s.fl.ctx rec_.toNat 0 64 .rd true = .ok p0 →
                poolAccess s s.fl.ctx rec_.toNat 64 64 .rd true = .ok p1 → poolAccess s s.fl.ctx rec_.toNat 0 8 .wr true = .ok w0 →
                poolAccess s s.fl.ctx rec_.toNat 104 8 .wr true = .ok w13 →
                (w0 + 8 ≤ w13 ∨ w13 + 8 ≤ w0) → (∀ x ∈ [w0, w13], x + 8 ≤ key ∨ key + 8 ≤ x) →
                (∀ x ∈ [p0, p1], x + 64 ≤ key ∨ key + 8 ≤ x) → (∀ x ∈ [w0, w13], lineOf x = lineOf (x + 7)) →
                (st = 1 → (Intact s → ∀ c, poolAccess s s.fl.ctx link.toNat 0 16 .wr true = .error c → OnceTraps i s h k c (slotAt link)) ∧
                  (poolAccess s s.fl.ctx link.toNat 0 16 .wr true = .ok l →
                    (∀ x ∈ [w0, w13, key], x + 8 ≤ l ∨ l + 16 ≤ x) →
                    ∃ u, Registered s u rec_.toNat m (p0, p1, w0, w13, l) (some (l, BitVec.ofNat 64 (old.toNat % 2 ^ 40))) ∧
                      (readWord u key).toNat = old.toNat / 2 ^ 40 * 2 ^ 40 + link.toNat % 2 ^ 40 ∧
                      (∀ b, (∀ x ∈ [(w0, 8), (w13, 8), (l, 16), (key, 8)], b < x.1 ∨ x.1 + x.2 ≤ b) → readByte u b = readByte s b) ∧
                      OnceAs i s u h o.dst (.gen old))) ∧
                (st ≠ 1 → ∃ u, Registered s u rec_.toNat m (p0, p1, w0, w13, 0) none ∧
                  (∀ b, (∀ x ∈ [(w0, 8), (w13, 8)], b < x.1 ∨ x.1 + x.2 ≤ b) → readByte u b = readByte s b) ∧
                  OnceAs i s (decRecord u s.fl.ctx s.fl.id.die rec_.toNat (s.fl.ginst.setWidth 64)) h o.dst (.gen old)))))) ∧
  ∀ (s : State) (ctx : BitVec 6) (die : Nat) (tag : Word),
    let handle := fun (n : Nat) => BitVec.ofNat 64 (((ctxOf s ctx).word 3).toNat / 2 ^ 52 * 2 ^ 52 + 128 * n % 2 ^ 52)
    (∀ old, walkFuture s ctx die tag old = walkLinks ctx die tag (((ctxOf s ctx).word 3).toNat % 2 ^ 32) s (old.toNat % 2 ^ 40)) ∧
    (∀ n link, link ≠ 0 →
      let u := poolNote s ctx die [(link, 0, 16, .rd)]
      (∀ c, poolAccess s ctx link 0 16 .rd true = .error c → walkLinks ctx die tag (n + 1) s link =
        newelReport u ctx die c.code (handle link) 0 tag) ∧
      ∀ key, poolAccess s ctx link 0 16 .rd true = .ok key → u = { s with contexts := u.contexts, fresh := u.fresh } ∧
        walkLinks ctx die tag (n + 1) s link = walkLinks ctx die tag n (decRecord u ctx die ((readWord s (key + 8)).toNat % 2 ^ 40) tag) ((readWord s key).toNat % 2 ^ 40)) ∧
    (∀ n, walkLinks ctx die tag n s 0 = s) ∧
    ∀ slot key, poolAccess s ctx slot 112 8 .rd true = .ok key → poolAccess s ctx slot 112 8 .wr true = .ok key →
      let n := (readWord s key).toNat / 2 ^ 48
      (n = 0 → decRecord s ctx die slot tag = newelReport (poolNote s ctx die [(slot, 112, 8, .rd), (slot, 112, 8, .wr)]) ctx die
        Cause.illegal.code (handle slot) 0 tag) ∧
      (0 < n → ∃ u, u = { s with mem := u.mem, cmds := u.cmds, contexts := u.contexts, fresh := u.fresh } ∧
        (readWord u key).toNat = 2 ^ 48 * (n - 1) + (readWord s key).toNat % 2 ^ 48 ∧
        (∀ b, (b < key ∨ key + 8 ≤ b) → readByte u b = readByte s b) ∧
        (1 < n → decRecord s ctx die slot tag = u) ∧
        (n = 1 → decRecord s ctx die slot tag = launchCont u ctx die slot tag ∧
          ∀ a b c, poolAccess u ctx slot 0 64 .rd true = .ok a → poolAccess u ctx slot 64 64 .rd true = .ok b →
            let ws := readWords u a 8 ++ readWords u b 8
            let inst := (ws.getD 13 0).extractLsb' 32 32
            let m := (ws.getD 0 0).toNat / 2 ^ 52 % 16
            let rest := s.conts.filter fun x => !decide (x.ctx = ctx ∧ x.slot = slot)
            s.conts.find? (fun x => decide (x.ctx = ctx ∧ x.slot = slot)) = some c → m ≤ 5 →
            (∀ j, ¬RecordBad (ws.set 13 (ws.getD 13 0 &&& 0xFFFFFFFF0000FFFF)) m j) → (ws.getD 12 0).toNat % 8 = 0 →
            ∃ v : State, v = { u with contexts := v.contexts, fresh := v.fresh } ∧
              ((c.dropped = true ∨ inst ∈ (ctxOf s ctx).cancels) → launchCont u ctx die slot tag = { v with conts := rest }) ∧
              (c.dropped = false → inst ∉ (ctxOf s ctx).cancels → (ws.getD 0 0).getLsbD 63 = false → ∃ g,
                launchCont u ctx die slot tag = { v with conts := rest, uid := s.uid + 1, grids := s.grids ++ [g] } ∧
                NewGrid g ws ctx c.domain none c.line false)))

/-- PHREG, PHDROP, PHARR, PHWAIT, PHNEXT, PHSET and PHEXP (R307, R309 to R316): the reference word and the owner, and what each does
to the phaser, to the flight's registrations and to the waiters. A TVAL of 0 is R322's where R307 to R312 state none. The model's choice
(log entry 24): A of a new registration is its first counting phase less one, a PHEXP value that is not sign-extended is ILLEGAL, which
operations set TOUCH, the state of a phaser that is free, and when a condition of another package is known to hold; TVAL is 0 for a group
past g63 (log entry 18). -/
def Obligations.Phasers : Prop :=
  ∀ (s : State) (h : Hdr) (o : OpsX) (k : LaneId) (ref v : Word), Clear s h → Takes s h o.dst → IssuesIn s h o.ls o.lane k →
    s.fl.live = true → AllReady s → srcG (s.fl.lane k) (.g (srcReg o.sa)) = .ok ref → srcG (s.fl.lane k) o.sb = .ok v →
    ((srcReg o.sa).toNat = 63 → OnceTraps (.phexp h o) s h k .illegal 0) ∧
    (∀ i ∈ [Instr.phreg h o, .phdrop h o, .pharr h o, .phwait h o, .phnext h o, .phset h o] ++
        (if (srcReg o.sa).toNat < 63 then [.phexp h o] else []),
      (resolveLevel s.fl o.lvl = none → AllTrap i s h .illegal (o.lvl.setWidth 64)) ∧
      ∀ lvl, resolveLevel s.fl o.lvl = some lvl →
        (phaserCount lvl ≤ ref.toNat → OnceTraps i s h k .illegal 0) ∧
        (ref.toNat < phaserCount lvl → ∀ c, (phaserOf s (phaserKey s.fl lvl ref.toNat)).owner = some c → c ≠ s.fl.ctx →
          OnceTraps i s h k .owner ref)) ∧
    ∀ lvl key, PhaserAt s h o ref lvl key →
      let P := phaserOf s key
      let reg := s.fl.regOf key
      let word := fun (x : BitVec 32) => OnceVal.gen (x.setWidth 64)
      -- an arrival: the phase arrived for, and the phaser as it leaves it (R311)
      let ahead := fun (r : PhReg) => decide (r.a = P.phase)
      let ph := fun (r : PhReg) => if ahead r then P.phase + 1 else P.phase
      let arrived := fun (r : PhReg) => if ahead r then { P with arrn := P.arrn + 1, touch := true }
        else { P with arr := P.arr + 1, touch := true }
      let met := PodMet s key P 0
      let isArrival := fun (u : State) (r : PhReg) => PhaserDone s u key (arrived r) ∧
        (∃ c x y, u.fl.regOf key = some { r with a := ph r, counts := c, inArr := x, inArrn := y } ∧
          (¬(arrived r).Ends met → c = r.counts ∧ x = (r.inArr || !ahead r) ∧ y = (r.inArrn || ahead r))) ∧
        u.fl.phregs.length = s.fl.phregs.length
      (∀ i ∈ [Instr.pharr h o, .phnext h o],
        (reg = none → OnceTraps i s h k .illegal 0) ∧
        ∀ r, reg = some r →
          ((r.mode.getLsbD 0 = false ∨ i = .phnext h o ∧ r.mode ≠ 3) → OnceTraps i s h k .illegal 0) ∧
          (r.mode.getLsbD 0 = true → (i = .phnext h o → r.mode = 3) → r.a = P.phase + 1 →
            OnceTraps i s h k .illegal (P.phase.setWidth 64))) ∧
      (∀ r, reg = some r → r.mode.getLsbD 0 = true → r.a ≠ P.phase + 1 → P.owner ≠ none → ∃ u, isArrival u r ∧
        OnceAs (.pharr h o) s u h o.dst (word (ph r)) ∧
        (r.mode = 3 → let now := (phaserOf u key).phase
          ((now - (ph r + 1)).toNat < 2 ^ 31 → OnceAs (.phnext h o) s u h o.dst (word now)) ∧
          (¬(now - (ph r + 1)).toNat < 2 ^ 31 → ¬(arrived r).Ends met → Parks (.phnext h o) s u h fun _ => .phaser key (ph r + 1) o.dst h.w (active s h)))) ∧
      -- PHREG and PHDROP (R310)
      ((v = 0 ∨ 4 ≤ v.toNat ∨ reg ≠ none) → OnceTraps (.phreg h o) s h k .illegal 0) ∧
      (v ≠ 0 → v.toNat < 4 → reg = none →
        (8 ≤ s.fl.phregs.length → OnceTraps (.phreg h o) s h k .illegal 8) ∧
        (s.fl.phregs.length < 8 →
          (P.owner ≠ none → P.pod ≠ decide (lvl = 5) → OnceTraps (.phreg h o) s h k .illegal 0) ∧
          ((P.owner = none ∨ P.pod = decide (lvl = 5)) →
            let p : Phaser := if P.owner = none then { Phaser.blank with owner := some s.fl.ctx, pod := decide (lvl = 5) } else P
            let first := if p.arr = 0 then p.phase else p.phase + 1
            let q : Phaser := if v.getLsbD 0 = false then p else if p.arr = 0 then { p with nsig := p.nsig + 1 }
              else { p with regNext := p.regNext + 1 }
            ∃ u c, OnceAs (.phreg h o) s u h o.dst (word first) ∧ PhaserDone s u key q ∧
              u.fl.phregs = s.fl.phregs ++ [⟨key, v.setWidth 2, first - 1, c, false, false⟩] ∧
              (¬q.Ends (PodMet s key p 0) → c = decide (p.arr = 0))))) ∧
      (reg = none → OnceTraps (.phdrop h o) s h k .illegal 0) ∧
      (∀ r, reg = some r →
        let p : Phaser := if r.inArrn then { P with arrn := P.arrn - 1 } else P
        let q : Phaser := if r.mode.getLsbD 0 = false then P
          else if r.counts = false then { p with regNext := p.regNext - 1 }
          else if r.inArr then { p with dropNext := p.dropNext + 1 }
          else { p with nsig := p.nsig - 1 }
        ∃ u, OnceAs (.phdrop h o) s u h o.dst .none ∧ PhaserDone s u key q ∧ u.fl.regOf key = none ∧
          ∀ j, j ≠ key → u.fl.regOf j = s.fl.regOf j) ∧
      -- PHWAIT (R314), PHSET (R315) and PHEXP (R312)
      (let t : BitVec 32 := v.setWidth 32
       ((P.phase - t).toNat < 2 ^ 31 → OnceAs (.phwait h o) s s h o.dst (word P.phase)) ∧
       (¬(P.phase - t).toNat < 2 ^ 31 → Parks (.phwait h o) s s h fun _ => .phaser key t o.dst h.w (active s h)) ∧
       (¬(t - P.phase).toNat < 2 ^ 31 → s.fl.priv = false → OnceTraps (.phset h o) s h k .priv 0) ∧
       (t = P.phase → OnceAs (.phset h o) s s h o.dst .none) ∧
       (t ≠ P.phase → ((t - P.phase).toNat < 2 ^ 31 ∨ s.fl.priv = true) → ∃ u, OnceAs (.phset h o) s u h o.dst .none ∧
         (phaserUsed u key = true → phaserOf u key = { P with phase := t, arr := 0, arrn := 0, touch := false }) ∧
         (phaserUsed u key = false → phaserOf u key = Phaser.blank) ∧ (∀ j, j ≠ key → phaserOf u j = phaserOf s j) ∧
         (∀ a, readByte u a = readByte s a) ∧ (∀ j, j ≠ key → u.fl.regOf j = s.fl.regOf j) ∧
         (u.fl.regOf key = reg.map fun r => { r with inArr := false, inArrn := false }) ∧ Released s u key P.owner t)) ∧
      ∀ b, (srcReg o.sa).toNat < 63 → srcG (s.fl.lane k) (.g (BitVec.ofNat 6 ((srcReg o.sa).toNat + 1))) = .ok b →
        (v ≠ (v.extractLsb' 0 32).signExtend 64 → OnceTraps (.phexp h o) s h k .illegal 0) ∧
        (v = (v.extractLsb' 0 32).signExtend 64 → ∃ u, OnceAs (.phexp h o) s u h o.dst .none ∧
          PhaserDone s u key { P with expb := P.expb + b.setWidth 48, expm := P.expm + v.setWidth 32, touch := true } ∧
          ∀ j, ((u.fl.regOf j).map fun r => (r.mode, r.a)) = (s.fl.regOf j).map fun r => (r.mode, r.a))

/-- POD_PHASER_MESSAGE (R307, R313, R368), the end of a park on a phaser (R314), BAR and BAR_ARRIVE (R317, R318, R368). The model's choice:
what the packages of a group tell each other of a phaser in pod mode and how often each condition is told to hold (log entry 24), and that a
barrier of members in several packages is kept where its grid was accepted (log entry 10). -/
def Obligations.BarriersAndPhaserEvents : Prop :=
  (∀ (s : State) (ctx : BitVec 6) (num : BitVec 12) (pkg : BitVec 10) (gen : BitVec 32) (c : PodCond),
    let i := Instr.podPhaserMessage ctx num ⟨pkg, gen⟩ c
    let key : PhKey := ⟨4, 0, num.toNat⟩
    let P := phaserOf s key
    let old := (podKnown s.podPeers ctx num pkg).getD 0
    (gen ≠ s.podgen → NotCurrent i s pkg) ∧
    (gen = s.podgen → ∃ ps : List PodPeer,
      (podKnown ps ctx num pkg = match c with
        | .met => some (old + 1) | .unmet => some (old - 1) | .claimed => some old | .free => none) ∧
      (∀ x n p, ¬(x = ctx ∧ n = num ∧ p = pkg) → podKnown ps x n p = podKnown s.podPeers x n p) ∧
      (¬(P.owner = some ctx ∧ P.pod = true) → exec i s = .next { s with podPeers := ps }) ∧
      (P.owner = some ctx → P.pod = true → ∃ t, exec i s = .next t ∧ PhaserDone { s with podPeers := ps } t key P))) ∧
  (∀ (s : State) (id : FlightId) (f : Flight) (k : LaneId) (key : PhKey) (t : BitVec 32) (d : Dst) (w : Bool) (set : LaneSet),
    flightOf s id = some f → (f.lane k).st = .parked (.phaser key t d w set) → (phaserOf s key).owner = some f.ctx →
    let now := (phaserOf s key).phase
    ((now - t).toNat < 2 ^ 31 → WakesWith s id k f ((f.lane k).given d w (.gen (now.setWidth 64)))) ∧
    (¬(now - t).toNat < 2 ^ 31 → exec (.laneResume id k) s = .next s)) ∧
  (∀ (s : State) (h : Hdr) (o : OpsX), Clear s h →
    (resolveLevel s.fl o.lvl ≠ some s.fl.level.toNat → AllTrap (.bar h o) s h .illegal (o.lvl.setWidth 64)) ∧
    (resolveLevel s.fl o.lvl = some s.fl.level.toNat → (o.ord.getLsbD 1 = true → ∀ j, Acts s h j → Settled s j) →
      (∀ pc : Pc, (∃ j, (s.fl.lane j).st = .parked .bar) → (∀ j, (s.fl.lane j).st = .parked .bar → (s.fl.lane j).pc = pc) →
        (∀ k, Acts s h k → (s.fl.lane k).pc ≠ pc) → AllTrap (.bar h o) s h .illegal (pc.setWidth 64)) ∧
      ((∀ j k, (s.fl.lane j).st = .parked .bar → Acts s h k → (s.fl.lane k).pc = (s.fl.lane j).pc) →
        Parks (.bar h o) s s h fun _ => .bar))) ∧
  (∀ (s : State) (id : FlightId) (x : Flight), flightOf s id = some x →
    let i := Instr.barArrive (.flight id)
    let gathered := (∃ j, (x.lane j).st ≠ .exited) ∧ ∀ j, (x.lane j).st = .exited ∨ (x.lane j).st = .parked .bar
    (¬gathered → exec i s = .next s) ∧
    (gathered → x.member = none → ∃ t y, exec i s = .next t ∧ flightOf t id = some y ∧ PassedBar x y ∧
      ∀ a, readByte t a = readByte s a) ∧
    (gathered → ∀ r, x.member = some r → r.mem ∈ BarIn s r → exec i s = .next s) ∧
    (gathered → ∀ r g, x.member = some r → r.mem ∉ BarIn s r → gridById s r.grid = some g →
      (∀ p n, g.home = some (p, n) → ∃ t, exec i s = .next t ∧ BarIn t r = r.mem :: BarIn s r ∧
        t = { s with bars := t.bars, outbox := s.outbox ++ [.arrived p s.podgen n r.team r.mem] }) ∧
      (g.home = none → ArrivesAt i s r g))) ∧
  (∀ (s : State) (m : PeerMember), m.gen ≠ s.podgen →
    NotCurrent (.barArrive (.peer m)) s m.pkg ∧ NotCurrent (.barArrive (.passed m)) s m.pkg) ∧
  (∀ (s : State) (m : PeerMember) (g : Grid) (x : Member), m.gen = s.podgen →
    let r : MemberRef := ⟨m.grid, m.team, m.mem⟩
    gridById s m.grid = some g → memberOf s r = some x → x.peer = some m.pkg → x.retired = false →
    (r.mem ∈ BarIn s r → exec (.barArrive (.peer m)) s = .next s) ∧
    (r.mem ∉ BarIn s r → ArrivesAt (.barArrive (.peer m)) s r g)) ∧
  ∀ (s : State) (m : PeerMember) (r : MemberRef), m.gen = s.podgen → homeMember s m = some r →
    (r.mem ∉ BarIn s r → exec (.barArrive (.passed m)) s = .next s) ∧
    (r.mem ∈ BarIn s r → (∃ f ∈ allFlights s, f.member = some r) → ∃ t, exec (.barArrive (.passed m)) s = .next t ∧
      (∀ a, readByte t a = readByte s a) ∧ (∀ n, n ∈ BarIn t r ↔ n ∈ BarIn s r ∧ n ≠ r.mem) ∧ PassedFor s t fun z => z = r)

/-- Traps that wait for the grid, TRAP_ENTRY and FIRMWARE_SERVICE_ACTION (R191, R322 to R328): a trap with grid operations
outstanding is entered once they have drained; firmware ends the member, or reloads the missing slot and retries, which takes
CODE_ABSENT again where the slot of TPC is not PRESENT. What a nested cause ends is the member of the flight; that all targets count
as one set is log entry 7's reading. TFIX, RTE and RTE_GATHER_COMPLETE (R329 to R331): where they trap, what TFIX writes for every
trapped instruction that has a result, and what the return restores. TVAL 0 of the ILLEGAL traps is R322's. The model's choice (log
entry 25): the reload goes through the core's fetcher, whose end it waits for; RTE.SKIP goes to the next word, be it in the next slot,
if that is PRESENT; TFIX and RTE outside a handler trap over all of Active; TFIX writes a general register or a predicate only where
bit 0 of TEMASK is set. TINSN 0 of a return by service is log entry 5's. -/
def Obligations.TrapsAndHandlers : Prop :=
  ((∀ (s : State) (h : Hdr) (o : OpsB), Clear s h → gridOps s s.fl ≠ [] → repeating s = none →
     (∀ k, (issuing s).has k = true → (s.fl.lane k).st ≠ .exited) → (∃ k, Acts s h k) →
     ∃ t u, exec (.trap h o) s = .next t ∧ t.fl.pendTrap = some u ∧ t.fl.run = none ∧ t.fl.hnd = s.fl.hnd ∧ KeepsData s t ∧
       u.word = s.iw ∧ u.slot = false ∧ u.rep = false ∧ (∀ k, u.set.has k = true ↔ (issuing s).has k = true) ∧
       (∀ k, (trapAt u.traps k).isSome = true ↔ Acts s h k) ∧
       ∀ p ∈ u.traps, p.2.cause = .softwareTrap ∧ p.2.tval = BitVec.ofNat 64 (o.imm.toNat % 0x1000) ∧ p.2.temask = 1) ∧
   (∀ (s : State) (id : FlightId) (x : Flight), flightOf s id = some x → x.live = true →
     ((x.pendTrap = none ∨ gridOps s x ≠ []) → exec (.trapEntry id) s = .next s) ∧
     ∀ (u : TrapInfo) (c : Cause) (n : Word), x.pendTrap = some u → gridOps s x = [] → u.traps ≠ [] → (∀ p ∈ u.traps, p.2.cause = c) →
       (c = .softwareTrap → ∀ p ∈ u.traps, p.2.tval = n) →
       ∃ t y, exec (.trapEntry id) s = .next t ∧ flightOf t id = some y ∧ y.hnd = true ∧ y.pendTrap = none ∧ y.run = none ∧
         y.tcause = BitVec.ofBool x.hnd ++ BitVec.ofBool u.slot ++ c.code ∧ y.tinsn = u.word ∧ y.trapRep = u.rep ∧
         y.dphase = x.dphase ∧ (∀ k, y.tmask.has k = (trapAt u.traps k).isSome) ∧
         (∀ pc, (∃ k, u.set.has k = true) → (∀ k, u.set.has k = true → (x.lane k).pc = pc) → y.tpc = pc) ∧
         (¬HostTakes s x c ∨ Handled x c n → ∀ a, readByte t a = readByte s a) ∧ ∀ k : LaneId,
           let a := x.lane k
           let b := y.lane k
           b.prog = a.prog ∧
           (u.issue.has k = true → (∀ v, trapAt u.traps k = some v → b.temask = v.temask ∧ b.tval = v.tval) ∧
             (trapAt u.traps k = none → b.temask = 0 ∧ b.tval = 0)) ∧
           (u.issue.has k = false → b.temask = a.temask ∧ b.tval = a.tval) ∧
           (x.hnd = false → b.inS = u.set.has k ∧
             (u.set.has k = true → b.shadow = a.lat ∧ b.shPend = a.pend ∧ b.shPart = a.part ∧ b.shFix = none)) ∧
           (x.hnd = true → b.inS = a.inS ∧ b.shadow = a.shadow ∧ b.shPend = a.shPend ∧ b.shPart = a.shPart ∧ b.shFix = a.shFix) ∧
           (u.set.has k = false → b.st = a.st ∧ b.pc = a.pc) ∧
           (u.set.has k = true → (Handled x c n → b.st = .ready ∧ b.pc = tvecEntry x.tvec ∧ b.lat = .stale) ∧
             (¬Handled x c n → y.service = true ∧ b.st = .parked .service ∧ b.pc = a.pc))) ∧
   ∀ (s : State) (id : FlightId) (x : Flight) (c : Cause), flightOf s id = some x → x.tcause.extractLsb' 0 8 = c.code →
     ((x.service = false ∨ x.ending ≠ none ∨ HostTakes s x c) → exec (.firmwareServiceAction id) s = .next s) ∧
     (x.service = true → x.ending = none → ¬HostTakes s x c →
       ((x.tcause.getLsbD 9 = true ∨ c ≠ .codeAbsent) → (∀ r m, x.member = some r → memberOf s r = some m → m.leader = some id) →
         (∀ r, x.member = some r → memberOf s r ≠ none) →
         ∃ t, exec (.firmwareServiceAction id) s = .next t ∧ EndsWith s t id x c) ∧
       (x.tcause.getLsbD 9 = false → c = .codeAbsent → (∃ k, x.tmask.has k = true) →
         ∀ i : Nat, i < 32 → (∀ k, x.tmask.has k = true → (x.lane k).tval.toNat / 4096 = i) → x.tpc.toNat / 4096 = i →
           let C := coreOf s id.coreNo
           let st := C.slots.get (Fin.ofNat 32 i)
           (st = .present → ∃ t y, exec (.firmwareServiceAction id) s = .next t ∧ flightOf t id = some y ∧ Returns x false y ∧
             ∀ a, readByte t a = readByte s a) ∧
           (st ≠ .present → C.src.get (Fin.ofNat 32 i) = none → (∀ r m, x.member = some r → memberOf s r = some m → m.leader = some id) →
             (∀ r, x.member = some r → memberOf s r ≠ none) →
             ∃ t, exec (.firmwareServiceAction id) s = .next t ∧ EndsWith s t id x .codeAbsent) ∧
           (st = .absent → ∀ src, C.src.get (Fin.ofNat 32 i) = some src → C.fetches.length < 4 → (∀ f ∈ C.fetches, f.slot ≠ i) →
             ∃ t f, exec (.firmwareServiceAction id) s = .next t ∧ flightOf t id = some x ∧ (∀ a, readByte t a = readByte s a) ∧
               (coreOf t id.coreNo).fetches = C.fetches ++ [f] ∧ (coreOf t id.coreNo).slots = C.slots.set (Fin.ofNat 32 i) .loading ∧
               f.slot = i ∧ f.src = src ∧ f.fut = 0 ∧ f.reload = true)) ∧
       (x.tcause.getLsbD 9 = false → c = .codeAbsent → (∃ k, x.tmask.has k = true) → gridOps s x = [] → x.hnd = true → x.live = true →
         (∀ h o, decode x.tinsn ≠ .ok (.bra h o)) → (∀ h o, decode x.tinsn ≠ .ok (.brx h o)) →
         (∀ h o, decode x.tinsn ≠ .ok (.call h o)) → (∀ h o, decode x.tinsn ≠ .ok (.callx h o)) →
         let here := fun (n : Nat) => n < 0x20000 ∧ (coreOf s id.coreNo).slots.get (Fin.ofNat 32 (n / 4096)) = .present
         (∀ k, x.tmask.has k = true → here (x.lane k).tval.toNat) → ¬here x.tpc.toNat → (∃ k, (x.lane k).st = .parked .service) →
         ∃ t y, exec (.firmwareServiceAction id) s = .next t ∧ flightOf t id = some y ∧ y.tcause = 0x204 ∧ y.tinsn = 0 ∧ y.hnd = true ∧
           y.service = true ∧ ∀ k : LaneId, (y.lane k).prog = (x.lane k).prog ∧ (y.lane k).st = (x.lane k).st ∧
             ((x.lane k).st = .parked .service → y.tmask.has k = true ∧ (y.lane k).tval = x.tpc.setWidth 64)))) ∧
  ((∀ (s : State) (h : Hdr) (o : OpsA), Clear s h →
     (s.fl.hnd = false → ∀ i ∈ [Instr.tfix h o, .rteRetry h o, .rteSkip h o], AllTrap i s h .illegal 0) ∧
     (s.fl.hnd = true →
       (∀ p ∈ [(Instr.rteRetry h o, false), (.rteSkip h o, true)],
         ((∀ k, (s.fl.lane k).st ≠ .parked (.rte (!p.2))) → Parks p.1 s s h fun _ => .rte p.2) ∧
         ∀ pc : Pc, (∃ k, (s.fl.lane k).st = .parked (.rte (!p.2))) →
           (∀ k, (s.fl.lane k).st = .parked (.rte (!p.2)) → (s.fl.lane k).pc = pc) → AllTrap p.1 s h .illegal (pc.setWidth 64)) ∧
       -- no result, or one that is discarded, or a source of another class
       (∀ h1 o1, (decode s.fl.tinsn = .ok (.sth h1 o1) ∨ decode s.fl.tinsn = .ok (.vstm h1 o1)) → AllTrap (.tfix h o) s h .illegal 0) ∧
       (∀ h1 o1, (decode s.fl.tinsn = .ok (.mma h1 o1) ∨ decode s.fl.tinsn = .ok (.mmai h1 o1)) → AllTrap (.tfix h o) s h .illegal 0) ∧
       (∀ i, decode s.fl.tinsn = .ok i → noResult i = true → AllTrap (.tfix h o) s h .illegal 0) ∧
       (∀ e a b, decode s.fl.tinsn = .ok (.dualWord e a b) → (if s.fl.tcause.getLsbD 8 then b else a).hop = .nop →
         AllTrap (.tfix h o) s h .illegal 0) ∧
       ∀ d w ty p, FixDest s.fl d w ty p →
         ((d = .g 0 ∨ d = .p 0) → AllTrap (.tfix h o) s h .illegal 0) ∧
         (∀ i, d = .g i → i ≠ 0 →
           ((∃ r, o.sa = .p r) ∨ (∃ r, o.sa = .v r) → AllTrap (.tfix h o) s h .illegal 0) ∧
           ∀ a, ReadsG s h o.sa a →
             Fixes (.tfix h o) s h (fun k => if (s.fl.lane k).temask.getLsbD 0 ∧ w then (s.fl.lane k).setG i (a k) else s.fl.lane k)
               fun k => if (s.fl.lane k).temask.getLsbD 0 then some (.gen (a k)) else (s.fl.lane k).shFix) ∧
         (∀ i, d = .p i → i ≠ 0 →
           ((∃ r, o.sa = .g r) ∨ (∃ r, o.sa = .v r) ∨ (∃ b, o.sa = .imm b) → AllTrap (.tfix h o) s h .illegal 0) ∧
           ∀ a, ReadsP s h o.sa a → (w = true → ∀ k, Acts s h k → (s.fl.lane k).granules (.p i) = []) →
             Fixes (.tfix h o) s h (fun k => if (s.fl.lane k).temask.getLsbD 0 ∧ w then (s.fl.lane k).setP i (a k) else s.fl.lane k)
               fun k => if (s.fl.lane k).temask.getLsbD 0 then some (.pred (a k)) else (s.fl.lane k).shFix) ∧
         ∀ i, d = .v i →
           ((∃ r, o.sa = .g r) ∨ (∃ r, o.sa = .p r) → AllTrap (.tfix h o) s h .illegal 0) ∧
           ∀ a, FixTakes s h o.sa ty p a → (w = true → ∀ k, Acts s h k → (s.fl.lane k).granules (.v i) = []) →
             let n := match ty with | some y => y.count | none => 1
             let wd := match ty with | some y => y.width | none => 512
             let some_ := fun k => ∃ j, j < n ∧ (s.fl.lane k).temask.getLsbD j = true
             let kept := fun k => match (s.fl.lane k).shFix, (s.fl.lane k).shPart with
               | some (.vec v), _ => v
               | _, some (.vec v) => v
               | _, _ => (s.fl.lane k).getV i
             let mix := fun (k : LaneId) (b : VWord) => vecOf wd n fun j =>
               if (s.fl.lane k).temask.getLsbD j then subWord (a k) wd j else subWord b wd j
             Fixes (.tfix h o) s h (fun k => if w then (s.fl.lane k).setV i (mix k ((s.fl.lane k).getV i)) else s.fl.lane k)
               fun k => if some_ k then some (.vec (mix k (kept k))) else (s.fl.lane k).shFix)) ∧
   ∀ (s : State) (id : FlightId) (x : Flight) (skip : Bool), flightOf s id = some x → x.live = true → x.hnd = true →
     (∃ k, (x.lane k).inS = true ∧ (x.lane k).st ≠ .exited) →
     (∀ k, (x.lane k).inS = true → (x.lane k).st = .exited ∨ (x.lane k).st = .parked (.rte skip)) →
     let at_ := x.tpc.toNat + if skip = true ∧ x.trapRep = false ∧ x.tinsn.getLsbD 62 = false then 8 else 0
     let ok := at_ < 0x20000 ∧ (coreOf s id.coreNo).slots.get (Fin.ofNat 32 (at_ / 4096)) = .present
     (ok → ∃ t y, exec (.rteGatherComplete id) s = .next t ∧ flightOf t id = some y ∧ Returns x skip y ∧
       ∀ a, readByte t a = readByte s a) ∧
     (¬ok → gridOps s x = [] → ∃ t y, exec (.rteGatherComplete id) s = .next t ∧ flightOf t id = some y ∧ y.tcause = 0x204 ∧
       y.hnd = true ∧ y.service = true ∧ ∀ k : LaneId, (y.lane k).prog = (x.lane k).prog ∧ (y.lane k).shadow = (x.lane k).shadow ∧
         ((x.lane k).st = .parked (.rte skip) → (y.lane k).st = .parked .service ∧ (y.lane k).tval = BitVec.ofNat 64 at_ ∧
           y.tmask.has k = true) ∧ ((x.lane k).st ≠ .parked (.rte skip) → (y.lane k).st = (x.lane k).st)))

/-- PREEMPTION_REQUEST, PREEMPTION_TIMEOUT and PREEMPTION_STOP (R337, R338), the image (R340), CTXSV with its four operations and the end
of its park (R341), and ERRQPOP (R373, R375, R376). That a saved flight stays STOPPED after OPN 0, that OPN 2 waits until nothing of the
flight is under way outside its core, which of an image's codes stand for what, and the order of CTXSV's checks, are log entry 12's
readings; TVAL 0 of a group past g63 is log entry 18's. -/
def Obligations.StopsAndImages : Prop :=
  (∀ (s : State) (id : FlightId) (x : Flight), flightOf s id = some x →
    (x.slot ≠ none → x.stopped = false → swapRoom s id.coreNo = true → ∃ t y, exec (.preemptionRequest id) s = .next t ∧
      flightOf t id = some y ∧ Asked s x y .newel) ∧
    ((x.slot = none ∨ x.stopped = true ∨ swapRoom s id.coreNo = false) → exec (.preemptionRequest id) s = .next s) ∧
    (x.preempt = none → exec (.preemptionTimeout id) s = .next s ∧ exec (.preemptionStop id) s = .next s) ∧
    ∀ start b, x.preempt = some (start, b) →
      ((¬start.toNat + 1536 ≤ (ccountOf s id.die).toNat ∨ x.stall ≠ none) → exec (.preemptionTimeout id) s = .next s) ∧
      (start.toNat + 1536 ≤ (ccountOf s id.die).toNat → x.stall = none → ∃ t y, exec (.preemptionTimeout id) s = .next t ∧ flightOf t id = some y ∧
        Interrupted x y ∧ y.preempt = x.preempt ∧ ∀ a, readByte t a = readByte s a) ∧
      (¬MayStop s x → exec (.preemptionStop id) s = .next s) ∧
      (MayStop s x → ∃ t, exec (.preemptionStop id) s = .next t ∧
        (b ≠ .newel → ∃ y, flightOf t id = some y ∧ StoppedBy x y b ∧ t.host = s.host ∧ ∀ a, readByte t a = readByte s a) ∧
        (b = .newel → swapRoom s id.coreNo = false → ∃ y, flightOf t id = some y ∧ Interrupted x y ∧ y.stopped = false ∧
          y.preempt = none ∧ y.slot = x.slot ∧ ∀ a, readByte t a = readByte s a) ∧
        (b = .newel → swapRoom s id.coreNo = true → ∀ a, areaFree s id.die = some a → ∃ y z, StoppedBy x y b ∧ flightOf t id = some z ∧
          z = { y with slot := none, since := z.since } ∧ ImageAt t id.die a y ∧ OnlyImage s t id.die a))) ∧
  (∀ (f : Flight) (k : LaneId) (i : Nat),
    imageWord f 0 = 0x2001 ∧
    (i < 16 → (imageWord f (0x200 + 16 * k.val)).toNat % 2 ^ 17 = (f.lane k).pc.toNat) ∧
    imageWord f (0x200 + 16 * k.val + 3) = (f.lane k).p.setWidth 64 ∧ imageWord f (0x200 + 16 * k.val + 4) = (f.lane k).fpstat.setWidth 64 ∧
    imageWord f (0x200 + 16 * k.val + 6) = (f.lane k).temask ∧ imageWord f (0x200 + 16 * k.val + 7) = (f.lane k).tval ∧
    (i < 64 → imageWord f (0xC00 + 64 * k.val + i) = (f.lane k).getG (BitVec.ofNat 6 i)) ∧
    (i < 256 → imageWord f (0x1400 + 256 * k.val + i) =
      ((f.lane k).getV (BitVec.ofNat 5 (i / 8))).extractLsb' (64 * (i % 8)) 64) ∧
    (i < 8 → imageWord f (0x20 + 2 * i) = (f.mask (BitVec.ofNat 3 i)).enrolled.setWidth 64 ∧
      imageWord f (0x21 + 2 * i) = (f.mask (BitVec.ofNat 3 i)).arrived.setWidth 64) ∧
    imageWord f 5 = f.fpctl.setWidth 64 ∧ imageWord f 7 = f.tcause.setWidth 64 ∧ imageWord f 9 = f.tpc.setWidth 64 ∧ imageWord f 10 = f.tinsn ∧
    imageWord f 11 = f.merr ∧ imageWord f 13 = f.rflat ∧ imageWord f 16 = f.teamidx ∧ imageWord f 18 = f.ginst.setWidth 64 ∧
    (∀ n, n < 4 → i < 16 → imageWord f (0x80 + 16 * n + i) = (f.launches.getD n []).getD i 0) ∧
    ∀ q : BitVec 3, imageWord f (0x41 + 2 * q.toNat) = (f.queue q).seq.setWidth 64 ∧
      ∀ n e w, n < 16 → (f.queue q).entries[n]? = some e → e.result = some w → imageWord f (0xC0 + 16 * q.toNat + n) = w) ∧
  (∀ (s : State) (h : Hdr) (o : OpsX) (k : LaneId), Clear s h → Takes s h o.dst → IssuesIn s h o.ls o.lane k → s.fl.priv = true →
    (srcReg o.sa).toNat = 63 → ∀ i ∈ [Instr.ctxsvSave h o, .ctxsvRestore h o, .ctxsvSaveFree h o, .ctxsvResume h o],
      OnceTraps i s h k .illegal 0) ∧
  (∀ (s : State) (h : Hdr) (o : OpsX) (k : LaneId) (v a : Word), Clear s h → Takes s h o.dst → IssuesIn s h o.ls o.lane k →
    s.fl.live = true → (srcReg o.sa).toNat < 63 → srcG (s.fl.lane k) (.g (srcReg o.sa)) = .ok v →
    srcG (s.fl.lane k) (.g (BitVec.ofNat 6 ((srcReg o.sa).toNat + 1))) = .ok a →
    let all := [Instr.ctxsvSave h o, .ctxsvRestore h o, .ctxsvSaveFree h o, .ctxsvResume h o]
    let saves := [(Instr.ctxsvSave h o, 0#2), (Instr.ctxsvSaveFree h o, 2#2)]
    let fnum := v.toNat % 64
    let id : FlightId := { s.fl.id with fnum := fnum }
    let inArea := 0x8000000 ≤ a.toNat ∧ a.toNat + 0x1A000 ≤ 0x9D40000
    (s.fl.priv = false → MayTrap s → ∀ i ∈ all,
      Traps i s h (fun j => (issuing s).has j = true) .priv 0 (fun _ => 0) (fun j => s.fl.lane j) fun _ => none) ∧
    (s.fl.priv = true → refine s (.ctxsvSave h o) = all.getD (v.toNat / 256 % 4) (.ctxsvSave h o)) ∧
    (s.fl.priv = true → (1024 ≤ v.toNat ∨ v.toNat / 64 % 4 ≠ 0) → ∀ i ∈ all, OnceTraps i s h k .illegal v) ∧
    (s.fl.priv = true → v.toNat < 1024 → v.toNat / 64 % 4 = 0 →
      (flightOf s id = none → ∀ p ∈ saves, OnceTraps p.1 s h k .illegal v) ∧
      (∀ x, flightOf s id = some x → ∀ p ∈ saves,
        (a.toNat % 4096 ≠ 0 → OnceTraps p.1 s h k .align a) ∧ (a.toNat % 4096 = 0 → ¬inArea → OnceTraps p.1 s h k .bounds a) ∧
        (a.toNat % 4096 = 0 → inArea → ∃ u y, u = { s with fl := u.fl, flights := u.flights } ∧ flightOf u id = some y ∧ Asked s x y .ctxsv ∧
          (s.fl.id ≠ id → u.fl = s.fl) ∧ Parks p.1 s u h fun _ => .ctxsv p.2 fnum a (active s h))) ∧
      (flightOf s id ≠ none → OnceTraps (.ctxsvRestore h o) s h k .illegal v) ∧
      (flightOf s id = none →
        (a.toNat % 4096 ≠ 0 → OnceTraps (.ctxsvRestore h o) s h k .align a) ∧
        (a.toNat % 4096 = 0 → ¬inArea → OnceTraps (.ctxsvRestore h o) s h k .bounds a) ∧
        (a.toNat % 4096 = 0 → inArea → let version := (readWord s (mezzKey s.fl.id.die a.toNat)).toNat % 2 ^ 16
          (version ≠ 0x2001 → OnceTraps (.ctxsvRestore h o) s h k .illegal v) ∧
          (version = 0x2001 → Parks (.ctxsvRestore h o) s s h fun _ => .ctxsv 1 fnum a (active s h)))) ∧
      ((a ≠ 0 ∨ flightOf s id = none) → OnceTraps (.ctxsvResume h o) s h k .illegal v) ∧
      ∀ x, flightOf s id = some x →
        (x.stopped = false → OnceTraps (.ctxsvResume h o) s h k .illegal v) ∧
        (x.stopped = true → a = 0 → s.fl.id ≠ id → ∃ u, OnceAs (.ctxsvResume h o) s u h o.dst .none ∧
          u = { s with flights := u.flights } ∧ flightOf u id = some { x with stopped := false, stoppedBy := none, switched := false }))) ∧
  (∀ (s : State) (id : FlightId) (f : Flight) (k : LaneId) (opn : BitVec 2) (fnum : Nat) (a : Word) (set : LaneSet),
    flightOf s id = some f → f.live = true → (f.lane k).st = .parked (.ctxsv opn fnum a set) →
    let other : FlightId := { id with fnum := fnum }
    let woken := fun (t : State) => ∃ g, flightOf t id = some g ∧ ∀ j : LaneId, set.has j = true →
      (f.lane j).st = .parked (.ctxsv opn fnum a set) → (g.lane j).st = .ready ∧ (g.lane j).regs = (f.lane j).regs ∧
        ((f.lane j).parkRep = false → (g.lane j).pc = (f.lane j).pc + 8)
    other ≠ id →
    (∀ x, flightOf s other = some x → x.stopped = true → opn = 0 → ∃ t, exec (.laneResume id k) s = .next t ∧ woken t ∧
      flightOf t other = some x ∧ ImageAt t id.die a.toNat x ∧ OnlyImage s t id.die a.toNat) ∧
    (∀ x, flightOf s other = some x → x.stopped = true → opn = 2 → (x.held ≠ [] ∨ ∃ c ∈ s.cmds, c.flight = x.id) →
      exec (.laneResume id k) s = .next s) ∧
    (∀ x, flightOf s other = some x → x.stopped = true → opn = 2 → x.held = [] → s.outstanding = [] →
      (∀ c ∈ s.cmds, c.flight ≠ x.id) → (∀ j, (x.lane j).inFlight = false) →
      (∀ y ∈ s.flights, ∀ z ∈ s.flights, y.id = z.id → y = z) → (s.fl.live = true → ∀ y ∈ s.flights, y.id ≠ s.fl.id) →
      ∃ t, exec (.laneResume id k) s = .next t ∧ woken t ∧ flightOf t other = none ∧ ImageAt t id.die a.toNat x ∧ OnlyImage s t id.die a.toNat) ∧
    (∀ x, flightOf s other = some x → x.stopped = false → x.preempt ≠ none → opn ∈ [0#2, 2#2] → exec (.laneResume id k) s = .next s) ∧
    (∀ x, flightOf s other = some x → x.stopped = false → x.preempt = none → opn ∈ [0#2, 2#2] →
      ∃ t y, exec (.laneResume id k) s = .next t ∧ flightOf t other = some y ∧ Asked s x y .ctxsv) ∧
    let bad := ∃ n, n < 1664 ∧ lineOf (mezzKey id.die a.toNat) + n ∈ s.poison
    (flightOf s other = none → opn = 1 → bad → set.has k = true → ∃ t g w, exec (.laneResume id k) s = .next t ∧
      flightOf t id = some g ∧ flightOf t other = none ∧ (g.lane k).st = .ready ∧ (g.lane k).pc = (f.lane k).pc ∧
      (g.lane k).fail = some (⟨5, 0, .memPoison, a, 1⟩, w) ∧ ∀ b, readByte t b = readByte s b) ∧
    (flightOf s other = none → opn = 1 → ¬bad → s.barOwed = [] → ∃ t y, exec (.laneResume id k) s = .next t ∧ woken t ∧ flightOf t other = some y ∧
      y.live = true ∧ y.stopped = true ∧ y.slot = freeSlot s id.coreNo ∧ (∀ b, readByte t b = readByte s b) ∧
      (let w := fun (n : Nat) => readWord s (mezzKey id.die (a.toNat + n))
       y.mm = (w 0x10).getLsbD 0 ∧ y.hnd = (w 0x10).getLsbD 2 ∧ y.dphase = (w 0x20).setWidth 6 ∧ y.fpctl = (w 0x28).setWidth 8 ∧
       y.tcause = (w 0x38).setWidth 10 ∧ y.tmask = (w 0x40).setWidth 32 ∧ y.tpc = (w 0x48).setWidth 17 ∧ y.tinsn = w 0x50 ∧
       y.ginst = (w 0x90).setWidth 32 ∧
       (∀ r g, y.member = some r → gridById s r.grid = some g → g.firmware = false → y.priv = false) ∧
       (∀ n ws, y.launches[n]? = some ws → ws.length = 16 ∧ ∃ m, m < 4 ∧ n ≤ m ∧ ∀ i, i < 16 → ws.getD i 0 = w (0x400 + 128 * m + 8 * i)) ∧
       ∀ q : BitVec 3, (y.queue q).seq = (w (0x208 + 16 * q.toNat)).setWidth 32 ∧
         ∀ n e, (y.queue q).entries[n]? = some e → (w (0x600 + 128 * q.toNat + 8 * n)).getLsbD 63 = true →
           e.result = some (w (0x600 + 128 * q.toNat + 8 * n))) ∧ ∀ j : LaneId,
        (y.lane j).pc = (readWord s (mezzKey id.die (a.toNat + 0x1000 + 128 * j.val))).setWidth 17 ∧
        (y.lane j).p = ((readWord s (mezzKey id.die (a.toNat + 0x1018 + 128 * j.val))).setWidth 8 ||| 1) ∧
        (∀ i : BitVec 6, i ≠ 0 → (y.lane j).getG i = readWord s (mezzKey id.die (a.toNat + 0x6000 + 512 * j.val + 8 * i.toNat))) ∧
        ∀ (i : BitVec 5) (n : Nat), n < 8 → ((y.lane j).getV i).extractLsb' (64 * n) 64 =
          readWord s (mezzKey id.die (a.toNat + 0xA000 + 2048 * j.val + 64 * i.toNat + 8 * n)))) ∧
  (∀ (s : State) (h : Hdr) (o : OpsX) (k : LaneId), Clear s h → Takes s h o.dst → IssuesIn s h o.ls o.lane k →
    let c := ctxOf s s.fl.ctx
    (c.eqCount = 0 → OnceAs (.errqpop h o) s s h o.dst (.words (List.replicate 8 0))) ∧
    (c.eqCount ≠ 0 → OnceAs (.errqpop h o) s
      (setCtx s s.fl.ctx { c with eqHead := BitVec.ofNat 16 ((c.eqHead.toNat + 1) % c.eqSize), eqCount := c.eqCount - 1 }) h o.dst
      (.words (readWords s (mainKey (c.eqBase + 64 * (c.eqHead.toNat % c.eqSize))) 8)))) ∧
  ∀ (s : State) (ctx : BitVec 6) (cause : BitVec 8) (g : ErrAgent) (handle value : Word),
    let c := ctxOf s ctx
    let t := errReport s ctx cause g handle value
    let at_ := mainKey (c.eqBase + 64 * ((c.eqHead.toNat + c.eqCount.toNat) % c.eqSize))
    (c.live = false → t = s) ∧
    (c.live = true → c.eqSize ≤ c.eqCount.toNat → (∀ a, readByte t a = readByte s a) ∧ (ctxOf t ctx).eqCount = c.eqCount ∧
      (ctxOf t ctx).eqDrops.toNat = min 0xFFFF (c.eqDrops.toNat + 1)) ∧
    (c.live = true → c.eqCount.toNat < c.eqSize → c.eqSize ≤ 2 ^ 16 →
      (ctxOf t ctx).eqCount = c.eqCount + 1 ∧ (ctxOf t ctx).eqDrops = c.eqDrops ∧ (ctxOf t ctx).eqHead = c.eqHead ∧
      (readWord t at_).getLsbD 63 = true ∧ (readWord t at_).extractLsb' 48 8 = cause ∧
      (readWord t at_).extractLsb' 40 4 = BitVec.ofNat 4 g.src ∧ readWord t (at_ + 8) = handle ∧ readWord t (at_ + 16) = value ∧
      readWord t (at_ + 24) = g.tag ∧ readWord t (at_ + 32) = ccountOf s g.flight.die ∧
      ∀ a, (a < at_ ∨ at_ + 64 ≤ a) → readByte t a = readByte s a)

/-- ARBITRATE (R128, R132, R133), SWAP_OUT and SWAP_IN (R134 to R137, R338): who wins an engine and what the passed flights become;
which flight leaves its slot or comes into one, and that no more than 56 flights of a core are swapped out. That a flight which a core
switch took off waits for its resume is R338's word; the place in the area that an image takes is the model's choice (log entry 12). -/
def Obligations.Residency : Prop :=
  (∀ (s : State) (core eng : Nat), eng < 4 → ((allFlights s).map Flight.id).Nodup →
    let last := (coreOf s core).last.get (Fin.ofNat 4 eng)
    let here := fun (x : Flight) => x ∈ allFlights s ∧ x.id.coreNo = core ∧ ∃ n, x.slot = some n ∧ n / 2 = eng
    let cand := fun (x : Flight) => x ∈ allFlights s ∧ Contends core eng x
    (((∃ x, here x ∧ (x.run ≠ none ∨ x.stall ≠ none)) ∨ ∀ x, ¬cand x) → exec (.arbitrate core eng) s = .next s) ∧
    ((∀ x, here x → x.run = none ∧ x.stall = none) → (∃ x, cand x) → ∃ t f n, exec (.arbitrate core eng) s = .next t ∧ cand f ∧
      f.slot = some n ∧ (∀ g, cand g → g.eclass ≤ f.eclass) ∧
      ((∃ g m, cand g ∧ g.eclass = f.eclass ∧ g.slot = some m ∧ decide (m % 2 = 1) ≠ last) → decide (n % 2 = 1) ≠ last) ∧
      t.fl.id = f.id ∧ t.fl.passed = 0 ∧ t.fl.eclass = f.lclass ∧ t.fl.halted = none ∧ t.fl.lanes = f.lanes ∧
      (∀ r, f.halted = some r → t.fl.run = some r ∧ t.fl.tvec = f.tvec) ∧
      (f.halted = none → t.fl.tvec = (ctxOf s f.ctx).tvec ∧ ∃ set, t.fl.run = some ⟨set, none⟩ ∧ AtLeastPc f set) ∧
      (coreOf t core).last = (coreOf s core).last.set (Fin.ofNat 4 eng) (decide (n % 2 = 1)) ∧
      (∀ a, readByte t a = readByte s a) ∧
      (∀ g, cand g → g.id ≠ f.id → ∃ y, flightOf t g.id = some y ∧
        y = if g.passed + 1 = 64 then { g with passed := 0, eclass := min (g.eclass + 1) 3 } else { g with passed := g.passed + 1 }) ∧
      ∀ g ∈ allFlights s, ¬cand g → flightOf t g.id = some g)) ∧
  (∀ (s : State) (core : Nat), swapRoom s core = true ↔ areaFree s (core / 48) ≠ none ∧
    ((liveOn s core).filter fun x => x.slot.isNone && allLanes.any fun k => decide ((x.lane k).st ≠ .exited)).length < 56) ∧
  (∀ x : Flight, wantsSlot x = true ↔ x.slot = none ∧ x.switched = false ∧ x.ending = none ∧ ∃ k, (x.lane k).st = .ready) ∧
  (∀ (s : State) (core : Nat) (v : Flight), victim s core = some v → swapRoom s core = true ∧
    evictable s v = true ∧ v ∈ liveOn s core ∧ areaFree s (core / 48) ≠ none ∧
    ∀ g ∈ liveOn s core, evictable s g = true → v.lclass < g.lclass ∨ (v.lclass = g.lclass ∧ v.since ≤ g.since)) ∧
  (∀ (s : State) (v : Flight), evictable s v = true → v.slot ≠ none ∧ v.run = none ∧ gridOps s v = [] ∧
    (∃ k, (v.lane k).st ≠ .exited) ∧ ∀ k, (v.lane k).st = .exited ∨ ∃ c, (v.lane k).st = .parked c) ∧
  (∀ (s : State) (core : Nat) (x : Flight), nextIn s core = some x → x ∈ liveOn s core ∧ wantsSlot x = true ∧
    ∀ g ∈ liveOn s core, wantsSlot g = true → g.lclass < x.lclass ∨ (g.lclass = x.lclass ∧ x.since ≤ g.since)) ∧
  (∀ (s : State) (die a : Nat), areaFree s die = some a → 0x8000000 ≤ a ∧ a + 0x1A000 ≤ 0x9D40000 ∧ a % 4096 = 0 ∧
    ∀ i ∈ s.images, i.die = die → i.addr + 0x1A000 ≤ a ∨ a + 0x1A000 ≤ i.addr) ∧
  ∀ (s : State) (id : FlightId),
    ((freeSlot s id.coreNo ≠ none ∨ nextIn s id.coreNo = none ∨ victim s id.coreNo = none) → exec (.swapOut id) s = .next s) ∧
    (∀ v, freeSlot s id.coreNo = none → nextIn s id.coreNo ≠ none → victim s id.coreNo = some v →
      (v.id ≠ id → exec (.swapOut id) s = .next s) ∧
      (v.id = id → flightOf s id = some v → ∀ a, areaFree s id.die = some a → ∃ t, exec (.swapOut id) s = .next t ∧
        flightOf t id = some { v with slot := none } ∧ ImageAt t id.die a v ∧ OnlyImage s t id.die a)) ∧
    ∀ n, (nextIn s id.coreNo = none → exec (.swapIn id n) s = .next s) ∧ ∀ x, nextIn s id.coreNo = some x →
      (x.id ≠ id → exec (.swapIn id n) s = .next s) ∧
      (x.id = id → flightOf s id = some x → n < 8 → (∀ y ∈ liveOn s id.coreNo, y.slot ≠ some n) → ∃ t y, exec (.swapIn id n) s = .next t ∧
        flightOf t id = some y ∧ (∀ a, readByte t a = readByte s a) ∧ y.slot = some n ∧ y.passed = 0 ∧ y.eclass = y.lclass ∧
        y.mm = x.mm ∧ y.priv = x.priv ∧ y.hnd = x.hnd ∧ y.ctx = x.ctx ∧
        ((∀ i, areaOf s id = some i → ∀ m, m < 0x3400 → AreaWord s i m = imageWord i.flight m) →
          y = { x with slot := some n, passed := 0, eclass := x.lclass, stopped := y.stopped, stoppedBy := y.stoppedBy }) ∧
        (∀ i, areaOf s id = some i → (∃ m, m < 0x3400 ∧ AreaWord s i m ≠ imageWord i.flight m) → ∀ (j : LaneId) (r : BitVec 6), r ≠ 0 →
          let m := 0xC00 + 64 * j.val + r.toNat
          (y.lane j).getG r = if AreaWord s i m = imageWord i.flight m then (x.lane j).getG r else AreaWord s i m) ∧
        (x.stopped = true → x.stoppedBy = some .newel → y.stopped = false) ∧
        (x.stoppedBy ≠ some .newel → y.stopped = x.stopped ∧ y.stoppedBy = x.stoppedBy))

/-- CCOUNT_INCREMENT (R4, R14): each die and the hub count for themselves. SCRUB (R332), UNCORRECTABLE_LINE_ERROR (R333),
INSTRUCTION_STORE_ERROR (R334), REGISTER_FILE_ERROR, and what reads a register with an error or names it (R335, R336). The model's
choice: CODE and the detail words of the storage event (log entry 31), that an error makes a LOADING slot ABSENT too, that one of a
predicate strikes the byte with the selector 0x60, and that a lost image ends its member whether it was saved or swapped out (log
entry 28). -/
def Obligations.TimeAndErrors : Prop :=
  (∀ s : State, ∃ t, exec .ccountIncrement s = .next t ∧ t = { s with dies := t.dies, hubcount := t.hubcount, turn := (s.turn + 1) % 8 } ∧
    (∀ n : Fin 4, t.dies.get n = if n.val = s.turn ∧ (s.dies.get n).present = true
      then { s.dies.get n with ccount := (s.dies.get n).ccount + 1 } else s.dies.get n) ∧
    t.hubcount = if s.turn < 4 then s.hubcount else s.hubcount + 1) ∧
  (∀ (s : State) (n : Fin 4) (fixed : Nat), (s.dies.get n).present = true → ∃ t, exec (.scrub n.val fixed) s = .next t ∧
    t = { s with dies := t.dies } ∧ (∀ m, m ≠ n → t.dies.get m = s.dies.get m) ∧
    t.dies.get n = { s.dies.get n with corrected := (s.dies.get n).corrected + fixed, scrubbed := (s.dies.get n).ccount }) ∧
  (∀ (s : State) (core : Nat) (slot : Fin 32), ∃ t, exec (.instructionStoreError core slot.val) s = .next t ∧
    t = { s with cores := t.cores } ∧ (∀ c, c ≠ core → coreOf t c = coreOf s c) ∧
    coreOf t core = { coreOf s core with slots := (coreOf s core).slots.set slot .absent }) ∧
  (∀ (s : State) (f : FlightId) (x : Flight) (l : LaneId) (sel : BitVec 8) (gran : BitVec 3) (g : Gran), flightOf s f = some x →
    ((0 < sel.toNat ∧ sel.toNat < 0x40 ∧ g = ⟨sel, 0⟩) ∨ (0x40 ≤ sel.toNat ∧ sel.toNat < 0x60 ∧ g = ⟨sel, gran⟩) ∨
      (0x60 ≤ sel.toNat ∧ sel.toNat < 0x68 ∧ g = ⟨0x60, 0⟩) ∨ (0x78 ≤ sel.toNat ∧ sel.toNat < 0x7C ∧ g = ⟨sel, gran⟩)) →
    ∃ t y, exec (.registerFileError f l sel gran) s = .next t ∧ t = { s with fl := t.fl, flights := t.flights } ∧
      flightOf t f = some y ∧ y = { x with lanes := y.lanes } ∧ (∀ k, k ≠ l → y.lane k = x.lane k) ∧
      y.lane l = { x.lane l with faulty := (y.lane l).faulty } ∧ ∀ h, h ∈ (y.lane l).faulty ↔ h ∈ (x.lane l).faulty ∨ h = g) ∧
  -- what reads a register with an error traps, and what names it without reading it logs it
  (∀ (s : State) (h : Hdr) (o : OpsA), Clear s h → MayTrap s → (∃ k, Acts s h k) →
    let trap := fun i => Traps i s h (Acts s h) .rfUncorrectable 0 (fun _ => o.sa.bits.setWidth 64) (fun k => s.fl.lane k) fun _ => none
    ((∀ k, Acts s h k → GenFaults (s.fl.lane k) o.sa) → (∀ i ∈ readsGen h o, trap i) ∧ ((∀ j, o.dst ≠ .j j) → trap (.mov h o))) ∧
    ((∀ k, Acts s h k → PredFaults (s.fl.lane k) o.sa) → ∀ i ∈ readsPred h o, trap i) ∧
    ∀ x : LaneId → Gran, (∀ k, Acts s h k → VecFaults (s.fl.lane k) o.sa (x k)) → ∀ i ∈ readsVec h o,
      TrapsAs i s h (Acts s h) .rfUncorrectable 0 (fun k => granMask o.ty.width (x k).gran.toNat)
        (fun k => BitVec.ofNat 64 (256 * (x k).gran.toNat + o.sa.bits.toNat)) (fun k => s.fl.lane k) (fun _ => none)
        (fun k => s.fl.lane k) fun _ => none) ∧
  (∀ (s : State) (h : Hdr) (o : OpsA) (k : LaneId) (x : Gran), Clear s h → (issuing s).has k = true → ¬Acts s h k →
    (s.fl.lane k).faulty = [x] → (∀ j, j ≠ k → (s.fl.lane j).faulty = []) → x.sel = o.sa.bits →
    ∀ i, ((∃ r, o.sa = .g r) ∧ i ∈ readsGen h o ∨ (∃ r, o.sa = .v r) ∧ i ∈ readsVec h o) → ∃ t, exec i s = .next t ∧
      (s.fl.rflat.getLsbD 63 = false →
        t.fl.rflat = BitVec.ofNat 64 (2 ^ 63 + 2 ^ 48 + 2 ^ 32 * x.sel.toNat + 2 ^ 16 * k.val + x.gran.toNat)) ∧
      (s.fl.rflat.getLsbD 63 = true → t.fl.rflat.extractLsb' 0 48 = s.fl.rflat.extractLsb' 0 48 ∧ t.fl.rflat.extractLsb' 56 8 = 0xC0 ∧
        (t.fl.rflat.extractLsb' 48 8).toNat = min 255 ((s.fl.rflat.extractLsb' 48 8).toNat + 1))) ∧
  ∀ (s : State) (sp : Space) (unit line : Nat), s.Inv →
    let key := match sp with
      | .hall => hallKey unit (64 * line)
      | .gallery => galleryKey unit (64 * line)
      | .mezzanine => mezzKey unit (64 * line)
    let die := match sp with | .hall => unit / 48 | .gallery => unit / 6 | .mezzanine => unit
    let code := match sp with | .hall => 0 | .gallery => 1 | .mezzanine => 2
    let told := fun (u : State) => EventIn s u (eventOf 7 Cause.memPoison.code.toNat 0 die (BitVec.ofNat 64 (64 * line))
      (BitVec.ofNat 64 code) (s.dies.get (Fin.ofNat 4 die)).ccount)
    let on := fun (i : ImageSide) => i.die = unit ∧ i.addr < 64 * line + 64 ∧ 64 * line < i.addr + 0x1A000
    let plain := sp = .mezzanine → ∀ i ∈ s.images, ¬on i
    (plain → (lineSt s (key / 64)).owner = none → ∃ u t, told u ∧ exec (.uncorrectableLineError sp unit line) s = .next t ∧
      t = { u with mem := t.mem } ∧ (∀ i, i < 64 → readByte t (key + i) = 0) ∧
      ∀ b, (b < key ∨ key + 64 ≤ b) → readByte t b = readByte u b) ∧
    (plain → ∀ c, (lineSt s (key / 64)).owner = some c → s.Distinct → ∃ u t, told u ∧
      exec (.uncorrectableLineError sp unit line) s = .next t ∧ ContextEnds u t c Cause.memPoison.code.toNat) ∧
    ∀ i ∈ s.images, sp = .mezzanine → on i → (∀ j ∈ s.images, on j → j = i) →
      (∀ f x, i.swapped = some f → flightOf s f = some x → x.ending = none →
        (∀ r, x.member = some r → ∃ m, memberOf s r = some m ∧ m.leader = some f) →
        ∃ u t, told u ∧ exec (.uncorrectableLineError sp unit line) s = .next t ∧ EndsWith u t f x .memPoison ∧ key / 64 ∈ t.poison) ∧
      (∀ x, i.swapped = none → i.freed = false → flightOf s i.flight.id = some x → x.member = i.flight.member → x.ending = none →
        (∀ r, x.member = some r → ∃ m, memberOf s r = some m ∧ m.leader = some i.flight.id) →
        ∃ u t, told u ∧ exec (.uncorrectableLineError sp unit line) s = .next t ∧ EndsWith u t i.flight.id x .memPoison ∧
          key / 64 ∈ t.poison) ∧
      ∀ r m, i.swapped = none → i.freed = true → i.flight.member = some r → memberOf s r = some m → m.cause = none →
        ∃ t n, exec (.uncorrectableLineError sp unit line) s = .next t ∧ memberOf t r = some n ∧ n.cause = some .memPoison ∧
          n.leader = none ∧ i ∉ t.images

/-- HEARTBEAT_TIMEOUT and DIE_LOST (R4, R344, R346, R347, R350 to R352): a heartbeat missed for 2^20 cycles of the hub loses the die; the
standby takes the number, or the die is absent; what the die held is gone; its work is dropped with reports; what was launched inside its
members is stopped at any depth; a replay-safe grid's members are to be placed again, and others fail. The model's choice: CODE and the
detail words of the die-lost event (log entry 31); that all of it is one atomic step and that CCOUNT of the logical die restarts at 0
(log entry 28); that the heartbeat's time runs from an input that says it is missed (log entry 34). -/
def Obligations.DieLosses : Prop :=
  ∀ (s : State) (n : Fin 4),
    ((s.dies.get n).present = false → exec (.heartbeatTimeout n.val) s = .next s ∧ exec (.dieLost n.val) s = .next s) ∧
    ((s.dies.get n).present = true → (s.dies.get n).silent = none →
      exec (.heartbeatTimeout n.val) s = .next { s with dies := s.dies.set n { s.dies.get n with silent := some s.hubcount } }) ∧
    (∀ c, (s.dies.get n).present = true → (s.dies.get n).silent = some c → s.hubcount.toNat < c.toNat + 2 ^ 20 →
      exec (.heartbeatTimeout n.val) s = .next s) ∧
    ∀ i, (s.dies.get n).present = true → (i = .dieLost n.val ∨ i = .heartbeatTimeout n.val ∧ ∃ c, (s.dies.get n).silent = some c ∧
        c.toNat + 2 ^ 20 ≤ s.hubcount.toNat) → ∃ t, exec i s = .next t ∧
      (∀ m, m ≠ n → t.dies.get m = s.dies.get m) ∧ t.standby = none ∧
      (∀ p, s.standby = some p → t.dies.get n = ⟨true, p, 0, 0, 0, decide (100 ≤ tempOf s .standby), none⟩) ∧
      (s.standby = none → (t.dies.get n).present = false) ∧
      (∀ f ∈ allFlights t, f.id.die ≠ n.val) ∧ (∀ o ∈ t.outstanding, o.die ≠ n.val) ∧
      (∀ a, OnDie n.val a → readByte t a = 0 ∧ lineSt t (a / 64) = LineState.free) ∧
      (∀ a, 2 ^ 60 ≤ a → ¬OnDie n.val a → readByte t a = readByte s a) ∧
      (∀ c, c / 48 = n.val → ∀ k, (coreOf t c).slots.get k = .absent) ∧
      (s.host.evbase = 0 → (∀ a, a < 2 ^ 60 → readByte t a = readByte s a) ∧
        ∃ rest, t.eventWait = s.eventWait ++ eventOf 3 Cause.dieLost.code.toNat 0 0 (BitVec.ofNat 64 n.val) 0 s.hubcount :: rest) ∧
      (∀ f x, flightOf s f = some x → f.die = n.val →
        (∀ c ∈ t.cmds, c.flight = f → c.result ≠ none) ∧
        (∀ c ∈ s.cmds, c.flight = f → c.result = none → IsDue t c.fut (some .dieLost)) ∧
        ∀ ws ∈ x.launches, IsDue t (ws.getD 12 0) (some .dieLost)) ∧
      (∀ g ∈ s.grids, (∀ x ∈ s.grids, x.id = g.id → x = g) → (∃ r ∈ g.line, ∃ m, memberOf s r = some m ∧ LostWith m n.val) →
        ∀ h, gridById t g.id = some h → h.stopped = true) ∧
      ∀ g ∈ s.grids, (∀ x ∈ s.grids, x.id = g.id → x = g) → g.line = [] → g.stopped = false →
        (∀ m ∈ g.members, LostWith m n.val → (g.words.getD 0 0).getLsbD 62 = true → s.standby ≠ none →
          m.team < recTeams g.words → m.mem < recMemb g.words →
          ∃ h, gridById t g.id = some h ∧ (∀ x ∈ h.members, x ∈ g.members ∧ ¬LostWith x n.val) ∧
            m.team * recMemb g.words + m.mem ∈ h.redo) ∧
        (∀ m ∈ g.members, LostWith m n.val → (g.words.getD 0 0).getLsbD 62 = false → s.standby ≠ none →
          ∃ h y, gridById t g.id = some h ∧ y ∈ h.members ∧ y = { m with leader := none, cause := some (m.cause.getD .dieLost) })

/-- The anneal (R353 to R355, R357, R388): MCAP, APHASE and ASWEEP, the request, SWEEP_START, LINE_MOVE, and where the lines of a first
retirement go. -/
def Obligations.Anneals : Prop :=
  (∀ (s : State) (h : Hdr) (o : OpsB), Clear s h →
    let a := s.anneal
    let C := (8 - (a.count.toNat + if a.act then 1 else 0)) * 0x180000000 / 8
    (o.imm.toNat = 0x060 → GivesG (.mfs h o) s h o.dst fun _ => BitVec.ofNat 64 (64 * C)) ∧
    (o.imm.toNat = 0x062 → GivesG (.mfs h o) s h o.dst fun _ => BitVec.ofNat 64 (2 ^ 32 * a.total.toNat + a.next.toNat)) ∧
    (o.imm.toNat = 0x061 → ∃ v : Word, GivesG (.mfs h o) s h o.dst (fun _ => v) ∧ v.extractLsb' 0 2 = a.count ∧ v.extractLsb' 2 2 = 0 ∧
      v.getLsbD 4 = a.act ∧ v.extractLsb' 5 3 = (if a.act then a.stk else 0) ∧
      v.extractLsb' 8 3 = (if 1 ≤ a.count.toNat then a.ret1 else 0) ∧
      v.extractLsb' 11 3 = (if 2 ≤ a.count.toNat then a.ret2 else 0) ∧ v.extractLsb' 14 50 = 0)) ∧
  (∀ (s : State) (v : Word), actOf v = 2 →
    let a := s.anneal
    let k := namedUnit v
    let bad := a.act = true ∨ 2 ≤ a.count.toNat ∨ 8 ≤ k ∨ (1 ≤ a.count.toNat ∧ a.ret1.toNat = k) ∨ (2 ≤ a.count.toNat ∧ a.ret2.toNat = k)
    (bad → Tells (.reqRetireStack v) s { s with host := { s.host with req := plainOf v + 0x4000000000000000 } } 6 1 (plainOf v)) ∧
    (¬bad → exec (.reqRetireStack v) s = .next { s with host := { s.host with req := plainOf v }, anneal :=
      { a with act := true, stk := BitVec.ofNat 3 k, total := 0, next := 0, req := plainOf v } })) ∧
  (∀ s : State,
    let a := s.anneal
    let pinned := fun (c : Cmd) => c.started = true ∧ c.result = none ∧ c.cls = 4 ∧
      (bufEntry s c.ctx (handleBuf (c.regs.getD 0 0))).il = 3 ∧ (bufEntry s c.ctx (handleBuf (c.regs.getD 0 0))).stk = a.stk
    ((a.act = false ∨ a.total ≠ 0 ∨ ∃ c ∈ s.cmds, pinned c) → exec .sweepStart s = .next s) ∧
    (a.act = true → a.total = 0 → (∀ c ∈ s.cmds, ¬pinned c) → ∃ t, exec .sweepStart s = .next t ∧
      t = { s with journal := t.journal, anneal := { a with next := 0, total := t.anneal.total } } ∧
      (a.count = 0 → t.anneal.total = 0x2A000000) ∧
      (a.count = 1 → t.anneal.total.toNat = 0x24000000 + (0x24000000 + 6 - if a.ret1 < a.stk then a.stk.toNat - 1 else a.stk.toNat) / 7) ∧
      (s.journal.1 ≠ s.journal.2 → t.journal.1 ≠ t.journal.2 ∧ t.journal.1 ≠ a.stk.toNat ∧ t.journal.2 ≠ a.stk.toNat))) ∧
  (∀ (s : State) (bad : Bool),
    let a := s.anneal
    ((a.act = false ∨ a.total ≤ a.next) → exec (.lineMove bad) s = .next s) ∧
    (a.act = true → a.next < a.total → ∃ t line, exec (.lineMove bad) s = .next t ∧ (a.count = 0 → line = 8 * a.next.toNat + a.stk.toNat) ∧
      ∃ p, (∀ n, n ∈ p ↔ n ∈ s.poison ∨ (bad = true ∧ n = line)) ∧
        (a.next + 1 ≠ a.total → t = { s with poison := p, anneal := { a with next := a.next + 1 } }) ∧
        (a.next + 1 = a.total → ∃ u, u = { s with poison := p, anneal := ⟨a.count + 1, u.anneal.ret1, u.anneal.ret2, false, a.stk, 0, 0, a.req⟩ } ∧
          (a.count = 0 → u.anneal.ret1 = a.stk) ∧ (a.count = 1 → u.anneal.ret1 = a.ret1 ∧ u.anneal.ret2 = a.stk) ∧
          EventIn u t (eventOf 6 0 0 0 a.req 0 s.hubcount)))) ∧
  ∀ (k1 k2 h w : Nat), k1 < 8 →
    (h < 0x180000000 → locate k1 k2 h 0 = (h % 8, h / 8)) ∧ (h % 8 ≠ k1 → locate k1 k2 h 1 = (h % 8, h / 8)) ∧
    (w < 0x2A000000 → locate k1 k2 (8 * w + k1) 1 = ((if w % 7 < k1 then w % 7 else w % 7 + 1), 0x2A000000 + w / 7)) ∧
    ((locate k1 k2 h 1).1 ≠ k2 → locate k1 k2 h 2 = locate k1 k2 h 1)

/-- REQ_RATE, RATE_POINT_IN_EFFECT (R361, R388), CURRENT_LIMIT_TRIP and CURRENT_LIMIT_RELEASE (R364), TEMPERATURE_THRESHOLD (R365),
MONITOR_REFRESH (R363, R395), DIE_LINK_RETRAIN (R347), EXPANDER_LOST, REQ_EXPANDER_UP and EXPANDER_LINK_UP (R388 to R390), and
REQ_DIE_LOST (R350, R388). The model's choice: CODE and the detail words of the thermal and the expander-lost event (log entry 31);
that a thermal event is told once, as the reading crosses 95 °C upwards (log entry 28); that the value of an event that ends a request
is the register without BUSY and REFUSED, and that an OP which R388 does not list is refused (log entry 29); the offsets of the counts in
MONITORS, and that the time of a port runs from an input that says a request has no completion (log entry 34). -/
def Obligations.RatesAndPorts : Prop :=
  (∀ (s : State) (v : Word),
    let declined := fun (i : Instr) =>
      Tells i s { s with host := { s.host with req := plainOf v + 0x4000000000000000 } } 6 1 (plainOf v)
    let taken := { s with host := { s.host with req := plainOf v } }
    let u := namedUnit v
    let x := s.expanders.get (Fin.ofNat 2 u)
    (actOf v = 3 → (8 < u ∨ v.toNat % 4 = 3) → declined (.reqRate v)) ∧
    (actOf v = 3 → u ≤ 8 → v.toNat % 4 ≠ 3 → exec (.reqRate v) s = .next { taken with
      power := { s.power with pending := s.power.pending ++ [(u, BitVec.ofNat 2 (v.toNat % 4), plainOf v)] } }) ∧
    (actOf v = 4 → (2 ≤ u ∨ x.up ≠ none) → declined (.reqExpanderUp v)) ∧
    (actOf v = 4 → u < 2 → x.up = none → exec (.reqExpanderUp v) s = .next { taken with
      expanders := s.expanders.set (Fin.ofNat 2 u) { x with up := some (plainOf v) } }) ∧
    (actOf v = 1 → (4 ≤ u ∨ (s.dies.get (Fin.ofNat 4 u)).present = false) → declined (.reqDieLost v)) ∧
    (actOf v = 1 → u < 4 → (s.dies.get (Fin.ofNat 4 u)).present = true → ∃ w t, exec (.dieLost u) taken = .next w ∧
      exec (.reqDieLost v) s = .next t ∧ EventIn w t (eventOf 6 0 0 0 (plainOf v) 0 w.hubcount))) ∧
  (∀ (s : State) (u : Fin 9),
    ((∀ p ∈ s.power.pending, p.1 ≠ u.val) → exec (.ratePointInEffect u.val) s = .next s) ∧
    ∀ pre post r v, s.power.pending = pre ++ (u.val, r, v) :: post → (∀ p ∈ pre, p.1 ≠ u.val) → ∃ t,
      exec (.ratePointInEffect u.val) s = .next t ∧
      EventIn { s with power := { s.power with rate := s.power.rate.set u r, pending := pre ++ post } } t
        (eventOf 6 0 0 0 v 0 s.hubcount)) ∧
  (∀ s : State, (∃ t, exec .currentLimitTrip s = .next t ∧
      t = { s with power := { s.power with limited := true, limiterEvents := s.power.limiterEvents + if s.power.limited then 0 else 1 } } ∧
      (∀ k, k < 8 → (rateOf t k).toNat = max (rateOf s k).toNat 1) ∧ rateOf t 8 = rateOf s 8 ∧ ∀ d, idleCycle t d = true) ∧
    exec .currentLimitRelease s = .next { s with power := { s.power with limited := false } }) ∧
  (∀ (s : State) (at_ : Sensor) (deg : Nat),
    let warm := fun (n : Nat) (u : State) =>
      let v := { s with power := { s.power with temps := assocPut at_ deg s.power.temps } }
      let cross := assocGet 0 s.power.temps at_ < 95 ∧ 95 ≤ deg
      (¬cross → u = v) ∧ (cross → EventIn v u (eventOf 8 0 0 n (BitVec.ofNat 64 deg) 0 s.hubcount))
    (∀ n, at_ = .die n → ∃ u w, warm n.val u ∧ w = { u with dies := w.dies } ∧ (∀ m, m ≠ n → w.dies.get m = s.dies.get m) ∧
      w.dies.get n = { s.dies.get n with idle := decide (100 ≤ deg) || ((s.dies.get n).idle && decide (95 ≤ deg)) } ∧
      (deg < 110 → exec (.temperatureThreshold at_ deg) s = .next w) ∧
      (110 ≤ deg → exec (.temperatureThreshold at_ deg) s = exec (.dieLost n.val) w)) ∧
    (at_ = .standby → ∃ u, warm 4 u ∧ (deg < 110 → exec (.temperatureThreshold at_ deg) s = .next u) ∧
      (110 ≤ deg → exec (.temperatureThreshold at_ deg) s = .next { u with standby := none })) ∧
    (at_ = .hub → ∃ u, warm 0 u ∧ (deg < 110 → exec (.temperatureThreshold at_ deg) s = .next u) ∧
      (110 ≤ deg → exec (.temperatureThreshold at_ deg) s = .next { u with power := { u.power with shutDown := true } })) ∧
    ∀ k, at_ = .stack k → 
      let point : BitVec 2 := if 105 ≤ deg then 2 else if 100 ≤ deg ∧ s.power.heat.get k = 2 then 2 else if 95 ≤ deg then 1
        else if 90 ≤ deg ∧ s.power.heat.get k ≠ 0 then 1 else 0
      let p := { s.power with temps := assocPut at_ deg s.power.temps }
      exec (.temperatureThreshold at_ deg) s = .next { s with power := { p with heat := s.power.heat.set k point } }) ∧
  (∀ (s : State) (rs : List (Nat × Word)), ∃ t, exec (.monitorRefresh rs) s = .next t ∧
    t = { s with power := { s.power with monitors := t.power.monitors } } ∧
    (let counts := [0x4F00, 0x4F08, 0x4F10, 0x4F18, 0x4F20]
     (∀ pre r post, rs = pre ++ r :: post → (∀ x ∈ post, x.1 ≠ r.1) → r.1 ∉ counts → 0x4000 ≤ r.1 → r.1 < 0x5000 → hostReg t r.1 = r.2) ∧
     (∀ off, off ∉ counts → (∀ x ∈ rs, x.1 ≠ off) → hostReg t off = hostReg s off)) ∧
    (∀ d : Fin 4, hostReg t (0x4F00 + 8 * d.val) = BitVec.ofNat 64 (s.dies.get d).corrected) ∧
    hostReg t 0x4F20 = BitVec.ofNat 64 s.power.limiterEvents) ∧
  (∀ (s : State) (link : Nat), (4 ≤ link → exec (.dieLinkRetrain link) s = .next s) ∧ ∀ n : Fin 4, n.val = link →
    exec (.dieLinkRetrain link) s = .next { s with dies := s.dies.set n { s.dies.get n with silent := none } }) ∧
  ∀ (s : State) (port : Fin 2),
    let x := s.expanders.get port
    ((x.pres = false ∨ x.lost = true) → ∀ down, exec (.expanderLost ⟨port, down⟩) s = .next s) ∧
    (x.pres = true → x.lost = false → x.waiting = none → exec (.expanderLost ⟨port, false⟩) s =
      .next { s with expanders := s.expanders.set port { x with waiting := some s.hubcount } }) ∧
    (∀ c, x.pres = true → x.lost = false → x.waiting = some c → s.hubcount.toNat < c.toNat + 2 ^ 22 →
      exec (.expanderLost ⟨port, false⟩) s = .next s) ∧
    (∀ down, x.pres = true → x.lost = false →
      (down = true ∨ ∃ c, x.waiting = some c ∧ c.toNat + 2 ^ 22 ≤ s.hubcount.toNat) → ∃ u t f, exec (.expanderLost ⟨port, down⟩) s = .next t ∧
      u = { s with expanders := s.expanders.set port { x with lost := true, waiting := none }, cmds := s.cmds.map f } ∧
      (∀ c, (c.migr = none → f c = c) ∧ ∀ m, c.migr = some m →
        (∀ e ∈ [m.old, c.newLeaf], e.getLsbD 61 = true ∧ pteCl e = port.val + 1 →
          (f c).migr = none ∧ (f c).result.map (·.toNat) = some (resultBits Cause.memPathLost.code.toNat c.satf c.flg c.seq 0)) ∧
        ((∀ e ∈ [m.old, c.newLeaf], e.getLsbD 61 = false ∧ e.getLsbD 58 = false) → f c = c)) ∧
      EventIn u t (eventOf 5 Cause.memPathLost.code.toNat 0 0 (BitVec.ofNat 64 port.val) 0 s.hubcount)) ∧
    ∀ b, (x.up = none → exec (.expanderLinkUp port b) s =
        .next { s with expanders := s.expanders.set port { x with waiting := if b then none else x.waiting } }) ∧
      ∀ v, x.up = some v → ∃ t, exec (.expanderLinkUp port b) s = .next t ∧
        EventIn { s with expanders := s.expanders.set port { x with up := none, lost := x.lost && !b, waiting := none } } t
          (eventOf 6 (if b then 0 else Cause.memPathLost.code.toNat) 0 0 v 0 s.hubcount)

/-- The host's work on contexts: CTXCTL_CREATE and CTXCTL_END (R196, R380, R381), FANS_RESOLVE and FANS_REFUSE (R383), INVAL and its
completion (R203, R384), and LAUNCH_QUEUE_WAKE (R382). The model's choice (log entry 27): a creation whose descriptor lies in a poisoned line is
refused, the end of a context that is not live does nothing, the event of a refused creation carries the value written, and
INVAL_COMPLETE waits for the context's open requests and drops the copies then. -/
def Obligations.HostContexts : Prop :=
  ∀ (s : State) (v : Word),
    let c := v.extractLsb' 0 6
    let op := v.toNat / 2 ^ 8 % 4
    let written := { s with host := { s.host with ctxctl := BitVec.ofNat 64 (v.toNat % 2 ^ 63) } }
    let at_ := mainKey (s.host.ctxtab.toNat % 2 ^ 48 + 64 * c.toNat)
    let w := fun (i : Nat) => (readWord s (at_ + 8 * i)).toNat
    let good := 2 ^ 63 ≤ w 0 ∧ w 0 / 2 ^ 48 % 2 ^ 15 = 0 ∧ w 1 < 2 ^ 48 ∧ w 2 < 2 ^ 48 ∧ w 3 / 2 ^ 32 % 2 ^ 20 = 0 ∧
      w 4 / 2 ^ 48 % 2 ^ 8 = 0 ∧ w 4 < 2 ^ 60 ∧ w 5 < 2 ^ 16 ∧ w 6 = 0 ∧ w 7 = 0
    let open_ := (ctxOf s c).live = false ∧ lineOf at_ ∉ s.poison ∧ good
    (op ≠ 1 → exec (.ctxctlCreate v) s = .next s) ∧
    (op = 1 → ¬open_ → Tells (.ctxctlCreate v) s written 6 1 v) ∧
    (op = 1 → open_ → ∃ t, exec (.ctxctlCreate v) s = .next t ∧ t = { written with contexts := t.contexts } ∧
      (∀ d, d ≠ c → ctxOf t d = ctxOf s d) ∧ ctxOf t c = { Context.blank with live := true, desc := (ctxOf t c).desc } ∧
      ∀ i : Fin 8, (ctxOf t c).desc.get i = readWord s (at_ + 8 * i.val)) ∧
    ((op ≠ 2 ∨ (ctxOf s c).live = false) → exec (.ctxctlEnd v) s = .next s) ∧
    (op = 2 → (ctxOf s c).live = true → s.Inv → s.Distinct → ∃ t, exec (.ctxctlEnd v) s = .next t ∧
      ContextEnds written t c Cause.contextEnded.code.toNat) ∧
    (∀ p ∈ [(Instr.fansResolve v, 1, true), (.fansRefuse v, 2, false)],
      (v.toNat / 2 ^ 56 % 4 ≠ p.2.1 → exec p.1 s = .next s) ∧
      (v.toNat / 2 ^ 56 % 4 = p.2.1 → ∃ t, exec p.1 s = .next t ∧
        AnsweredAll { s with host := { s.host with fans := v } } t (v.extractLsb' 58 6) (v.toNat / 2 ^ 16 % 2 ^ 32) p.2.2)) ∧
    (∀ p ∈ [(Instr.invalContext v, 0), (.invalBuffer v, 1), (.invalPage v, 2), (.invalScope v, 3)],
      (v.toNat / 2 ^ 56 % 4 ≠ p.2 → exec p.1 s = .next s) ∧
      (v.toNat / 2 ^ 56 % 4 = p.2 →
        (s.host.invalBusy = false → exec p.1 s = .next { s with host := { s.host with inval := v, invalBusy := true } }) ∧
        ∃ t, exec p.1 s = .next t ∧ t.host.inval = v ∧ t.host.invalBusy = true)) ∧
    (s.host.inval = v →
      let d := v.extractLsb' 58 6
      let x := ctxOf s d
      let kind := v.toNat / 2 ^ 56 % 4
      let from_ := mainKey (s.host.ctxtab.toNat % 2 ^ 48 + 64 * d.toNat)
      ((s.host.invalBusy = false ∨ ∃ o ∈ s.outstanding, o.ctx = d) → exec .invalComplete s = .next s) ∧
      (s.host.invalBusy = true → (∀ o ∈ s.outstanding, o.ctx ≠ d) → ∃ t, exec .invalComplete s = .next t ∧ t.host.invalBusy = false ∧
        (x.live = false → t = { s with host := { s.host with invalBusy := false } }) ∧
        (x.live = true → (kind = 0 → lineOf from_ ∉ s.poison) → ∃ y, ctxOf t d = y ∧
          t = { s with host := { s.host with invalBusy := false }, contexts := t.contexts } ∧ (∀ e, e ≠ d → ctxOf t e = ctxOf s e) ∧
          (kind = 0 → y = { x with desc := y.desc, bufCache := [], pteCache := [], scopeCache := [] } ∧
            ∀ i : Fin 8, y.desc.get i = readWord s (from_ + 8 * i.val)) ∧
          (kind = 1 → y = { x with bufCache := x.bufCache.filter fun e => decide (e.1 ≠ v.toNat % 2 ^ 12) }) ∧
          (kind = 2 → y = { x with pteCache := y.pteCache } ∧ (∀ e ∈ y.pteCache, e ∈ x.pteCache) ∧ ∀ lvl at_ leaf,
            walkFrom s d (v.toNat / 2 ^ 16 % 2 ^ 32 * 65536) (ptRoot x) walkLevels = .leaf lvl at_ leaf → ∀ e ∈ y.pteCache, e.1 ≠ at_) ∧
          (kind = 3 → y = { x with scopeCache := [] })))) ∧
    exec .launchQueueWake s = .next { s with lqTail := some (readWord s (mainKey (s.host.lqctl.toNat % 2 ^ 48))) }

/-- GENCOMMIT and the work that it catches (R366 to R369), and PKGNUM_WRITE (R366); PKG and PODGEN as MFS reads them. The model's choice:
CODE and the detail word of a refused commit's event (log entry 31); that all open requests, and every MCAST and REDUCE at level POD, fail
at once, and that the requests which wait here are answered as not current (log entry 26). -/
def Obligations.GroupCommits : Prop :=
  ∀ (s : State) (v : Word),
    let own := assocGet 0 s.staging s.host.pkgnum.toNat
    let gen := v.extractLsb' 0 32
    let podCmd := fun (c : Cmd) => c.result = none ∧ (c.cls = 2 ∨ c.cls = 3) ∧ c.lvl = 5
    let replies := (s.inbound.filter fun x => (assocGet 0 s.staging x.req.pkg.toNat).getLsbD 63).map fun x =>
      Message.answer x.req.pkg gen x.req.id .notCurrent
    let bad := own.getLsbD 63 = false ∨ gen = s.podgen ∨ ∃ e ∈ s.staging, e.2.toNat % 2 ^ 48 ≠ 0 ∨ e.2.toNat / 2 ^ 56 % 2 ^ 6 ≠ 0
    (∀ (h : Hdr) (o : OpsB), Clear s h →
      (o.imm.toNat = 0x007 → GivesG (.mfs h o) s h o.dst fun _ => BitVec.ofNat 64 s.host.pkgnum.toNat) ∧
      (o.imm.toNat = 0x070 → GivesG (.mfs h o) s h o.dst fun _ => BitVec.ofNat 64
        (2 ^ 32 * ((List.range 1024).filter fun p => (assocGet 0 s.group p).getLsbD 63).length + s.podgen.toNat))) ∧
    (bad → Tells (.gencommit v) s s 10 1 v) ∧
    (¬bad → (∀ p ∈ s.staging, p.1 < 1024 ∧ ∀ q ∈ s.staging, p.1 = q.1 → p = q) → ∃ t, exec (.gencommit v) s = .next t ∧ t.podgen = gen ∧ t.committed = true ∧
      t.outstanding = [] ∧ t.inbound = [] ∧
      (∀ p, assocGet 0 t.group p = if (assocGet 0 s.staging p).getLsbD 63 then assocGet 0 s.staging p &&& 0xBFFFFFFFFFFFFFFF else 0) ∧
      (∀ c ∈ s.cmds, podCmd c → ∃ d ∈ t.cmds, d.id = c.id ∧ d.result ≠ none ∧
        (c.fails = [] → ∃ n, d.result.map (·.toNat) = some (resultBits Cause.peerUnreachable.code.toNat c.satf c.flg c.seq n))) ∧
      ((∀ p ∈ s.phasers, p.2.pod = false) → (∀ c ∈ s.cmds, ¬podCmd c) →
        (s.outstanding = [] → t = { s with group := t.group, podgen := gen, committed := true, podPeers := [], inbound := [],
                                           outbox := s.outbox ++ replies }) ∧
        ∀ o, s.outstanding = [o] → s.inbound = [] → (∀ c p d, o.owner ≠ .piece c p d) → ∃ u,
          exec (.remoteAnswer ⟨o.peer, s.podgen, o.id⟩ .notCurrent) s = .next u ∧
          t = { u with group := t.group, podgen := gen, committed := true, podPeers := [] })) ∧
    ((∃ c, (ctxOf s c).live = true) → exec (.pkgnumWrite v) s = .next s) ∧
    ((∀ c, (ctxOf s c).live = false) → exec (.pkgnumWrite v) s = .next
      { s with host := { s.host with pkgnum := v.extractLsb' 0 10 }, group :=
        if s.committed then s.group else [(v.toNat % 1024, 0x8000000000000000)] })

/-- The host register block: the rings (R379, R388), RESVSET (R282, R386), HOST_REGISTER_WRITE and what is read back (R379, R394),
HOST_MEMORY_ACCESS (R378, R382, R392) and FIRMWARE_HOST_ACCESS (R394). The model's choice: what IDENT counts, the bits of STATUS, that a
value of FWWIN which R394 does not allow is ignored, that an ACT or OP which no rule lists is refused, and that RESVSET of a unit which
does not exist is ignored (log entry 29); that a poisoned byte reads as none (log entry 28); that the host reads and writes nothing in
recovery (log entry 30); a size field of 0 and a base of 0 (log entry 13). -/
def Obligations.HostRegisters : Prop :=
  ∀ (s : State) (v : Word),
    let h := s.host
    exec (.frbaseWrite v) s = .next { s with host := { h with frbase := v, frprod := 0, frcons := 0 } } ∧
    exec (.frconsWrite v) s = .next { s with host := { h with frcons := v.extractLsb' 0 32 } } ∧
    (s.eventWait = [] → exec (.evbaseWrite v) s = .next { s with host := { h with evbase := v, evprod := 0, evcons := 0 } } ∧
      exec (.evconsWrite v) s = .next { s with host := { h with evcons := v.extractLsb' 0 32 } }) ∧
    (∀ r, s.eventWait = [r] → ∃ t, exec (.evconsWrite v) s = .next t ∧
      EventIn { s with host := { h with evcons := v.extractLsb' 0 32 }, eventWait := [] } t r) ∧
    ((∀ r ∈ s.eventWait, r.length = 8) → s.eventWait.length ≤ slotsOf v → ∃ t, exec (.evbaseWrite v) s = .next t ∧ t.eventWait = [] ∧
      t.host = { h with evbase := v, evprod := BitVec.ofNat 32 s.eventWait.length, evcons := 0 } ∧
      ∀ i r, s.eventWait[i]? = some r → ∀ j, j < 8 → r[j]? = some (readWord t (mainKey (v.toNat % 2 ^ 48 + 64 * i) + 8 * j))) ∧
    (let u : HwUnit := ⟨v.toNat / 2 ^ 60, v.toNat / 2 ^ 52 % 2 ^ 8⟩
     let r := v.extractLsb' 0 16
     let held := ∃ g ∈ s.grids, recResv g.words ≠ r ∧ ∃ m ∈ g.members, m.retired = false ∧
       (HwUnit.holds u m.unit = true ∨ HwUnit.holds m.unit u = true)
     ((u.lvl = 0 ∨ 3 < u.lvl ∨ unitOk s u = false) → exec (.resvset v) s = .next s) ∧
     (1 ≤ u.lvl → u.lvl ≤ 3 → unitOk s u = true → ∃ t, exec (.resvset v) s = .next t ∧ t = { s with resvs := t.resvs } ∧
       ∃ x ∈ t.resvs, x.unit = u ∧ (¬held → x.now = r ∧ x.next = none) ∧
         (held → x.next = some r ∧ (x.now = 0 ∨ ∃ y ∈ s.resvs, y.unit = u ∧ y.now = x.now)))) ∧
    (∀ off ∈ [0x0020, 0x0040, 0x0048, 0x00B8], ∃ t, exec (.hostRegisterWrite off v) s = .next t ∧ hostReg t off = v ∧
      t = { s with host := { h with ctxtab := t.host.ctxtab, lqctl := t.host.lqctl, lqbase := t.host.lqbase, svcaddr := t.host.svcaddr },
                   lqTail := t.lqTail, lqPos := t.lqPos } ∧
      (∀ o, o ≠ off → hostReg t o = hostReg s o) ∧ (off ∈ [0x0040, 0x0048] → t.lqTail = none ∧ t.lqPos = 0)) ∧
    (∀ p ∈ [(0x3100, v.toNat % 0x1000 = 0), (0x3108, v.toNat % 0x1000 = 0 ∧ v.toNat ≤ 0x1000000)],
      (p.2 → ∃ t, exec (.hostRegisterWrite p.1 v) s = .next t ∧ hostReg t p.1 = v ∧ ∀ o, o ≠ p.1 → hostReg t o = hostReg s o) ∧
      (¬p.2 → exec (.hostRegisterWrite p.1 v) s = .next s)) ∧
    (∀ n, n < 1024 → ∃ t, exec (.hostRegisterWrite (0x1000 + 8 * n) v) s = .next t ∧ t = { s with staging := t.staging } ∧
      assocGet 0 t.staging n = v ∧ hostReg t (0x1000 + 8 * n) = v ∧ ∀ m, m ≠ n → assocGet 0 t.staging m = assocGet 0 s.staging m) ∧
    (∀ off, (off ∈ [0x0000, 0x0008, 0x0068, 0x0088, 0x3000, 0x3008, 0x3110] ∨ 0x4000 ≤ off) → exec (.hostRegisterWrite off v) s = .next s) ∧
    (6 ≤ actOf v → exec (.hostRegisterWrite 0x00B0 v) s =
      .next { s with host := { h with svcctl := plainOf v + 0x4000000000000000 } }) ∧
    ((actOf v = 0 ∨ 5 ≤ actOf v) → Tells (.hostRegisterWrite 0x00D0 v) s
      { s with host := { h with req := plainOf v + 0x4000000000000000 } } 6 1 (plainOf v)) ∧
    hostReg s 0x0000 = 0x52001 ∧ (msix s 0 = true ↔ h.frprod ≠ h.frcons) ∧ (msix s 1 = true ↔ h.evprod ≠ h.evcons) ∧
    (∀ n : Fin 4, (hostReg s 0x0008).getLsbD (8 + n.val) = (s.dies.get n).present) ∧ (hostReg s 0x0008).getLsbD 0 = h.ready ∧
    (hostReg s 0x0008).getLsbD 1 = h.recovery ∧ (hostReg s 0x0008).getLsbD 2 = s.standby.isSome ∧
    (∀ (addr : Nat) (a : HostAccess), h.recovery = true → exec (.hostMemoryAccess addr a) s = .next { s with hostData := [] }) ∧
    (∀ (addr n : Nat), h.recovery = false → let C := lineCapacity (retirements s)
      ∃ t, exec (.hostMemoryAccess addr (.read n)) s = .next t ∧ t = { s with hostData := t.hostData } ∧ t.hostData.length = n ∧
        ∀ i, i < n → t.hostData[i]? = some (if C ≤ (addr + i) / 64 ∨ (addr + i) / 64 ∈ s.poison then none
          else some (readByte s (mainKey (addr + i))))) ∧
    (∀ (addr : Nat) (bs : List Byte), h.recovery = false → let C := lineCapacity (retirements s)
      (∀ i, i < bs.length → (addr + i) / 64 ∉ s.poison) → ∃ t, exec (.hostMemoryAccess addr (.write bs)) s = .next t ∧
        t = { s with mem := t.mem, cmds := t.cmds, lqTail := t.lqTail } ∧
        (∀ i b, bs[i]? = some b → readByte t (mainKey (addr + i)) = if (addr + i) / 64 < C then b else readByte s (mainKey (addr + i))) ∧
        (∀ a, (a < addr ∨ addr + bs.length ≤ a) → readByte t a = readByte s a) ∧
        let q := h.lqctl.toNat % 2 ^ 48
        t.lqTail = if addr < q + 64 ∧ q < addr + bs.length then none else s.lqTail) ∧
    ∀ (addr n : Nat) (a : HostAccess), (a = .read n ∨ ∃ bs, a = .write bs ∧ bs.length = n) →
      exec (.firmwareHostAccess addr a) s = .next (if h.fwbase.toNat ≤ addr ∧ addr + n ≤ h.fwbase.toNat + h.fwsize.toNat then
        { s with outbox := s.outbox ++ [.hostMemory addr a] } else { s with host := { h with fwdrop := h.fwdrop + 1 } })

/-- SVCCTL (R327, R328, R331, R340, R385) and FLTCTL (R134, R337, R338, R387): what each action does to the flight that it names, when it is
refused, what follows while an action is under way, and the event that ends an action of FLTCTL. The model's choice: an image lies below
MCAP, has the version of R340, and its flight keeps its context, or the action is refused, and BUSY clears only where FLTCTL still shows
the action that ends (log entry 29); the codes of an image (log entry 12); that the host's stop and a core switch take the place of the
newel's, and a core switch of any other (log entry 32); TINSN 0 of CODE_ABSENT in a return by service (log entry 5). -/
def Obligations.HostFlights : Prop :=
  (∀ (s : State) (v : Word),
    let id := namedFlight v
    let acts := [Instr.svcctlWriteImage v, .svcctlReadImage v, .svcctlRetry v, .svcctlSkip v, .svcctlEndMember v, .svcctlEndContext v]
    let set := fun (b : Bool) => { s.host with svcctl := if b then plainOf v + 0x4000000000000000 else plainOf v }
    let a := s.host.svcaddr.toNat / 4096 % 2 ^ 36 * 4096
    let room := a + 0x1A000 ≤ 64 * lineCapacity (retirements s)
    let place := fun (i : Nat) => mainKey (a + 8 * i)
    (∀ n i, acts[n]? = some i →
      (actOf v ≠ n → exec i s = .next s) ∧
      (actOf v = n → (∀ x, flightOf s id = some x → x.service = false ∨ x.ending ≠ none) →
        exec i s = .next { s with host := set true })) ∧
    ∀ x, flightOf s id = some x → x.service = true → x.ending = none →
      (actOf v = 0 → ¬room → exec (.svcctlWriteImage v) s = .next { s with host := set true }) ∧
      (actOf v = 0 → room → ∃ t, exec (.svcctlWriteImage v) s = .next t ∧
        t = { s with mem := t.mem, poison := t.poison, cmds := t.cmds, host := set false } ∧
        (∀ i, i < 0x3400 → readWord t (place i) = imageWord x i) ∧
        ∀ b, (b < place 0 ∨ place 0 + 0x1A000 ≤ b) → readByte t b = readByte s b) ∧
      (actOf v = 1 → (¬room ∨ (∃ i, i < 0x680 ∧ lineOf (place (8 * i)) ∈ s.poison) ∨ (readWord s (place 0)).toNat % 2 ^ 16 ≠ 0x2001) →
        exec (.svcctlReadImage v) s = .next { s with host := set true }) ∧
      (actOf v = 1 → room → (∀ i, i < 0x680 → lineOf (place (8 * i)) ∉ s.poison) → (readWord s (place 0)).toNat % 2 ^ 16 = 0x2001 →
        ∃ t y, exec (.svcctlReadImage v) s = .next t ∧ t = { s with fl := t.fl, flights := t.flights, host := set false } ∧
          flightOf t id = some y ∧ y.service = true ∧ y.ctx = x.ctx ∧ y.stopped = x.stopped ∧
          y.mm = x.mm ∧ y.priv = x.priv ∧ y.hnd = x.hnd ∧ y.tcause = (readWord s (place 7)).setWidth 10 ∧ y.tmask = (readWord s (place 8)).setWidth 32 ∧
          y.tpc = (readWord s (place 9)).setWidth 17 ∧ y.tinsn = readWord s (place 10) ∧ ∀ j : LaneId,
            (y.lane j).pc = (readWord s (place (0x200 + 16 * j.val))).setWidth 17 ∧
            (∀ i : BitVec 6, i ≠ 0 → (y.lane j).getG i = readWord s (place (0xC00 + 64 * j.val + i.toNat))) ∧
            ∀ (i : BitVec 5) (n : Nat), n < 8 → ((y.lane j).getV i).extractLsb' (64 * n) 64 =
              readWord s (place (0x1400 + 256 * j.val + 8 * i.toNat + n))) ∧
      (∀ p ∈ [(2, Instr.svcctlRetry v, false), (3, .svcctlSkip v, true)], actOf v = p.1 →
        (x.tcause.getLsbD 9 = true → exec p.2.1 s = .next { s with host := set true }) ∧
        let at_ := x.tpc.toNat + if p.2.2 = true ∧ x.trapRep = false ∧ x.tinsn.getLsbD 62 = false then 8 else 0
        let ok := at_ < 0x20000 ∧ (coreOf s id.coreNo).slots.get (Fin.ofNat 32 (at_ / 4096)) = .present
        (x.tcause.getLsbD 9 = false → ok → ∃ t y, exec p.2.1 s = .next t ∧
          t = { s with fl := t.fl, flights := t.flights, host := set false } ∧ flightOf t id = some y ∧ Returns x p.2.2 y) ∧
        (x.tcause.getLsbD 9 = false → ¬ok → gridOps s x = [] → x.hnd = true → x.live = true → (∃ k, (x.lane k).st = .parked .service) →
          ∃ t y, exec p.2.1 s = .next t ∧ t.host.svcctl = plainOf v ∧ flightOf t id = some y ∧ y.tcause = 0x204 ∧ y.tinsn = 0 ∧ y.hnd = true ∧
            y.service = true ∧ ∀ k : LaneId, (y.lane k).prog = (x.lane k).prog ∧ (y.lane k).st = (x.lane k).st ∧
              ((x.lane k).st = .parked .service → y.tmask.has k = true ∧ (y.lane k).tval = BitVec.ofNat 64 at_))) ∧
      (actOf v = 4 → ∀ c : Cause, x.tcause.extractLsb' 0 8 = c.code → (∀ r, x.member = some r → ∃ m, memberOf s r = some m ∧ m.leader = some id) →
        ∃ t, exec (.svcctlEndMember v) s = .next t ∧ t.host = set false ∧ EndsWith s t id x c) ∧
      (actOf v = 5 → s.Inv → s.Distinct → ∃ u, ContextEnds s u x.ctx Cause.contextEnded.code.toNat ∧
        exec (.svcctlEndContext v) s = .next { u with host := { u.host with svcctl := plainOf v } })) ∧
  ∀ (s : State) (v : Word),
    let id := namedFlight v
    let core := id.coreNo
    let ended := { s with host := { s.host with fltctl := plainOf v } }
    let busy := { s.host with fltctl := plainOf v + 0x8000000000000000, fltPending := s.host.fltPending ++ [plainOf v] }
    let refused := fun (i : Instr) =>
      Tells i s { s with host := { s.host with fltctl := plainOf v + 0x4000000000000000 } } 6 1 (plainOf v)
    let done := eventOf 6 0 0 0 (plainOf v) 0 s.hubcount
    let exists_ := id.die < 4 ∧ id.core < 48 ∧ (s.dies.get (Fin.ofNat 4 id.die)).present = true
    let here := fun (x : Flight) => x ∈ allFlights s ∧ x.id.coreNo = core ∧ x.slot ≠ none
    let ins := ((allFlights s).filter fun x => decide (x.id.coreNo = core) && x.slot.isSome).length
    let outs := ((allFlights s).filter fun x =>
      decide (x.id.coreNo = core) && x.slot.isNone && allLanes.any fun k => decide ((x.lane k).st ≠ .exited)).length
    let now := ccountOf s id.die
    (∀ n i, [Instr.fltctlStop v, .fltctlResume v, .fltctlSwitchOut v, .fltctlResumeCore v][n]? = some i → actOf v ≠ n + 1 → exec i s = .next s) ∧
    (flightOf s id = none → (actOf v = 1 → refused (.fltctlStop v)) ∧ (actOf v = 2 → refused (.fltctlResume v))) ∧
    (∀ x, flightOf s id = some x →
      (actOf v = 1 → x.stopped = false → ∃ t y, exec (.fltctlStop v) s = .next t ∧
        t = { s with fl := t.fl, flights := t.flights, host := busy } ∧ flightOf t id = some y ∧ Asked s x y .host) ∧
      (actOf v = 1 → x.stopped = true → ∃ u t y, exec (.fltctlStop v) s = .next t ∧ EventIn u t done ∧
        u = { ended with fl := u.fl, flights := u.flights } ∧ flightOf u id = some y ∧ Asked s x y .host) ∧
      (actOf v = 2 → x.stopped = false → refused (.fltctlResume v)) ∧
      (actOf v = 2 → x.stopped = true → ∃ u t, exec (.fltctlResume v) s = .next t ∧ EventIn u t done ∧
        u = { ended with fl := u.fl, flights := u.flights } ∧ flightOf u id =
          some { x with stopped := false, stoppedBy := none, switched := false, since := if x.switched then now.toNat else x.since })) ∧
    (¬exists_ → (actOf v = 3 → refused (.fltctlSwitchOut v)) ∧ (actOf v = 4 → refused (.fltctlResumeCore v))) ∧
    (exists_ →
      (actOf v = 3 → (areaRoom s id.die < ins ∨ 56 < outs + ins) → refused (.fltctlSwitchOut v)) ∧
      (actOf v = 3 → s.Distinct → ins ≤ areaRoom s id.die → outs + ins ≤ 56 →
        ∃ t, exec (.fltctlSwitchOut v) s = .next t ∧ t = { s with fl := t.fl, flights := t.flights, host := busy } ∧
          ∀ n x, flightOf s n = some x → ∃ y, flightOf t n = some y ∧ (¬here x → y = x) ∧
            (here x → x.id.die = id.die → ∃ z, Asked s x z .coreSwitch ∧
              y = { z with switched := true, preempt := z.preempt.map fun p => (p.1, .coreSwitch) })) ∧
      (actOf v = 4 → ∃ u t, exec (.fltctlResumeCore v) s = .next t ∧ EventIn u t done ∧ u = { ended with fl := u.fl, flights := u.flights } ∧
        ∀ n x, flightOf s n = some x → ∃ y, flightOf u n = some y ∧
          let off_ := x.id.coreNo = core ∧ x.switched = true ∧ x.stopped = true
          (off_ → x.stoppedBy = some .coreSwitch →
            y = { x with stopped := false, stoppedBy := none, switched := false, since := now.toNat }) ∧
          (off_ → x.stoppedBy ≠ some .coreSwitch → y = { x with switched := false, since := now.toNat }) ∧ (¬off_ → y = x))) ∧
    -- what follows at once while one action is under way
    (s.host.fltPending = [plainOf v] →
      let shown := if plainOf s.host.fltctl = plainOf v then s.host.fltctl &&& 0x7FFFFFFFFFFFFFFF else s.host.fltctl
      let clear := { s with host := { s.host with fltPending := [], fltctl := shown } }
      let ends := fun (code : Nat) => ∃ t, settleFltctl s = some t ∧ EventIn clear t (eventOf 6 code 0 0 (plainOf v) 0 s.hubcount)
      (actOf v = 1 → (flightOf s id = none → ends 1) ∧ ∀ x, flightOf s id = some x →
        (x.stopped = true → ends 0) ∧ (x.stopped = false → settleFltctl s = none)) ∧
      (actOf v = 3 → s.Distinct →
        let stays := fun (x : Flight) => here x ∧ x.switched = true
        ((∀ x, ¬stays x) → ends 0) ∧
        ((∃ x, stays x) → (∀ x, stays x → x.stopped = false) → settleFltctl s = none) ∧
        ((∃ x, stays x ∧ x.stopped = true) → swapRoom s core = true → ∃ x t z, stays x ∧ x.stopped = true ∧ settleFltctl s = some t ∧
          ∀ a, areaFree s x.id.die = some a → flightOf t x.id = some z ∧ z = { x with slot := none, since := z.since } ∧
            ImageAt t x.id.die a x ∧ OnlyImage s t x.id.die a)))

/-- POWER_GOOD (R344, R389, R391, R392) and the requests of attestation (R393): a package whose every stage verifies starts READY with
its good dies in order and nothing else; one of which a stage fails stays in recovery. What the answers hold beyond the recorded
measurements is free (log entry 9). The model's choice (log entry 30): the good dies take the logical numbers in ascending order with the
fifth on standby, and a package without a firmware stage stays in recovery. -/
def Obligations.StartUp : Prop :=
  (∀ (s : State) (b : BootImage),
    let passes := fun (x : BootStage) => x.keyDigest = Config.fusedKeyDigest ∧
      Config.signatureValid x.keyDigest x.digest x.signature = true ∧ Config.antiRollback ≤ x.version
    let port := fun (w : Word) => ({ pres := w.getLsbD 63, lost := w.getLsbD 62, atc := w.extractLsb' 56 3, units := w.extractLsb' 0 25, up := none, waiting := none } : Expander)
    let r := State.reset
    ∃ t, exec (.powerGood b) s = .next t ∧ (1, Config.romMeasurement) ∈ t.sec.measures ∧
      (b.stages ≠ [] → (∀ x ∈ b.stages, passes x) →
        t = { r with fresh := s.fresh, uid := s.uid, sec := t.sec, dies := t.dies, standby := b.goodDies[4]?, expanders := t.expanders,
                     host := { r.host with ready := true } } ∧
        (∀ k : Fin 4, (∀ p, b.goodDies[k.val]? = some p → t.dies.get k = ⟨true, p, 0, 0, 0, false, none⟩) ∧
          (b.goodDies[k.val]? = none → (t.dies.get k).present = false)) ∧
        t.expanders.get 0 = port b.exp0 ∧ t.expanders.get 1 = port b.exp1 ∧
        (∀ x rest, b.stages = x :: rest → (2, x.digest) ∈ t.sec.measures ∧ ∀ y ∈ rest, (3, y.digest) ∈ t.sec.measures)) ∧
      ((b.stages = [] ∨ ∃ x ∈ b.stages, ¬passes x) →
        t = { r with fresh := s.fresh, uid := s.uid, sec := t.sec, host := { r.host with recovery := true } })) ∧
  ∀ (s : State) (p384 sha384 : Bool) (off len index : Nat) (nonce : List Byte),
    (∀ i ∈ [Instr.getVersion, .getCapabilities, .getDigests, .getCertificate off len, .challenge nonce, .getMeasurements index nonce],
      ∃ t, exec i s = .next t ∧ t = { s with sec := { s.sec with answer := t.sec.answer } }) ∧
    (∃ t, exec (.negotiateAlgorithms p384 sha384) s = .next t ∧
      t = { s with sec := { s.sec with answer := t.sec.answer, negotiated := p384 && sha384 } }) ∧
    ∀ m, (∀ x ∈ s.sec.measures, x.1 = index ↔ x = m) → m ∈ s.sec.measures → (∃ n, m.2.length = 8 * n) →
      s.sec.measures.Nodup → ∃ t ws rest, exec (.getMeasurements index nonce) s = .next t ∧ t.sec.answer = ws ++ rest ∧
        8 * ws.length = m.2.length ∧ ∀ i b, m.2[i]? = some b → (ws.getD (i / 8) 0).extractLsb' (8 * (i % 8)) 8 = b

/-- The part right after reset: CCOUNT zero (R14), every segment slot ABSENT (R18), every line of a hall, gallery or mezzanine FREE with
P and C one and its bytes zero (R196), nothing live, and the package alone in its group with GEN zero (R366). The sparse parts
are in canonical form. -/
def Obligations.ResetValues : Prop :=
  let r := State.reset
  r.Inv ∧
  (∀ d : Fin 4, (r.dies.get d).ccount = 0) ∧
  (∀ (core : Nat) (i : Fin 32), (coreOf r core).slots.get i = .absent) ∧
  (∀ n, (lineSt r n).owner = none ∧ (lineSt r n).p = true ∧ (lineSt r n).c = true) ∧
  (∀ a, 0x1000000000000000 ≤ a → a < 0x4000000000000000 → readByte r a = 0) ∧
  (∀ c : Fin 64, (r.contexts.get c).live = false) ∧ r.flights = [] ∧ r.fl.live = false ∧ r.grids = [] ∧ r.cmds = [] ∧
  r.podgen = 0 ∧ r.committed = false ∧ (∀ p, (assocGet 0 r.group p).getLsbD 63 = true ↔ p = r.host.pkgnum.toNat) ∧
  r.anneal.count = 0 ∧ r.anneal.act = false ∧ r.host.ready = false

/-- A step runs the decoded instruction (R31, R54). While nothing is due at once: the instruction at the head of the agenda runs; or
the flight at issue is in the middle of a run, one cycle passes, and its word, the eight bytes at its pc in the
instruction store or the stepped target of its repetition, is decoded and executed, or waits for the engine's grid. A word that
is no instruction, a pc that came past the last word of a slot and a slot that is not PRESENT trap in the whole issuing set. The model's
choice: the order of the steps with the agenda among them, and one cycle of the flight's die for each word (log entry 3); that a fetch
trap strikes the whole set, with TINSN 0, bit 0 of TEMASK, and TVAL 0x20000 past the end of the store (log entry 5). -/
def Obligations.StepRunsDecoded : Prop :=
  ∀ s : State, s.power.shutDown = false → urgent s = none → loopback s s.outbox = none → futureWake s = none →
    (∀ i rest, s.agenda = i :: rest → step s = exec i { s with agenda := rest }) ∧
    (s.agenda = [] → canIssue s.fl = true → ∀ r, s.fl.run = some r →
      let pc := issuePc s
      let core := s.fl.id.coreNo
      let crossed := ∃ k, r.set.has k = true ∧ (s.fl.lane k).crossed = true
      let present := (coreOf s core).slots.get (Fin.ofNat 32 (pc.toNat / 4096)) = .present
      let absent := { tick s s.fl.id.die with iw := 0 }
      let all := fun (k : LaneId) => r.set.has k = true
      let traps := fun (u : State) (c : Cause) (v : Word) => MayTrap u → (∃ k, all k) → ∀ h, ∃ t, step s = .next t ∧
        AfterTrap u t h all c 0 (fun _ => 1) (fun _ => v) (fun k => s.fl.lane k) (fun _ => none) (fun k => s.fl.lane k) fun _ => none
      (r.rep = none → crossed → traps absent .codeAbsent (if pc = 0 then 0x20000 else pc.setWidth 64)) ∧
      (r.rep = none → ¬crossed → ¬present → traps absent .codeAbsent (pc.setWidth 64)) ∧
      ∀ w : Word,
        ((∃ p, r.rep = some p ∧ w = stepWord p.word p.step p.i) ∨
          (r.rep = none ∧ ¬crossed ∧ present ∧
            ∀ n, n < 8 → readByte s (storeKey core pc.toNat + n) = w.extractLsb' (8 * n) 8)) →
        let u := { tick s s.fl.id.die with iw := w }
        (∀ i, decode w = .ok i →
          (gridStall u (refine u i) = none → step s = exec (refine u i) u) ∧
          (∀ st, gridStall u (refine u i) = some st → step s = .next { u with fl := { u.fl with stall := some st } })) ∧
        (∀ n, decode w = .error (.pair n) → traps u .illegalPair (BitVec.ofNat 64 n)) ∧
        (decode w = .error (.illegal false) → traps u .illegal 0))

/-- Words that the spec writes out decode to the instructions that it writes beside them (R34 to R54, R104, R138, R176, R256 and the
listings of spec/08, spec/11, spec/15, spec/17 and spec/20). -/
def Obligations.DecodeSamples : Prop :=
  ∀ p ∈ ([
    -- ADD g5, g1, g2
    (0x0100850102000000, .add ⟨false, false, 0, true⟩ ⟨.g 5, .g 1, .g 2, .g 0, .fp64, 0, 0, false, false, 0⟩),
    -- (!p3) ADDI g9, g9, -4 $
    (0x811B890900FFFFFC, .addi ⟨true, true, 3, true⟩ ⟨.g 9, .g 9, 0, 16777212⟩),
    -- ADD g4, g6 with FADD.F64 g9, g10 $
    (0xC088406020112140, .dualWord true ⟨.add, 0, true, .g 4, .g 6, 0⟩ ⟨.fadd, 0, true, .g 9, .g 10, 0⟩),
    -- BFX g4, g4, 0, 32
    (0x0350840480A00000, .bfx ⟨false, false, 0, true⟩ ⟨.g 4, .g 4, .imm 0, .imm 32, .fp64, 0, 0, false, false, 0⟩),
    -- MOVI g12, 0x89ABCDEF
    (0x03908C0089ABCDEF, .movi ⟨false, false, 0, true⟩ ⟨.g 12, .g 0, 2309737967⟩),
    -- (p3) MOV g11, g3
    (0x03838B0300000000, .mov ⟨false, false, 3, true⟩ ⟨.g 11, .g 3, .g 0, .g 0, .fp64, 0, 0, false, false, 0⟩),
    -- CMPI.GT p2, g2, 0
    (0x0420E20204000000, .cmpi ⟨false, false, 0, true⟩ ⟨.p 2, .g 2, 4, 0⟩),
    -- CMP.LT p2, g22, g23
    (0x0400E21617000200, .cmp ⟨false, false, 0, true⟩ ⟨.p 2, .g 22, .g 23, .g 0, .fp64, 2, 0, false, false, 0⟩),
    -- (p2) BRA loop $
    (0x85020000FFFFFFFD, .bra ⟨true, false, 2, false⟩ ⟨.g 0, .g 0, 4294967293⟩),
    -- REP 4, DST, SA
    (0x0590000000000303, .rep ⟨false, false, 0, false⟩ ⟨.g 0, .g 0, 0, 771⟩),
    -- MTS TVEC, g20
    (0x0610001400000046, .mts ⟨false, false, 0, false⟩ ⟨.g 0, .g 20, 0, 70⟩),
    -- LDH.D g7, g4, 8 $
    (0x8630870400600001, .ldh ⟨true, false, 0, true⟩ ⟨.g 7, .g 4, .g 0, 3, 0, 0, 0, 1⟩),
    -- STH.W g4, g7, 256 $
    (0x8640040700400040, .sth ⟨true, false, 0, false⟩ ⟨.g 4, .g 7, .g 0, 2, 0, 0, 0, 64⟩),
    -- FMUL.F32 g4, g2, g3
    (0x0820840203001000, .fmul ⟨false, false, 0, true⟩ ⟨.g 4, .g 2, .g 3, .g 0, .fp32, 0, 0, false, false, 0⟩),
    -- ICVTF.F32.SI64 g2, g6
    (0x08F0820600001C00, .icvtf ⟨false, false, 0, true⟩ ⟨.g 2, .g 6, .g 0, .g 0, .fp32, 12, 0, false, false, 0⟩),
    -- CVT8 of code 6 from FP32, DITH, ADV $
    (0x89008502000061B3, .cvt8 ⟨true, false, 0, true⟩ ⟨.g 5, .g 2, .g 0, .g 0, .b8s, 1, 5, true, false, 3⟩),
    -- RJW j1
    (0x0A10007100000000, .rjw ⟨false, false, 0, false⟩ ⟨.g 0, .j 1, .g 0, .g 0, .fp64, 0, 0, false, false, 0⟩),
    -- VADD.F32 v3, v1, v2 $
    (0x9000C34142001000, .vadd ⟨true, false, 0, true⟩ ⟨.v 3, .v 1, .v 2, .g 0, .fp32, 0, 0, false, false, 0⟩),
    -- VCMP.I64.EQ v22, v16, v21
    (0x10E0D6505500C000, .vcmp ⟨false, false, 0, true⟩ ⟨.v 22, .v 16, .v 21, .g 0, .int64, 0, 0, false, false, 0⟩),
    -- VCVT.F64.SI64 v0, v18
    (0x1100C05200000C00, .vcvt ⟨false, false, 0, true⟩ ⟨.v 0, .v 18, .g 0, .g 0, .fp64, 12, 0, false, false, 0⟩),
    -- BALLOT g5, g4, g6
    (0x1220850406000000, .ballot ⟨false, false, 0, true⟩ ⟨.g 5, .g 4, .g 6, .g 0, .fp64, 0, 0, false, false, 0⟩),
    -- VRED.F32.ADD v2, v1
    (0x1230C24100001000, .vred ⟨false, false, 0, true⟩ ⟨.v 2, .v 1, .g 0, .g 0, .fp32, 0, 0, false, false, 0⟩),
    -- VBFLY.PAIR16 g4, g4, g10, 16
    (0x125084040A900004, .vbfly ⟨false, false, 0, true⟩ ⟨.g 4, .g 4, .g 10, .imm 16, .fp64, 0, 0, false, false, 4⟩),
    -- VTBL.B.T2 v5, v1, v8, 0xFF $
    (0x9260C54148000FF1, .vtbl ⟨true, false, 0, true⟩ ⟨.v 5, .v 1, .v 8, .g 0, .fp64, 255, false, false, 1⟩),
    -- VLDH v24, g7, 0x1800 $
    (0x9300D80700E00060, .vldh ⟨true, false, 0, true⟩ ⟨.v 24, .g 7, .g 0, 7, 0, 0, 0, 96⟩),
    -- MMODE.ON $
    (0x9400000000000001, .mmodeOn ⟨true, false, 0, false⟩ ⟨.g 0, .g 0, .g 0, .g 0, .fp64, 0, 0, false, false, 1⟩),
    -- MMAI.K1 v24, v0, v8, g10, 8
    (0x1420D840480A0081, .mmai ⟨false, false, 0, true⟩ ⟨.v 24, .v 0, .v 8, .g 10, 0, 8, false, 1⟩),
    -- MZERO.T2 v24
    (0x1430D80000000001, .mzero ⟨false, false, 0, true⟩ ⟨.v 24, .g 0, .g 0, .g 0, .fp64, 0, 0, false, false, 1⟩),
    -- (p6) LDM.W g19, g18, 0 $
    (0x9846931200430000, .ldm ⟨true, false, 6, true⟩ ⟨.g 19, .g 18, .g 0, 2, 0, 3, 0, 0⟩),
    -- VLDM v4, g20, 0 $
    (0x98C0C41400E30000, .vldm ⟨true, false, 0, true⟩ ⟨.v 4, .g 20, .g 0, 7, 0, 3, 0, 0⟩),
    -- FENCE.AR p2, POD $
    (0x9C00E20000017000, .fence ⟨true, false, 0, true⟩ ⟨.p 2, .g 0, .g 0, 0, 5, 3, 0, false, 0, false⟩),
    -- AADD.D.M.REL g5, g20, g6, 8, PKG $
    (0x9C10851406731001, .aadd ⟨true, false, 0, true⟩ ⟨.g 5, .g 20, .g 6, 3, 2, 3, 4, 1⟩),
    -- QBIND q1, COPY, DIE
    (0x2000000081300200, .qbind ⟨false, false, 0, false⟩ ⟨.g 0, .g 0, .imm 1, 3, 0, 0, 1, false, 0, false⟩),
    -- COPY q1, g20, g0
    (0x2030001400012200, .copy ⟨false, false, 0, false⟩ ⟨.g 0, .g 20, .g 0, 0, 4, 2, 1, false, 0, false⟩),
    -- MOV g9, q1 $
    (0x8380896900000000, .movQueuePop ⟨true, false, 0, true⟩ ⟨.g 9, .q 1, .g 0, .g 0, .fp64, 0, 0, false, false, 0⟩),
    -- LAUNCH.NB p4, g32, CHILD
    (0x2200E42000B00001, .launch ⟨false, false, 0, true⟩ ⟨.p 4, .g 32, .g 0, 11, 0, 0, 0, false, 0, true⟩),
    -- TSPLIT.Q4 g9, g8, g6, g7
    (0x2210890806070400, .tsplit ⟨false, false, 0, true⟩ ⟨.g 9, .g 8, .g 6, .g 7, .fp64, 4, 0, false, false, 0⟩),
    -- FREG _, g20, g7, CHILD
    (0x2420001407B12000, .freg ⟨false, false, 0, false⟩ ⟨.g 0, .g 20, .g 7, 11, 4, 2, 0, false, 0, false⟩),
    -- FWAIT.ACQ g26, g20, PKG
    (0x24309A1400011000, .fwait ⟨false, false, 0, true⟩ ⟨.g 26, .g 20, .g 0, 0, 4, 1, 0, false, 0, false⟩),
    -- PHNEXT.AR g12, g30, CLUSTER $
    (0xA4A08C1E00203000, .phnext ⟨true, false, 0, true⟩ ⟨.g 12, .g 30, .g 0, 2, 0, 3, 0, false, 0, false⟩),
    -- BAR.AR SELF $
    (0xA4D0000000803000, .bar ⟨true, false, 0, false⟩ ⟨.g 0, .g 0, .g 0, 8, 0, 3, 0, false, 0, false⟩),
    -- TFIX -1
    (0x281000FF00000000, .tfix ⟨false, false, 0, false⟩ ⟨.g 0, .imm 127, .g 0, .g 0, .fp64, 0, 0, false, false, 0⟩),
    -- RTE.SKIP $
    (0xA800000000000001, .rteSkip ⟨true, false, 0, false⟩ ⟨.g 0, .g 0, .g 0, .g 0, .fp64, 0, 0, false, false, 1⟩),
    -- CTXSV g20
    (0x2820001400000000, .ctxsvSave ⟨false, false, 0, false⟩ ⟨.g 0, .g 20, .g 0, 0, 0, 0, 0, false, 0, false⟩),
    -- ERRQPOP g8
    (0x2C00880000000000, .errqpop ⟨false, false, 0, true⟩ ⟨.g 8, .g 0, .g 0, 0, 0, 0, 0, false, 0, false⟩)] : List (Word × Instr)), decode p.1 = .ok p.2

/-- Decoding what the encoder writes gives the instruction back, for every word instruction that is well formed: no field of an
encoding is dropped (R34 to R54). The three other forms of CTXSV have the word of its first form and are told apart at issue
(R341). -/
def Obligations.DecodeEncode : Prop :=
  ∀ i : Instr, i.isWord = true → i.wf = true → (∀ h o, i ≠ .ctxsvRestore h o ∧ i ≠ .ctxsvSaveFree h o ∧ i ≠ .ctxsvResume h o) →
    ∃ w, encode i = some w ∧ decode w = .ok i

/-- Every step keeps the canonical form of the memory and of the line states: addresses rise strictly and nothing is listed that an
unlisted address reads as (R195, log entry 2). -/
def Obligations.InvariantKept : Prop := ∀ s t : State, s.Inv → step s = .next t → t.Inv
end

