-- ==== Sys2Proof/Laws/Base.lean ====
section
/-! SUPPORT. Laws of tables, lane sets and the named register operations. -/

namespace Sys2Proof

@[simp] theorem tab_get {α : Type} {n : Nat} (f : Fin n → α) (k : Fin n) : (tab f).get k = f k := by
  simp [tab, Vector.get]
  rfl

@[simp] theorem vector_get_set {α : Type} {n : Nat} (v : Vector α n) (i : Nat) (hi : i < n) (j : Fin n) (x : α) :
    (v.set i x hi).get j = if j.val = i then x else v.get j := by
  simp only [Vector.get_eq_getElem, Vector.getElem_set, eq_comm]

theorem foldl_or_getLsbD (f : LaneId → Bool) (i : Nat) (hi : i < 32) (l : List LaneId) (m : LaneSet) :
    (l.foldl (fun m k => if f k then m ||| (1#32 <<< k.val) else m) m).getLsbD i =
      (m.getLsbD i || l.any fun k => f k && decide (k.val = i)) := by
  induction l generalizing m with
  | nil => simp
  | cons k l ih =>
    rw [List.foldl_cons, ih, List.any_cons, ← Bool.or_assoc]
    congr 1
    by_cases hf : f k = true
    · by_cases hk : k.val = i
      · simp [hf, hk, hi]
      · have : ((1#32) <<< k.val).getLsbD i = false := by
          simp only [BitVec.getLsbD_shiftLeft, BitVec.getLsbD_one, hi, decide_true, Bool.true_and]
          by_cases h : i < k.val
          · simp [h]
          · simp; omega
        simp [hf, hk, this]
    · simp [hf]

@[simp] theorem laneSetOf_has (f : LaneId → Bool) (k : LaneId) : (laneSetOf f).has k = f k := by
  unfold laneSetOf LaneSet.has
  rw [foldl_or_getLsbD f k.val k.isLt]
  simp only [BitVec.getLsbD_zero, Bool.false_or]
  cases h : f k
  · simp only [List.any_eq_false, List.mem_finRange, Bool.and_eq_true, decide_eq_true_eq, not_and, true_implies]
    intro x hx hk
    have : x = k := Fin.ext hk
    rw [this, h] at hx; cases hx
  · simp only [List.any_eq_true, List.mem_finRange, true_and]
    exact ⟨k, by simp [h]⟩

theorem laneSet_ext {m n : LaneSet} (h : ∀ k : LaneId, m.has k = n.has k) : m = n := by
  apply BitVec.eq_of_getLsbD_eq
  intro i hi
  exact h ⟨i, hi⟩

@[simp] theorem LaneSet.has_zero (k : LaneId) : LaneSet.has 0#32 k = false := by simp [LaneSet.has]

theorem laneSet_eq_zero {m : LaneSet} : m = 0#32 ↔ ∀ k : LaneId, m.has k = false :=
  ⟨fun h k => by simp [h], fun h => laneSet_ext fun k => by simp [h k]⟩

theorem laneSetOf_eq_zero {f : LaneId → Bool} : laneSetOf f = 0#32 ↔ ∀ k, f k = false := by
  rw [laneSet_eq_zero]; simp

end Sys2Proof

namespace Sys2Proof.Machine

@[simp] theorem Flight.mapLanes_lane (f : Flight) (g : LaneId → Lane → Lane) (k : LaneId) :
    (f.mapLanes g).lane k = g k (f.lane k) := by simp [Flight.mapLanes, Flight.lane]

theorem laneOuts_get (s : State) (h : Hdr) (f : LaneId → Lane → LaneOut) (k : LaneId) :
    (laneOuts s h f).get k = laneOut s h f k := by simp [laneOuts]

/-- What reading a general register gives after a write (R7). -/
theorem Lane.getG_setG (l : Lane) (i j : BitVec 6) (x : Word) :
    (l.setG i x).getG j = if j = i ∧ i ≠ 0 then x else l.getG j := by
  unfold Lane.setG Lane.getG
  by_cases hi : i = 0#6
  · simp [hi]
  · by_cases hij : j = i
    · subst hij; simp [hi]
    · have hv : j.toNat ≠ i.toNat := fun e => hij (BitVec.eq_of_toNat_eq e)
      simp [hi, hij, hv, Lane.mend]

end Sys2Proof.Machine
end

