-- ==== Sys2Proof/Laws/State.lean ====
section
/-! SUPPORT. What each named update of the state, of a flight and of a lane leaves as it was, field by field. -/

namespace Sys2Proof.Machine

/-! Updates of one field of the state. -/

@[simp] theorem setLine_fl (s : State) (n : Nat) (x : LineState) : (setLine s n x).fl = s.fl := rfl
@[simp] theorem setLine_flights (s : State) (n : Nat) (x : LineState) : (setLine s n x).flights = s.flights := rfl
@[simp] theorem setLine_cores (s : State) (n : Nat) (x : LineState) : (setLine s n x).cores = s.cores := rfl
@[simp] theorem setLine_mem (s : State) (n : Nat) (x : LineState) : (setLine s n x).mem = s.mem := rfl
@[simp] theorem setLine_poison (s : State) (n : Nat) (x : LineState) : (setLine s n x).poison = s.poison := rfl
@[simp] theorem setLine_contexts (s : State) (n : Nat) (x : LineState) : (setLine s n x).contexts = s.contexts := rfl
@[simp] theorem setLine_dies (s : State) (n : Nat) (x : LineState) : (setLine s n x).dies = s.dies := rfl
@[simp] theorem setLine_standby (s : State) (n : Nat) (x : LineState) : (setLine s n x).standby = s.standby := rfl
@[simp] theorem setLine_hubcount (s : State) (n : Nat) (x : LineState) : (setLine s n x).hubcount = s.hubcount := rfl
@[simp] theorem setLine_phasers (s : State) (n : Nat) (x : LineState) : (setLine s n x).phasers = s.phasers := rfl
@[simp] theorem setLine_podPeers (s : State) (n : Nat) (x : LineState) : (setLine s n x).podPeers = s.podPeers := rfl
@[simp] theorem setLine_bars (s : State) (n : Nat) (x : LineState) : (setLine s n x).bars = s.bars := rfl
@[simp] theorem setLine_barOwed (s : State) (n : Nat) (x : LineState) : (setLine s n x).barOwed = s.barOwed := rfl
@[simp] theorem setLine_grids (s : State) (n : Nat) (x : LineState) : (setLine s n x).grids = s.grids := rfl
@[simp] theorem setLine_resvs (s : State) (n : Nat) (x : LineState) : (setLine s n x).resvs = s.resvs := rfl
@[simp] theorem setLine_cmds (s : State) (n : Nat) (x : LineState) : (setLine s n x).cmds = s.cmds := rfl
@[simp] theorem setLine_dues (s : State) (n : Nat) (x : LineState) : (setLine s n x).dues = s.dues := rfl
@[simp] theorem setLine_conts (s : State) (n : Nat) (x : LineState) : (setLine s n x).conts = s.conts := rfl
@[simp] theorem setLine_prels (s : State) (n : Nat) (x : LineState) : (setLine s n x).prels = s.prels := rfl
@[simp] theorem setLine_faultWait (s : State) (n : Nat) (x : LineState) : (setLine s n x).faultWait = s.faultWait := rfl
@[simp] theorem setLine_eventWait (s : State) (n : Nat) (x : LineState) : (setLine s n x).eventWait = s.eventWait := rfl
@[simp] theorem setLine_anneal (s : State) (n : Nat) (x : LineState) : (setLine s n x).anneal = s.anneal := rfl
@[simp] theorem setLine_journal (s : State) (n : Nat) (x : LineState) : (setLine s n x).journal = s.journal := rfl
@[simp] theorem setLine_power (s : State) (n : Nat) (x : LineState) : (setLine s n x).power = s.power := rfl
@[simp] theorem setLine_expanders (s : State) (n : Nat) (x : LineState) : (setLine s n x).expanders = s.expanders := rfl
@[simp] theorem setLine_host (s : State) (n : Nat) (x : LineState) : (setLine s n x).host = s.host := rfl
@[simp] theorem setLine_group (s : State) (n : Nat) (x : LineState) : (setLine s n x).group = s.group := rfl
@[simp] theorem setLine_staging (s : State) (n : Nat) (x : LineState) : (setLine s n x).staging = s.staging := rfl
@[simp] theorem setLine_podgen (s : State) (n : Nat) (x : LineState) : (setLine s n x).podgen = s.podgen := rfl
@[simp] theorem setLine_committed (s : State) (n : Nat) (x : LineState) : (setLine s n x).committed = s.committed := rfl
@[simp] theorem setLine_outstanding (s : State) (n : Nat) (x : LineState) : (setLine s n x).outstanding = s.outstanding := rfl
@[simp] theorem setLine_inbound (s : State) (n : Nat) (x : LineState) : (setLine s n x).inbound = s.inbound := rfl
@[simp] theorem setLine_outbox (s : State) (n : Nat) (x : LineState) : (setLine s n x).outbox = s.outbox := rfl
@[simp] theorem setLine_sec (s : State) (n : Nat) (x : LineState) : (setLine s n x).sec = s.sec := rfl
@[simp] theorem setLine_images (s : State) (n : Nat) (x : LineState) : (setLine s n x).images = s.images := rfl
@[simp] theorem setLine_lqTail (s : State) (n : Nat) (x : LineState) : (setLine s n x).lqTail = s.lqTail := rfl
@[simp] theorem setLine_lqPos (s : State) (n : Nat) (x : LineState) : (setLine s n x).lqPos = s.lqPos := rfl
@[simp] theorem setLine_tokens (s : State) (n : Nat) (x : LineState) : (setLine s n x).tokens = s.tokens := rfl
@[simp] theorem setLine_hostData (s : State) (n : Nat) (x : LineState) : (setLine s n x).hostData = s.hostData := rfl
@[simp] theorem setLine_agenda (s : State) (n : Nat) (x : LineState) : (setLine s n x).agenda = s.agenda := rfl
@[simp] theorem setLine_fresh (s : State) (n : Nat) (x : LineState) : (setLine s n x).fresh = s.fresh := rfl
@[simp] theorem setLine_uid (s : State) (n : Nat) (x : LineState) : (setLine s n x).uid = s.uid := rfl
@[simp] theorem setLine_iw (s : State) (n : Nat) (x : LineState) : (setLine s n x).iw = s.iw := rfl
@[simp] theorem setLine_turn (s : State) (n : Nat) (x : LineState) : (setLine s n x).turn = s.turn := rfl
@[simp] theorem setLine_rotor (s : State) (n : Nat) (x : LineState) : (setLine s n x).rotor = s.rotor := rfl

@[simp] theorem setCore_fl (s : State) (n : Nat) (x : Core) : (setCore s n x).fl = s.fl := rfl
@[simp] theorem setCore_flights (s : State) (n : Nat) (x : Core) : (setCore s n x).flights = s.flights := rfl
@[simp] theorem setCore_mem (s : State) (n : Nat) (x : Core) : (setCore s n x).mem = s.mem := rfl
@[simp] theorem setCore_lines (s : State) (n : Nat) (x : Core) : (setCore s n x).lines = s.lines := rfl
@[simp] theorem setCore_poison (s : State) (n : Nat) (x : Core) : (setCore s n x).poison = s.poison := rfl
@[simp] theorem setCore_contexts (s : State) (n : Nat) (x : Core) : (setCore s n x).contexts = s.contexts := rfl
@[simp] theorem setCore_dies (s : State) (n : Nat) (x : Core) : (setCore s n x).dies = s.dies := rfl
@[simp] theorem setCore_standby (s : State) (n : Nat) (x : Core) : (setCore s n x).standby = s.standby := rfl
@[simp] theorem setCore_hubcount (s : State) (n : Nat) (x : Core) : (setCore s n x).hubcount = s.hubcount := rfl
@[simp] theorem setCore_phasers (s : State) (n : Nat) (x : Core) : (setCore s n x).phasers = s.phasers := rfl
@[simp] theorem setCore_podPeers (s : State) (n : Nat) (x : Core) : (setCore s n x).podPeers = s.podPeers := rfl
@[simp] theorem setCore_bars (s : State) (n : Nat) (x : Core) : (setCore s n x).bars = s.bars := rfl
@[simp] theorem setCore_barOwed (s : State) (n : Nat) (x : Core) : (setCore s n x).barOwed = s.barOwed := rfl
@[simp] theorem setCore_grids (s : State) (n : Nat) (x : Core) : (setCore s n x).grids = s.grids := rfl
@[simp] theorem setCore_resvs (s : State) (n : Nat) (x : Core) : (setCore s n x).resvs = s.resvs := rfl
@[simp] theorem setCore_cmds (s : State) (n : Nat) (x : Core) : (setCore s n x).cmds = s.cmds := rfl
@[simp] theorem setCore_dues (s : State) (n : Nat) (x : Core) : (setCore s n x).dues = s.dues := rfl
@[simp] theorem setCore_conts (s : State) (n : Nat) (x : Core) : (setCore s n x).conts = s.conts := rfl
@[simp] theorem setCore_prels (s : State) (n : Nat) (x : Core) : (setCore s n x).prels = s.prels := rfl
@[simp] theorem setCore_faultWait (s : State) (n : Nat) (x : Core) : (setCore s n x).faultWait = s.faultWait := rfl
@[simp] theorem setCore_eventWait (s : State) (n : Nat) (x : Core) : (setCore s n x).eventWait = s.eventWait := rfl
@[simp] theorem setCore_anneal (s : State) (n : Nat) (x : Core) : (setCore s n x).anneal = s.anneal := rfl
@[simp] theorem setCore_journal (s : State) (n : Nat) (x : Core) : (setCore s n x).journal = s.journal := rfl
@[simp] theorem setCore_power (s : State) (n : Nat) (x : Core) : (setCore s n x).power = s.power := rfl
@[simp] theorem setCore_expanders (s : State) (n : Nat) (x : Core) : (setCore s n x).expanders = s.expanders := rfl
@[simp] theorem setCore_host (s : State) (n : Nat) (x : Core) : (setCore s n x).host = s.host := rfl
@[simp] theorem setCore_group (s : State) (n : Nat) (x : Core) : (setCore s n x).group = s.group := rfl
@[simp] theorem setCore_staging (s : State) (n : Nat) (x : Core) : (setCore s n x).staging = s.staging := rfl
@[simp] theorem setCore_podgen (s : State) (n : Nat) (x : Core) : (setCore s n x).podgen = s.podgen := rfl
@[simp] theorem setCore_committed (s : State) (n : Nat) (x : Core) : (setCore s n x).committed = s.committed := rfl
@[simp] theorem setCore_outstanding (s : State) (n : Nat) (x : Core) : (setCore s n x).outstanding = s.outstanding := rfl
@[simp] theorem setCore_inbound (s : State) (n : Nat) (x : Core) : (setCore s n x).inbound = s.inbound := rfl
@[simp] theorem setCore_outbox (s : State) (n : Nat) (x : Core) : (setCore s n x).outbox = s.outbox := rfl
@[simp] theorem setCore_sec (s : State) (n : Nat) (x : Core) : (setCore s n x).sec = s.sec := rfl
@[simp] theorem setCore_images (s : State) (n : Nat) (x : Core) : (setCore s n x).images = s.images := rfl
@[simp] theorem setCore_lqTail (s : State) (n : Nat) (x : Core) : (setCore s n x).lqTail = s.lqTail := rfl
@[simp] theorem setCore_lqPos (s : State) (n : Nat) (x : Core) : (setCore s n x).lqPos = s.lqPos := rfl
@[simp] theorem setCore_tokens (s : State) (n : Nat) (x : Core) : (setCore s n x).tokens = s.tokens := rfl
@[simp] theorem setCore_hostData (s : State) (n : Nat) (x : Core) : (setCore s n x).hostData = s.hostData := rfl
@[simp] theorem setCore_agenda (s : State) (n : Nat) (x : Core) : (setCore s n x).agenda = s.agenda := rfl
@[simp] theorem setCore_fresh (s : State) (n : Nat) (x : Core) : (setCore s n x).fresh = s.fresh := rfl
@[simp] theorem setCore_uid (s : State) (n : Nat) (x : Core) : (setCore s n x).uid = s.uid := rfl
@[simp] theorem setCore_iw (s : State) (n : Nat) (x : Core) : (setCore s n x).iw = s.iw := rfl
@[simp] theorem setCore_turn (s : State) (n : Nat) (x : Core) : (setCore s n x).turn = s.turn := rfl
@[simp] theorem setCore_rotor (s : State) (n : Nat) (x : Core) : (setCore s n x).rotor = s.rotor := rfl

@[simp] theorem setDie_fl (s : State) (n : Nat) (x : Die) : (setDie s n x).fl = s.fl := rfl
@[simp] theorem setDie_flights (s : State) (n : Nat) (x : Die) : (setDie s n x).flights = s.flights := rfl
@[simp] theorem setDie_cores (s : State) (n : Nat) (x : Die) : (setDie s n x).cores = s.cores := rfl
@[simp] theorem setDie_mem (s : State) (n : Nat) (x : Die) : (setDie s n x).mem = s.mem := rfl
@[simp] theorem setDie_lines (s : State) (n : Nat) (x : Die) : (setDie s n x).lines = s.lines := rfl
@[simp] theorem setDie_poison (s : State) (n : Nat) (x : Die) : (setDie s n x).poison = s.poison := rfl
@[simp] theorem setDie_contexts (s : State) (n : Nat) (x : Die) : (setDie s n x).contexts = s.contexts := rfl
@[simp] theorem setDie_standby (s : State) (n : Nat) (x : Die) : (setDie s n x).standby = s.standby := rfl
@[simp] theorem setDie_hubcount (s : State) (n : Nat) (x : Die) : (setDie s n x).hubcount = s.hubcount := rfl
@[simp] theorem setDie_phasers (s : State) (n : Nat) (x : Die) : (setDie s n x).phasers = s.phasers := rfl
@[simp] theorem setDie_podPeers (s : State) (n : Nat) (x : Die) : (setDie s n x).podPeers = s.podPeers := rfl
@[simp] theorem setDie_bars (s : State) (n : Nat) (x : Die) : (setDie s n x).bars = s.bars := rfl
@[simp] theorem setDie_barOwed (s : State) (n : Nat) (x : Die) : (setDie s n x).barOwed = s.barOwed := rfl
@[simp] theorem setDie_grids (s : State) (n : Nat) (x : Die) : (setDie s n x).grids = s.grids := rfl
@[simp] theorem setDie_resvs (s : State) (n : Nat) (x : Die) : (setDie s n x).resvs = s.resvs := rfl
@[simp] theorem setDie_cmds (s : State) (n : Nat) (x : Die) : (setDie s n x).cmds = s.cmds := rfl
@[simp] theorem setDie_dues (s : State) (n : Nat) (x : Die) : (setDie s n x).dues = s.dues := rfl
@[simp] theorem setDie_conts (s : State) (n : Nat) (x : Die) : (setDie s n x).conts = s.conts := rfl
@[simp] theorem setDie_prels (s : State) (n : Nat) (x : Die) : (setDie s n x).prels = s.prels := rfl
@[simp] theorem setDie_faultWait (s : State) (n : Nat) (x : Die) : (setDie s n x).faultWait = s.faultWait := rfl
@[simp] theorem setDie_eventWait (s : State) (n : Nat) (x : Die) : (setDie s n x).eventWait = s.eventWait := rfl
@[simp] theorem setDie_anneal (s : State) (n : Nat) (x : Die) : (setDie s n x).anneal = s.anneal := rfl
@[simp] theorem setDie_journal (s : State) (n : Nat) (x : Die) : (setDie s n x).journal = s.journal := rfl
@[simp] theorem setDie_power (s : State) (n : Nat) (x : Die) : (setDie s n x).power = s.power := rfl
@[simp] theorem setDie_expanders (s : State) (n : Nat) (x : Die) : (setDie s n x).expanders = s.expanders := rfl
@[simp] theorem setDie_host (s : State) (n : Nat) (x : Die) : (setDie s n x).host = s.host := rfl
@[simp] theorem setDie_group (s : State) (n : Nat) (x : Die) : (setDie s n x).group = s.group := rfl
@[simp] theorem setDie_staging (s : State) (n : Nat) (x : Die) : (setDie s n x).staging = s.staging := rfl
@[simp] theorem setDie_podgen (s : State) (n : Nat) (x : Die) : (setDie s n x).podgen = s.podgen := rfl
@[simp] theorem setDie_committed (s : State) (n : Nat) (x : Die) : (setDie s n x).committed = s.committed := rfl
@[simp] theorem setDie_outstanding (s : State) (n : Nat) (x : Die) : (setDie s n x).outstanding = s.outstanding := rfl
@[simp] theorem setDie_inbound (s : State) (n : Nat) (x : Die) : (setDie s n x).inbound = s.inbound := rfl
@[simp] theorem setDie_outbox (s : State) (n : Nat) (x : Die) : (setDie s n x).outbox = s.outbox := rfl
@[simp] theorem setDie_sec (s : State) (n : Nat) (x : Die) : (setDie s n x).sec = s.sec := rfl
@[simp] theorem setDie_images (s : State) (n : Nat) (x : Die) : (setDie s n x).images = s.images := rfl
@[simp] theorem setDie_lqTail (s : State) (n : Nat) (x : Die) : (setDie s n x).lqTail = s.lqTail := rfl
@[simp] theorem setDie_lqPos (s : State) (n : Nat) (x : Die) : (setDie s n x).lqPos = s.lqPos := rfl
@[simp] theorem setDie_tokens (s : State) (n : Nat) (x : Die) : (setDie s n x).tokens = s.tokens := rfl
@[simp] theorem setDie_hostData (s : State) (n : Nat) (x : Die) : (setDie s n x).hostData = s.hostData := rfl
@[simp] theorem setDie_agenda (s : State) (n : Nat) (x : Die) : (setDie s n x).agenda = s.agenda := rfl
@[simp] theorem setDie_fresh (s : State) (n : Nat) (x : Die) : (setDie s n x).fresh = s.fresh := rfl
@[simp] theorem setDie_uid (s : State) (n : Nat) (x : Die) : (setDie s n x).uid = s.uid := rfl
@[simp] theorem setDie_iw (s : State) (n : Nat) (x : Die) : (setDie s n x).iw = s.iw := rfl
@[simp] theorem setDie_turn (s : State) (n : Nat) (x : Die) : (setDie s n x).turn = s.turn := rfl
@[simp] theorem setDie_rotor (s : State) (n : Nat) (x : Die) : (setDie s n x).rotor = s.rotor := rfl

@[simp] theorem setCtx_fl (s : State) (n : BitVec 6) (x : Context) : (setCtx s n x).fl = s.fl := rfl
@[simp] theorem setCtx_flights (s : State) (n : BitVec 6) (x : Context) : (setCtx s n x).flights = s.flights := rfl
@[simp] theorem setCtx_cores (s : State) (n : BitVec 6) (x : Context) : (setCtx s n x).cores = s.cores := rfl
@[simp] theorem setCtx_mem (s : State) (n : BitVec 6) (x : Context) : (setCtx s n x).mem = s.mem := rfl
@[simp] theorem setCtx_lines (s : State) (n : BitVec 6) (x : Context) : (setCtx s n x).lines = s.lines := rfl
@[simp] theorem setCtx_poison (s : State) (n : BitVec 6) (x : Context) : (setCtx s n x).poison = s.poison := rfl
@[simp] theorem setCtx_dies (s : State) (n : BitVec 6) (x : Context) : (setCtx s n x).dies = s.dies := rfl
@[simp] theorem setCtx_standby (s : State) (n : BitVec 6) (x : Context) : (setCtx s n x).standby = s.standby := rfl
@[simp] theorem setCtx_hubcount (s : State) (n : BitVec 6) (x : Context) : (setCtx s n x).hubcount = s.hubcount := rfl
@[simp] theorem setCtx_phasers (s : State) (n : BitVec 6) (x : Context) : (setCtx s n x).phasers = s.phasers := rfl
@[simp] theorem setCtx_podPeers (s : State) (n : BitVec 6) (x : Context) : (setCtx s n x).podPeers = s.podPeers := rfl
@[simp] theorem setCtx_bars (s : State) (n : BitVec 6) (x : Context) : (setCtx s n x).bars = s.bars := rfl
@[simp] theorem setCtx_barOwed (s : State) (n : BitVec 6) (x : Context) : (setCtx s n x).barOwed = s.barOwed := rfl
@[simp] theorem setCtx_grids (s : State) (n : BitVec 6) (x : Context) : (setCtx s n x).grids = s.grids := rfl
@[simp] theorem setCtx_resvs (s : State) (n : BitVec 6) (x : Context) : (setCtx s n x).resvs = s.resvs := rfl
@[simp] theorem setCtx_cmds (s : State) (n : BitVec 6) (x : Context) : (setCtx s n x).cmds = s.cmds := rfl
@[simp] theorem setCtx_dues (s : State) (n : BitVec 6) (x : Context) : (setCtx s n x).dues = s.dues := rfl
@[simp] theorem setCtx_conts (s : State) (n : BitVec 6) (x : Context) : (setCtx s n x).conts = s.conts := rfl
@[simp] theorem setCtx_prels (s : State) (n : BitVec 6) (x : Context) : (setCtx s n x).prels = s.prels := rfl
@[simp] theorem setCtx_faultWait (s : State) (n : BitVec 6) (x : Context) : (setCtx s n x).faultWait = s.faultWait := rfl
@[simp] theorem setCtx_eventWait (s : State) (n : BitVec 6) (x : Context) : (setCtx s n x).eventWait = s.eventWait := rfl
@[simp] theorem setCtx_anneal (s : State) (n : BitVec 6) (x : Context) : (setCtx s n x).anneal = s.anneal := rfl
@[simp] theorem setCtx_journal (s : State) (n : BitVec 6) (x : Context) : (setCtx s n x).journal = s.journal := rfl
@[simp] theorem setCtx_power (s : State) (n : BitVec 6) (x : Context) : (setCtx s n x).power = s.power := rfl
@[simp] theorem setCtx_expanders (s : State) (n : BitVec 6) (x : Context) : (setCtx s n x).expanders = s.expanders := rfl
@[simp] theorem setCtx_host (s : State) (n : BitVec 6) (x : Context) : (setCtx s n x).host = s.host := rfl
@[simp] theorem setCtx_group (s : State) (n : BitVec 6) (x : Context) : (setCtx s n x).group = s.group := rfl
@[simp] theorem setCtx_staging (s : State) (n : BitVec 6) (x : Context) : (setCtx s n x).staging = s.staging := rfl
@[simp] theorem setCtx_podgen (s : State) (n : BitVec 6) (x : Context) : (setCtx s n x).podgen = s.podgen := rfl
@[simp] theorem setCtx_committed (s : State) (n : BitVec 6) (x : Context) : (setCtx s n x).committed = s.committed := rfl
@[simp] theorem setCtx_outstanding (s : State) (n : BitVec 6) (x : Context) : (setCtx s n x).outstanding = s.outstanding := rfl
@[simp] theorem setCtx_inbound (s : State) (n : BitVec 6) (x : Context) : (setCtx s n x).inbound = s.inbound := rfl
@[simp] theorem setCtx_outbox (s : State) (n : BitVec 6) (x : Context) : (setCtx s n x).outbox = s.outbox := rfl
@[simp] theorem setCtx_sec (s : State) (n : BitVec 6) (x : Context) : (setCtx s n x).sec = s.sec := rfl
@[simp] theorem setCtx_images (s : State) (n : BitVec 6) (x : Context) : (setCtx s n x).images = s.images := rfl
@[simp] theorem setCtx_lqTail (s : State) (n : BitVec 6) (x : Context) : (setCtx s n x).lqTail = s.lqTail := rfl
@[simp] theorem setCtx_lqPos (s : State) (n : BitVec 6) (x : Context) : (setCtx s n x).lqPos = s.lqPos := rfl
@[simp] theorem setCtx_tokens (s : State) (n : BitVec 6) (x : Context) : (setCtx s n x).tokens = s.tokens := rfl
@[simp] theorem setCtx_hostData (s : State) (n : BitVec 6) (x : Context) : (setCtx s n x).hostData = s.hostData := rfl
@[simp] theorem setCtx_agenda (s : State) (n : BitVec 6) (x : Context) : (setCtx s n x).agenda = s.agenda := rfl
@[simp] theorem setCtx_fresh (s : State) (n : BitVec 6) (x : Context) : (setCtx s n x).fresh = s.fresh := rfl
@[simp] theorem setCtx_uid (s : State) (n : BitVec 6) (x : Context) : (setCtx s n x).uid = s.uid := rfl
@[simp] theorem setCtx_iw (s : State) (n : BitVec 6) (x : Context) : (setCtx s n x).iw = s.iw := rfl
@[simp] theorem setCtx_turn (s : State) (n : BitVec 6) (x : Context) : (setCtx s n x).turn = s.turn := rfl
@[simp] theorem setCtx_rotor (s : State) (n : BitVec 6) (x : Context) : (setCtx s n x).rotor = s.rotor := rfl

@[simp] theorem tick_fl (s : State) (d : Nat) : (tick s d).fl = s.fl := by unfold tick; split_ifs <;> rfl
@[simp] theorem tick_flights (s : State) (d : Nat) : (tick s d).flights = s.flights := by unfold tick; split_ifs <;> rfl
@[simp] theorem tick_cores (s : State) (d : Nat) : (tick s d).cores = s.cores := by unfold tick; split_ifs <;> rfl
@[simp] theorem tick_mem (s : State) (d : Nat) : (tick s d).mem = s.mem := by unfold tick; split_ifs <;> rfl
@[simp] theorem tick_lines (s : State) (d : Nat) : (tick s d).lines = s.lines := by unfold tick; split_ifs <;> rfl
@[simp] theorem tick_poison (s : State) (d : Nat) : (tick s d).poison = s.poison := by unfold tick; split_ifs <;> rfl
@[simp] theorem tick_contexts (s : State) (d : Nat) : (tick s d).contexts = s.contexts := by unfold tick; split_ifs <;> rfl
@[simp] theorem tick_standby (s : State) (d : Nat) : (tick s d).standby = s.standby := by unfold tick; split_ifs <;> rfl
@[simp] theorem tick_phasers (s : State) (d : Nat) : (tick s d).phasers = s.phasers := by unfold tick; split_ifs <;> rfl
@[simp] theorem tick_podPeers (s : State) (d : Nat) : (tick s d).podPeers = s.podPeers := by unfold tick; split_ifs <;> rfl
@[simp] theorem tick_bars (s : State) (d : Nat) : (tick s d).bars = s.bars := by unfold tick; split_ifs <;> rfl
@[simp] theorem tick_barOwed (s : State) (d : Nat) : (tick s d).barOwed = s.barOwed := by unfold tick; split_ifs <;> rfl
@[simp] theorem tick_grids (s : State) (d : Nat) : (tick s d).grids = s.grids := by unfold tick; split_ifs <;> rfl
@[simp] theorem tick_resvs (s : State) (d : Nat) : (tick s d).resvs = s.resvs := by unfold tick; split_ifs <;> rfl
@[simp] theorem tick_cmds (s : State) (d : Nat) : (tick s d).cmds = s.cmds := by unfold tick; split_ifs <;> rfl
@[simp] theorem tick_dues (s : State) (d : Nat) : (tick s d).dues = s.dues := by unfold tick; split_ifs <;> rfl
@[simp] theorem tick_conts (s : State) (d : Nat) : (tick s d).conts = s.conts := by unfold tick; split_ifs <;> rfl
@[simp] theorem tick_prels (s : State) (d : Nat) : (tick s d).prels = s.prels := by unfold tick; split_ifs <;> rfl
@[simp] theorem tick_faultWait (s : State) (d : Nat) : (tick s d).faultWait = s.faultWait := by unfold tick; split_ifs <;> rfl
@[simp] theorem tick_eventWait (s : State) (d : Nat) : (tick s d).eventWait = s.eventWait := by unfold tick; split_ifs <;> rfl
@[simp] theorem tick_anneal (s : State) (d : Nat) : (tick s d).anneal = s.anneal := by unfold tick; split_ifs <;> rfl
@[simp] theorem tick_journal (s : State) (d : Nat) : (tick s d).journal = s.journal := by unfold tick; split_ifs <;> rfl
@[simp] theorem tick_power (s : State) (d : Nat) : (tick s d).power = s.power := by unfold tick; split_ifs <;> rfl
@[simp] theorem tick_expanders (s : State) (d : Nat) : (tick s d).expanders = s.expanders := by unfold tick; split_ifs <;> rfl
@[simp] theorem tick_host (s : State) (d : Nat) : (tick s d).host = s.host := by unfold tick; split_ifs <;> rfl
@[simp] theorem tick_group (s : State) (d : Nat) : (tick s d).group = s.group := by unfold tick; split_ifs <;> rfl
@[simp] theorem tick_staging (s : State) (d : Nat) : (tick s d).staging = s.staging := by unfold tick; split_ifs <;> rfl
@[simp] theorem tick_podgen (s : State) (d : Nat) : (tick s d).podgen = s.podgen := by unfold tick; split_ifs <;> rfl
@[simp] theorem tick_committed (s : State) (d : Nat) : (tick s d).committed = s.committed := by unfold tick; split_ifs <;> rfl
@[simp] theorem tick_outstanding (s : State) (d : Nat) : (tick s d).outstanding = s.outstanding := by unfold tick; split_ifs <;> rfl
@[simp] theorem tick_inbound (s : State) (d : Nat) : (tick s d).inbound = s.inbound := by unfold tick; split_ifs <;> rfl
@[simp] theorem tick_outbox (s : State) (d : Nat) : (tick s d).outbox = s.outbox := by unfold tick; split_ifs <;> rfl
@[simp] theorem tick_sec (s : State) (d : Nat) : (tick s d).sec = s.sec := by unfold tick; split_ifs <;> rfl
@[simp] theorem tick_images (s : State) (d : Nat) : (tick s d).images = s.images := by unfold tick; split_ifs <;> rfl
@[simp] theorem tick_lqTail (s : State) (d : Nat) : (tick s d).lqTail = s.lqTail := by unfold tick; split_ifs <;> rfl
@[simp] theorem tick_lqPos (s : State) (d : Nat) : (tick s d).lqPos = s.lqPos := by unfold tick; split_ifs <;> rfl
@[simp] theorem tick_tokens (s : State) (d : Nat) : (tick s d).tokens = s.tokens := by unfold tick; split_ifs <;> rfl
@[simp] theorem tick_hostData (s : State) (d : Nat) : (tick s d).hostData = s.hostData := by unfold tick; split_ifs <;> rfl
@[simp] theorem tick_agenda (s : State) (d : Nat) : (tick s d).agenda = s.agenda := by unfold tick; split_ifs <;> rfl
@[simp] theorem tick_fresh (s : State) (d : Nat) : (tick s d).fresh = s.fresh := by unfold tick; split_ifs <;> rfl
@[simp] theorem tick_uid (s : State) (d : Nat) : (tick s d).uid = s.uid := by unfold tick; split_ifs <;> rfl
@[simp] theorem tick_iw (s : State) (d : Nat) : (tick s d).iw = s.iw := by unfold tick; split_ifs <;> rfl
@[simp] theorem tick_turn (s : State) (d : Nat) : (tick s d).turn = s.turn := by unfold tick; split_ifs <;> rfl
@[simp] theorem tick_rotor (s : State) (d : Nat) : (tick s d).rotor = s.rotor := by unfold tick; split_ifs <;> rfl

@[simp] theorem writeBytes_fl (s : State) (k : Nat) (b : List Byte) : (writeBytes s k b).fl = s.fl := rfl
@[simp] theorem writeBytes_flights (s : State) (k : Nat) (b : List Byte) : (writeBytes s k b).flights = s.flights := rfl
@[simp] theorem writeBytes_cores (s : State) (k : Nat) (b : List Byte) : (writeBytes s k b).cores = s.cores := rfl
@[simp] theorem writeBytes_lines (s : State) (k : Nat) (b : List Byte) : (writeBytes s k b).lines = s.lines := rfl
@[simp] theorem writeBytes_poison (s : State) (k : Nat) (b : List Byte) : (writeBytes s k b).poison = s.poison := rfl
@[simp] theorem writeBytes_contexts (s : State) (k : Nat) (b : List Byte) : (writeBytes s k b).contexts = s.contexts := rfl
@[simp] theorem writeBytes_dies (s : State) (k : Nat) (b : List Byte) : (writeBytes s k b).dies = s.dies := rfl
@[simp] theorem writeBytes_standby (s : State) (k : Nat) (b : List Byte) : (writeBytes s k b).standby = s.standby := rfl
@[simp] theorem writeBytes_hubcount (s : State) (k : Nat) (b : List Byte) : (writeBytes s k b).hubcount = s.hubcount := rfl
@[simp] theorem writeBytes_phasers (s : State) (k : Nat) (b : List Byte) : (writeBytes s k b).phasers = s.phasers := rfl
@[simp] theorem writeBytes_podPeers (s : State) (k : Nat) (b : List Byte) : (writeBytes s k b).podPeers = s.podPeers := rfl
@[simp] theorem writeBytes_bars (s : State) (k : Nat) (b : List Byte) : (writeBytes s k b).bars = s.bars := rfl
@[simp] theorem writeBytes_barOwed (s : State) (k : Nat) (b : List Byte) : (writeBytes s k b).barOwed = s.barOwed := rfl
@[simp] theorem writeBytes_grids (s : State) (k : Nat) (b : List Byte) : (writeBytes s k b).grids = s.grids := rfl
@[simp] theorem writeBytes_resvs (s : State) (k : Nat) (b : List Byte) : (writeBytes s k b).resvs = s.resvs := rfl
@[simp] theorem writeBytes_cmds (s : State) (k : Nat) (b : List Byte) : (writeBytes s k b).cmds = s.cmds := rfl
@[simp] theorem writeBytes_dues (s : State) (k : Nat) (b : List Byte) : (writeBytes s k b).dues = s.dues := rfl
@[simp] theorem writeBytes_conts (s : State) (k : Nat) (b : List Byte) : (writeBytes s k b).conts = s.conts := rfl
@[simp] theorem writeBytes_prels (s : State) (k : Nat) (b : List Byte) : (writeBytes s k b).prels = s.prels := rfl
@[simp] theorem writeBytes_faultWait (s : State) (k : Nat) (b : List Byte) : (writeBytes s k b).faultWait = s.faultWait := rfl
@[simp] theorem writeBytes_eventWait (s : State) (k : Nat) (b : List Byte) : (writeBytes s k b).eventWait = s.eventWait := rfl
@[simp] theorem writeBytes_anneal (s : State) (k : Nat) (b : List Byte) : (writeBytes s k b).anneal = s.anneal := rfl
@[simp] theorem writeBytes_journal (s : State) (k : Nat) (b : List Byte) : (writeBytes s k b).journal = s.journal := rfl
@[simp] theorem writeBytes_power (s : State) (k : Nat) (b : List Byte) : (writeBytes s k b).power = s.power := rfl
@[simp] theorem writeBytes_expanders (s : State) (k : Nat) (b : List Byte) : (writeBytes s k b).expanders = s.expanders := rfl
@[simp] theorem writeBytes_host (s : State) (k : Nat) (b : List Byte) : (writeBytes s k b).host = s.host := rfl
@[simp] theorem writeBytes_group (s : State) (k : Nat) (b : List Byte) : (writeBytes s k b).group = s.group := rfl
@[simp] theorem writeBytes_staging (s : State) (k : Nat) (b : List Byte) : (writeBytes s k b).staging = s.staging := rfl
@[simp] theorem writeBytes_podgen (s : State) (k : Nat) (b : List Byte) : (writeBytes s k b).podgen = s.podgen := rfl
@[simp] theorem writeBytes_committed (s : State) (k : Nat) (b : List Byte) : (writeBytes s k b).committed = s.committed := rfl
@[simp] theorem writeBytes_outstanding (s : State) (k : Nat) (b : List Byte) : (writeBytes s k b).outstanding = s.outstanding := rfl
@[simp] theorem writeBytes_inbound (s : State) (k : Nat) (b : List Byte) : (writeBytes s k b).inbound = s.inbound := rfl
@[simp] theorem writeBytes_outbox (s : State) (k : Nat) (b : List Byte) : (writeBytes s k b).outbox = s.outbox := rfl
@[simp] theorem writeBytes_sec (s : State) (k : Nat) (b : List Byte) : (writeBytes s k b).sec = s.sec := rfl
@[simp] theorem writeBytes_images (s : State) (k : Nat) (b : List Byte) : (writeBytes s k b).images = s.images := rfl
@[simp] theorem writeBytes_lqTail (s : State) (k : Nat) (b : List Byte) : (writeBytes s k b).lqTail = s.lqTail := rfl
@[simp] theorem writeBytes_lqPos (s : State) (k : Nat) (b : List Byte) : (writeBytes s k b).lqPos = s.lqPos := rfl
@[simp] theorem writeBytes_tokens (s : State) (k : Nat) (b : List Byte) : (writeBytes s k b).tokens = s.tokens := rfl
@[simp] theorem writeBytes_hostData (s : State) (k : Nat) (b : List Byte) : (writeBytes s k b).hostData = s.hostData := rfl
@[simp] theorem writeBytes_agenda (s : State) (k : Nat) (b : List Byte) : (writeBytes s k b).agenda = s.agenda := rfl
@[simp] theorem writeBytes_fresh (s : State) (k : Nat) (b : List Byte) : (writeBytes s k b).fresh = s.fresh := rfl
@[simp] theorem writeBytes_uid (s : State) (k : Nat) (b : List Byte) : (writeBytes s k b).uid = s.uid := rfl
@[simp] theorem writeBytes_iw (s : State) (k : Nat) (b : List Byte) : (writeBytes s k b).iw = s.iw := rfl
@[simp] theorem writeBytes_turn (s : State) (k : Nat) (b : List Byte) : (writeBytes s k b).turn = s.turn := rfl
@[simp] theorem writeBytes_rotor (s : State) (k : Nat) (b : List Byte) : (writeBytes s k b).rotor = s.rotor := rfl

@[simp] theorem writeBytes_mem (s : State) (k : Nat) (b : List Byte) : (writeBytes s k b).mem = putBytes s.mem k b := rfl

@[simp] theorem markDirty_fl (s : State) (k : Nat) : (markDirty s k).fl = s.fl := rfl
@[simp] theorem markDirty_flights (s : State) (k : Nat) : (markDirty s k).flights = s.flights := rfl
@[simp] theorem markDirty_cores (s : State) (k : Nat) : (markDirty s k).cores = s.cores := rfl
@[simp] theorem markDirty_mem (s : State) (k : Nat) : (markDirty s k).mem = s.mem := rfl
@[simp] theorem markDirty_lines (s : State) (k : Nat) : (markDirty s k).lines = s.lines := rfl
@[simp] theorem markDirty_poison (s : State) (k : Nat) : (markDirty s k).poison = s.poison := rfl
@[simp] theorem markDirty_contexts (s : State) (k : Nat) : (markDirty s k).contexts = s.contexts := rfl
@[simp] theorem markDirty_dies (s : State) (k : Nat) : (markDirty s k).dies = s.dies := rfl
@[simp] theorem markDirty_standby (s : State) (k : Nat) : (markDirty s k).standby = s.standby := rfl
@[simp] theorem markDirty_hubcount (s : State) (k : Nat) : (markDirty s k).hubcount = s.hubcount := rfl
@[simp] theorem markDirty_phasers (s : State) (k : Nat) : (markDirty s k).phasers = s.phasers := rfl
@[simp] theorem markDirty_podPeers (s : State) (k : Nat) : (markDirty s k).podPeers = s.podPeers := rfl
@[simp] theorem markDirty_bars (s : State) (k : Nat) : (markDirty s k).bars = s.bars := rfl
@[simp] theorem markDirty_barOwed (s : State) (k : Nat) : (markDirty s k).barOwed = s.barOwed := rfl
@[simp] theorem markDirty_grids (s : State) (k : Nat) : (markDirty s k).grids = s.grids := rfl
@[simp] theorem markDirty_resvs (s : State) (k : Nat) : (markDirty s k).resvs = s.resvs := rfl
@[simp] theorem markDirty_dues (s : State) (k : Nat) : (markDirty s k).dues = s.dues := rfl
@[simp] theorem markDirty_conts (s : State) (k : Nat) : (markDirty s k).conts = s.conts := rfl
@[simp] theorem markDirty_prels (s : State) (k : Nat) : (markDirty s k).prels = s.prels := rfl
@[simp] theorem markDirty_faultWait (s : State) (k : Nat) : (markDirty s k).faultWait = s.faultWait := rfl
@[simp] theorem markDirty_eventWait (s : State) (k : Nat) : (markDirty s k).eventWait = s.eventWait := rfl
@[simp] theorem markDirty_anneal (s : State) (k : Nat) : (markDirty s k).anneal = s.anneal := rfl
@[simp] theorem markDirty_journal (s : State) (k : Nat) : (markDirty s k).journal = s.journal := rfl
@[simp] theorem markDirty_power (s : State) (k : Nat) : (markDirty s k).power = s.power := rfl
@[simp] theorem markDirty_expanders (s : State) (k : Nat) : (markDirty s k).expanders = s.expanders := rfl
@[simp] theorem markDirty_host (s : State) (k : Nat) : (markDirty s k).host = s.host := rfl
@[simp] theorem markDirty_group (s : State) (k : Nat) : (markDirty s k).group = s.group := rfl
@[simp] theorem markDirty_staging (s : State) (k : Nat) : (markDirty s k).staging = s.staging := rfl
@[simp] theorem markDirty_podgen (s : State) (k : Nat) : (markDirty s k).podgen = s.podgen := rfl
@[simp] theorem markDirty_committed (s : State) (k : Nat) : (markDirty s k).committed = s.committed := rfl
@[simp] theorem markDirty_outstanding (s : State) (k : Nat) : (markDirty s k).outstanding = s.outstanding := rfl
@[simp] theorem markDirty_inbound (s : State) (k : Nat) : (markDirty s k).inbound = s.inbound := rfl
@[simp] theorem markDirty_outbox (s : State) (k : Nat) : (markDirty s k).outbox = s.outbox := rfl
@[simp] theorem markDirty_sec (s : State) (k : Nat) : (markDirty s k).sec = s.sec := rfl
@[simp] theorem markDirty_images (s : State) (k : Nat) : (markDirty s k).images = s.images := rfl
@[simp] theorem markDirty_lqTail (s : State) (k : Nat) : (markDirty s k).lqTail = s.lqTail := rfl
@[simp] theorem markDirty_lqPos (s : State) (k : Nat) : (markDirty s k).lqPos = s.lqPos := rfl
@[simp] theorem markDirty_tokens (s : State) (k : Nat) : (markDirty s k).tokens = s.tokens := rfl
@[simp] theorem markDirty_hostData (s : State) (k : Nat) : (markDirty s k).hostData = s.hostData := rfl
@[simp] theorem markDirty_agenda (s : State) (k : Nat) : (markDirty s k).agenda = s.agenda := rfl
@[simp] theorem markDirty_fresh (s : State) (k : Nat) : (markDirty s k).fresh = s.fresh := rfl
@[simp] theorem markDirty_uid (s : State) (k : Nat) : (markDirty s k).uid = s.uid := rfl
@[simp] theorem markDirty_iw (s : State) (k : Nat) : (markDirty s k).iw = s.iw := rfl
@[simp] theorem markDirty_turn (s : State) (k : Nat) : (markDirty s k).turn = s.turn := rfl
@[simp] theorem markDirty_rotor (s : State) (k : Nat) : (markDirty s k).rotor = s.rotor := rfl

@[simp] theorem mapFlights_cores (s : State) (g : Flight → Flight) : (mapFlights s g).cores = s.cores := rfl
@[simp] theorem mapFlights_mem (s : State) (g : Flight → Flight) : (mapFlights s g).mem = s.mem := rfl
@[simp] theorem mapFlights_lines (s : State) (g : Flight → Flight) : (mapFlights s g).lines = s.lines := rfl
@[simp] theorem mapFlights_poison (s : State) (g : Flight → Flight) : (mapFlights s g).poison = s.poison := rfl
@[simp] theorem mapFlights_contexts (s : State) (g : Flight → Flight) : (mapFlights s g).contexts = s.contexts := rfl
@[simp] theorem mapFlights_dies (s : State) (g : Flight → Flight) : (mapFlights s g).dies = s.dies := rfl
@[simp] theorem mapFlights_standby (s : State) (g : Flight → Flight) : (mapFlights s g).standby = s.standby := rfl
@[simp] theorem mapFlights_hubcount (s : State) (g : Flight → Flight) : (mapFlights s g).hubcount = s.hubcount := rfl
@[simp] theorem mapFlights_phasers (s : State) (g : Flight → Flight) : (mapFlights s g).phasers = s.phasers := rfl
@[simp] theorem mapFlights_podPeers (s : State) (g : Flight → Flight) : (mapFlights s g).podPeers = s.podPeers := rfl
@[simp] theorem mapFlights_bars (s : State) (g : Flight → Flight) : (mapFlights s g).bars = s.bars := rfl
@[simp] theorem mapFlights_barOwed (s : State) (g : Flight → Flight) : (mapFlights s g).barOwed = s.barOwed := rfl
@[simp] theorem mapFlights_grids (s : State) (g : Flight → Flight) : (mapFlights s g).grids = s.grids := rfl
@[simp] theorem mapFlights_resvs (s : State) (g : Flight → Flight) : (mapFlights s g).resvs = s.resvs := rfl
@[simp] theorem mapFlights_cmds (s : State) (g : Flight → Flight) : (mapFlights s g).cmds = s.cmds := rfl
@[simp] theorem mapFlights_dues (s : State) (g : Flight → Flight) : (mapFlights s g).dues = s.dues := rfl
@[simp] theorem mapFlights_conts (s : State) (g : Flight → Flight) : (mapFlights s g).conts = s.conts := rfl
@[simp] theorem mapFlights_prels (s : State) (g : Flight → Flight) : (mapFlights s g).prels = s.prels := rfl
@[simp] theorem mapFlights_faultWait (s : State) (g : Flight → Flight) : (mapFlights s g).faultWait = s.faultWait := rfl
@[simp] theorem mapFlights_eventWait (s : State) (g : Flight → Flight) : (mapFlights s g).eventWait = s.eventWait := rfl
@[simp] theorem mapFlights_anneal (s : State) (g : Flight → Flight) : (mapFlights s g).anneal = s.anneal := rfl
@[simp] theorem mapFlights_journal (s : State) (g : Flight → Flight) : (mapFlights s g).journal = s.journal := rfl
@[simp] theorem mapFlights_power (s : State) (g : Flight → Flight) : (mapFlights s g).power = s.power := rfl
@[simp] theorem mapFlights_expanders (s : State) (g : Flight → Flight) : (mapFlights s g).expanders = s.expanders := rfl
@[simp] theorem mapFlights_host (s : State) (g : Flight → Flight) : (mapFlights s g).host = s.host := rfl
@[simp] theorem mapFlights_group (s : State) (g : Flight → Flight) : (mapFlights s g).group = s.group := rfl
@[simp] theorem mapFlights_staging (s : State) (g : Flight → Flight) : (mapFlights s g).staging = s.staging := rfl
@[simp] theorem mapFlights_podgen (s : State) (g : Flight → Flight) : (mapFlights s g).podgen = s.podgen := rfl
@[simp] theorem mapFlights_committed (s : State) (g : Flight → Flight) : (mapFlights s g).committed = s.committed := rfl
@[simp] theorem mapFlights_outstanding (s : State) (g : Flight → Flight) : (mapFlights s g).outstanding = s.outstanding := rfl
@[simp] theorem mapFlights_inbound (s : State) (g : Flight → Flight) : (mapFlights s g).inbound = s.inbound := rfl
@[simp] theorem mapFlights_outbox (s : State) (g : Flight → Flight) : (mapFlights s g).outbox = s.outbox := rfl
@[simp] theorem mapFlights_sec (s : State) (g : Flight → Flight) : (mapFlights s g).sec = s.sec := rfl
@[simp] theorem mapFlights_images (s : State) (g : Flight → Flight) : (mapFlights s g).images = s.images := rfl
@[simp] theorem mapFlights_lqTail (s : State) (g : Flight → Flight) : (mapFlights s g).lqTail = s.lqTail := rfl
@[simp] theorem mapFlights_lqPos (s : State) (g : Flight → Flight) : (mapFlights s g).lqPos = s.lqPos := rfl
@[simp] theorem mapFlights_tokens (s : State) (g : Flight → Flight) : (mapFlights s g).tokens = s.tokens := rfl
@[simp] theorem mapFlights_hostData (s : State) (g : Flight → Flight) : (mapFlights s g).hostData = s.hostData := rfl
@[simp] theorem mapFlights_agenda (s : State) (g : Flight → Flight) : (mapFlights s g).agenda = s.agenda := rfl
@[simp] theorem mapFlights_fresh (s : State) (g : Flight → Flight) : (mapFlights s g).fresh = s.fresh := rfl
@[simp] theorem mapFlights_uid (s : State) (g : Flight → Flight) : (mapFlights s g).uid = s.uid := rfl
@[simp] theorem mapFlights_iw (s : State) (g : Flight → Flight) : (mapFlights s g).iw = s.iw := rfl
@[simp] theorem mapFlights_turn (s : State) (g : Flight → Flight) : (mapFlights s g).turn = s.turn := rfl
@[simp] theorem mapFlights_rotor (s : State) (g : Flight → Flight) : (mapFlights s g).rotor = s.rotor := rfl

/-! Updates of one flight. -/

theorem setFlight_same (s : State) (x : Flight) :
    setFlight s x = { s with fl := (setFlight s x).fl, flights := (setFlight s x).flights } := by
  unfold setFlight; split <;> rfl

theorem updFlight_same (s : State) (f : FlightId) (g : Flight → Flight) :
    updFlight s f g = { s with fl := (updFlight s f g).fl, flights := (updFlight s f g).flights } := by
  unfold updFlight; split
  · exact setFlight_same ..
  · rfl

theorem focus_same (s : State) (f : FlightId) :
    focus s f = { s with fl := (focus s f).fl, flights := (focus s f).flights } := by
  unfold focus; split
  · rfl
  · split <;> rfl

theorem removeFlight_same (s : State) (f : FlightId) :
    removeFlight s f = { s with fl := (removeFlight s f).fl, flights := (removeFlight s f).flights } := by
  unfold removeFlight; split
  · split <;> rfl
  · rfl

theorem addFlight_same (s : State) (x : Flight) :
    addFlight s x = { s with fl := (addFlight s x).fl, flights := (addFlight s x).flights } := by
  unfold addFlight; split <;> rfl

@[simp] theorem setFlight_cores (s : State) (x : Flight) : (setFlight s x).cores = s.cores := by rw [setFlight_same]
@[simp] theorem setFlight_mem (s : State) (x : Flight) : (setFlight s x).mem = s.mem := by rw [setFlight_same]
@[simp] theorem setFlight_lines (s : State) (x : Flight) : (setFlight s x).lines = s.lines := by rw [setFlight_same]
@[simp] theorem setFlight_poison (s : State) (x : Flight) : (setFlight s x).poison = s.poison := by rw [setFlight_same]
@[simp] theorem setFlight_contexts (s : State) (x : Flight) : (setFlight s x).contexts = s.contexts := by rw [setFlight_same]
@[simp] theorem setFlight_dies (s : State) (x : Flight) : (setFlight s x).dies = s.dies := by rw [setFlight_same]
@[simp] theorem setFlight_standby (s : State) (x : Flight) : (setFlight s x).standby = s.standby := by rw [setFlight_same]
@[simp] theorem setFlight_hubcount (s : State) (x : Flight) : (setFlight s x).hubcount = s.hubcount := by rw [setFlight_same]
@[simp] theorem setFlight_phasers (s : State) (x : Flight) : (setFlight s x).phasers = s.phasers := by rw [setFlight_same]
@[simp] theorem setFlight_podPeers (s : State) (x : Flight) : (setFlight s x).podPeers = s.podPeers := by rw [setFlight_same]
@[simp] theorem setFlight_bars (s : State) (x : Flight) : (setFlight s x).bars = s.bars := by rw [setFlight_same]
@[simp] theorem setFlight_barOwed (s : State) (x : Flight) : (setFlight s x).barOwed = s.barOwed := by rw [setFlight_same]
@[simp] theorem setFlight_grids (s : State) (x : Flight) : (setFlight s x).grids = s.grids := by rw [setFlight_same]
@[simp] theorem setFlight_resvs (s : State) (x : Flight) : (setFlight s x).resvs = s.resvs := by rw [setFlight_same]
@[simp] theorem setFlight_cmds (s : State) (x : Flight) : (setFlight s x).cmds = s.cmds := by rw [setFlight_same]
@[simp] theorem setFlight_dues (s : State) (x : Flight) : (setFlight s x).dues = s.dues := by rw [setFlight_same]
@[simp] theorem setFlight_conts (s : State) (x : Flight) : (setFlight s x).conts = s.conts := by rw [setFlight_same]
@[simp] theorem setFlight_prels (s : State) (x : Flight) : (setFlight s x).prels = s.prels := by rw [setFlight_same]
@[simp] theorem setFlight_faultWait (s : State) (x : Flight) : (setFlight s x).faultWait = s.faultWait := by rw [setFlight_same]
@[simp] theorem setFlight_eventWait (s : State) (x : Flight) : (setFlight s x).eventWait = s.eventWait := by rw [setFlight_same]
@[simp] theorem setFlight_anneal (s : State) (x : Flight) : (setFlight s x).anneal = s.anneal := by rw [setFlight_same]
@[simp] theorem setFlight_journal (s : State) (x : Flight) : (setFlight s x).journal = s.journal := by rw [setFlight_same]
@[simp] theorem setFlight_power (s : State) (x : Flight) : (setFlight s x).power = s.power := by rw [setFlight_same]
@[simp] theorem setFlight_expanders (s : State) (x : Flight) : (setFlight s x).expanders = s.expanders := by rw [setFlight_same]
@[simp] theorem setFlight_host (s : State) (x : Flight) : (setFlight s x).host = s.host := by rw [setFlight_same]
@[simp] theorem setFlight_group (s : State) (x : Flight) : (setFlight s x).group = s.group := by rw [setFlight_same]
@[simp] theorem setFlight_staging (s : State) (x : Flight) : (setFlight s x).staging = s.staging := by rw [setFlight_same]
@[simp] theorem setFlight_podgen (s : State) (x : Flight) : (setFlight s x).podgen = s.podgen := by rw [setFlight_same]
@[simp] theorem setFlight_committed (s : State) (x : Flight) : (setFlight s x).committed = s.committed := by rw [setFlight_same]
@[simp] theorem setFlight_outstanding (s : State) (x : Flight) : (setFlight s x).outstanding = s.outstanding := by rw [setFlight_same]
@[simp] theorem setFlight_inbound (s : State) (x : Flight) : (setFlight s x).inbound = s.inbound := by rw [setFlight_same]
@[simp] theorem setFlight_outbox (s : State) (x : Flight) : (setFlight s x).outbox = s.outbox := by rw [setFlight_same]
@[simp] theorem setFlight_sec (s : State) (x : Flight) : (setFlight s x).sec = s.sec := by rw [setFlight_same]
@[simp] theorem setFlight_images (s : State) (x : Flight) : (setFlight s x).images = s.images := by rw [setFlight_same]
@[simp] theorem setFlight_lqTail (s : State) (x : Flight) : (setFlight s x).lqTail = s.lqTail := by rw [setFlight_same]
@[simp] theorem setFlight_lqPos (s : State) (x : Flight) : (setFlight s x).lqPos = s.lqPos := by rw [setFlight_same]
@[simp] theorem setFlight_tokens (s : State) (x : Flight) : (setFlight s x).tokens = s.tokens := by rw [setFlight_same]
@[simp] theorem setFlight_hostData (s : State) (x : Flight) : (setFlight s x).hostData = s.hostData := by rw [setFlight_same]
@[simp] theorem setFlight_agenda (s : State) (x : Flight) : (setFlight s x).agenda = s.agenda := by rw [setFlight_same]
@[simp] theorem setFlight_fresh (s : State) (x : Flight) : (setFlight s x).fresh = s.fresh := by rw [setFlight_same]
@[simp] theorem setFlight_uid (s : State) (x : Flight) : (setFlight s x).uid = s.uid := by rw [setFlight_same]
@[simp] theorem setFlight_iw (s : State) (x : Flight) : (setFlight s x).iw = s.iw := by rw [setFlight_same]
@[simp] theorem setFlight_turn (s : State) (x : Flight) : (setFlight s x).turn = s.turn := by rw [setFlight_same]
@[simp] theorem setFlight_rotor (s : State) (x : Flight) : (setFlight s x).rotor = s.rotor := by rw [setFlight_same]

@[simp] theorem updFlight_cores (s : State) (f : FlightId) (g : Flight → Flight) : (updFlight s f g).cores = s.cores := by rw [updFlight_same]
@[simp] theorem updFlight_mem (s : State) (f : FlightId) (g : Flight → Flight) : (updFlight s f g).mem = s.mem := by rw [updFlight_same]
@[simp] theorem updFlight_lines (s : State) (f : FlightId) (g : Flight → Flight) : (updFlight s f g).lines = s.lines := by rw [updFlight_same]
@[simp] theorem updFlight_poison (s : State) (f : FlightId) (g : Flight → Flight) : (updFlight s f g).poison = s.poison := by rw [updFlight_same]
@[simp] theorem updFlight_contexts (s : State) (f : FlightId) (g : Flight → Flight) : (updFlight s f g).contexts = s.contexts := by rw [updFlight_same]
@[simp] theorem updFlight_dies (s : State) (f : FlightId) (g : Flight → Flight) : (updFlight s f g).dies = s.dies := by rw [updFlight_same]
@[simp] theorem updFlight_standby (s : State) (f : FlightId) (g : Flight → Flight) : (updFlight s f g).standby = s.standby := by rw [updFlight_same]
@[simp] theorem updFlight_hubcount (s : State) (f : FlightId) (g : Flight → Flight) : (updFlight s f g).hubcount = s.hubcount := by rw [updFlight_same]
@[simp] theorem updFlight_phasers (s : State) (f : FlightId) (g : Flight → Flight) : (updFlight s f g).phasers = s.phasers := by rw [updFlight_same]
@[simp] theorem updFlight_podPeers (s : State) (f : FlightId) (g : Flight → Flight) : (updFlight s f g).podPeers = s.podPeers := by rw [updFlight_same]
@[simp] theorem updFlight_bars (s : State) (f : FlightId) (g : Flight → Flight) : (updFlight s f g).bars = s.bars := by rw [updFlight_same]
@[simp] theorem updFlight_barOwed (s : State) (f : FlightId) (g : Flight → Flight) : (updFlight s f g).barOwed = s.barOwed := by rw [updFlight_same]
@[simp] theorem updFlight_grids (s : State) (f : FlightId) (g : Flight → Flight) : (updFlight s f g).grids = s.grids := by rw [updFlight_same]
@[simp] theorem updFlight_resvs (s : State) (f : FlightId) (g : Flight → Flight) : (updFlight s f g).resvs = s.resvs := by rw [updFlight_same]
@[simp] theorem updFlight_cmds (s : State) (f : FlightId) (g : Flight → Flight) : (updFlight s f g).cmds = s.cmds := by rw [updFlight_same]
@[simp] theorem updFlight_dues (s : State) (f : FlightId) (g : Flight → Flight) : (updFlight s f g).dues = s.dues := by rw [updFlight_same]
@[simp] theorem updFlight_conts (s : State) (f : FlightId) (g : Flight → Flight) : (updFlight s f g).conts = s.conts := by rw [updFlight_same]
@[simp] theorem updFlight_prels (s : State) (f : FlightId) (g : Flight → Flight) : (updFlight s f g).prels = s.prels := by rw [updFlight_same]
@[simp] theorem updFlight_faultWait (s : State) (f : FlightId) (g : Flight → Flight) : (updFlight s f g).faultWait = s.faultWait := by rw [updFlight_same]
@[simp] theorem updFlight_eventWait (s : State) (f : FlightId) (g : Flight → Flight) : (updFlight s f g).eventWait = s.eventWait := by rw [updFlight_same]
@[simp] theorem updFlight_anneal (s : State) (f : FlightId) (g : Flight → Flight) : (updFlight s f g).anneal = s.anneal := by rw [updFlight_same]
@[simp] theorem updFlight_journal (s : State) (f : FlightId) (g : Flight → Flight) : (updFlight s f g).journal = s.journal := by rw [updFlight_same]
@[simp] theorem updFlight_power (s : State) (f : FlightId) (g : Flight → Flight) : (updFlight s f g).power = s.power := by rw [updFlight_same]
@[simp] theorem updFlight_expanders (s : State) (f : FlightId) (g : Flight → Flight) : (updFlight s f g).expanders = s.expanders := by rw [updFlight_same]
@[simp] theorem updFlight_host (s : State) (f : FlightId) (g : Flight → Flight) : (updFlight s f g).host = s.host := by rw [updFlight_same]
@[simp] theorem updFlight_group (s : State) (f : FlightId) (g : Flight → Flight) : (updFlight s f g).group = s.group := by rw [updFlight_same]
@[simp] theorem updFlight_staging (s : State) (f : FlightId) (g : Flight → Flight) : (updFlight s f g).staging = s.staging := by rw [updFlight_same]
@[simp] theorem updFlight_podgen (s : State) (f : FlightId) (g : Flight → Flight) : (updFlight s f g).podgen = s.podgen := by rw [updFlight_same]
@[simp] theorem updFlight_committed (s : State) (f : FlightId) (g : Flight → Flight) : (updFlight s f g).committed = s.committed := by rw [updFlight_same]
@[simp] theorem updFlight_outstanding (s : State) (f : FlightId) (g : Flight → Flight) : (updFlight s f g).outstanding = s.outstanding := by rw [updFlight_same]
@[simp] theorem updFlight_inbound (s : State) (f : FlightId) (g : Flight → Flight) : (updFlight s f g).inbound = s.inbound := by rw [updFlight_same]
@[simp] theorem updFlight_outbox (s : State) (f : FlightId) (g : Flight → Flight) : (updFlight s f g).outbox = s.outbox := by rw [updFlight_same]
@[simp] theorem updFlight_sec (s : State) (f : FlightId) (g : Flight → Flight) : (updFlight s f g).sec = s.sec := by rw [updFlight_same]
@[simp] theorem updFlight_images (s : State) (f : FlightId) (g : Flight → Flight) : (updFlight s f g).images = s.images := by rw [updFlight_same]
@[simp] theorem updFlight_lqTail (s : State) (f : FlightId) (g : Flight → Flight) : (updFlight s f g).lqTail = s.lqTail := by rw [updFlight_same]
@[simp] theorem updFlight_lqPos (s : State) (f : FlightId) (g : Flight → Flight) : (updFlight s f g).lqPos = s.lqPos := by rw [updFlight_same]
@[simp] theorem updFlight_tokens (s : State) (f : FlightId) (g : Flight → Flight) : (updFlight s f g).tokens = s.tokens := by rw [updFlight_same]
@[simp] theorem updFlight_hostData (s : State) (f : FlightId) (g : Flight → Flight) : (updFlight s f g).hostData = s.hostData := by rw [updFlight_same]
@[simp] theorem updFlight_agenda (s : State) (f : FlightId) (g : Flight → Flight) : (updFlight s f g).agenda = s.agenda := by rw [updFlight_same]
@[simp] theorem updFlight_fresh (s : State) (f : FlightId) (g : Flight → Flight) : (updFlight s f g).fresh = s.fresh := by rw [updFlight_same]
@[simp] theorem updFlight_uid (s : State) (f : FlightId) (g : Flight → Flight) : (updFlight s f g).uid = s.uid := by rw [updFlight_same]
@[simp] theorem updFlight_iw (s : State) (f : FlightId) (g : Flight → Flight) : (updFlight s f g).iw = s.iw := by rw [updFlight_same]
@[simp] theorem updFlight_turn (s : State) (f : FlightId) (g : Flight → Flight) : (updFlight s f g).turn = s.turn := by rw [updFlight_same]
@[simp] theorem updFlight_rotor (s : State) (f : FlightId) (g : Flight → Flight) : (updFlight s f g).rotor = s.rotor := by rw [updFlight_same]

@[simp] theorem focus_cores (s : State) (f : FlightId) : (focus s f).cores = s.cores := by rw [focus_same]
@[simp] theorem focus_mem (s : State) (f : FlightId) : (focus s f).mem = s.mem := by rw [focus_same]
@[simp] theorem focus_lines (s : State) (f : FlightId) : (focus s f).lines = s.lines := by rw [focus_same]
@[simp] theorem focus_poison (s : State) (f : FlightId) : (focus s f).poison = s.poison := by rw [focus_same]
@[simp] theorem focus_contexts (s : State) (f : FlightId) : (focus s f).contexts = s.contexts := by rw [focus_same]
@[simp] theorem focus_dies (s : State) (f : FlightId) : (focus s f).dies = s.dies := by rw [focus_same]
@[simp] theorem focus_standby (s : State) (f : FlightId) : (focus s f).standby = s.standby := by rw [focus_same]
@[simp] theorem focus_hubcount (s : State) (f : FlightId) : (focus s f).hubcount = s.hubcount := by rw [focus_same]
@[simp] theorem focus_phasers (s : State) (f : FlightId) : (focus s f).phasers = s.phasers := by rw [focus_same]
@[simp] theorem focus_podPeers (s : State) (f : FlightId) : (focus s f).podPeers = s.podPeers := by rw [focus_same]
@[simp] theorem focus_bars (s : State) (f : FlightId) : (focus s f).bars = s.bars := by rw [focus_same]
@[simp] theorem focus_barOwed (s : State) (f : FlightId) : (focus s f).barOwed = s.barOwed := by rw [focus_same]
@[simp] theorem focus_grids (s : State) (f : FlightId) : (focus s f).grids = s.grids := by rw [focus_same]
@[simp] theorem focus_resvs (s : State) (f : FlightId) : (focus s f).resvs = s.resvs := by rw [focus_same]
@[simp] theorem focus_cmds (s : State) (f : FlightId) : (focus s f).cmds = s.cmds := by rw [focus_same]
@[simp] theorem focus_dues (s : State) (f : FlightId) : (focus s f).dues = s.dues := by rw [focus_same]
@[simp] theorem focus_conts (s : State) (f : FlightId) : (focus s f).conts = s.conts := by rw [focus_same]
@[simp] theorem focus_prels (s : State) (f : FlightId) : (focus s f).prels = s.prels := by rw [focus_same]
@[simp] theorem focus_faultWait (s : State) (f : FlightId) : (focus s f).faultWait = s.faultWait := by rw [focus_same]
@[simp] theorem focus_eventWait (s : State) (f : FlightId) : (focus s f).eventWait = s.eventWait := by rw [focus_same]
@[simp] theorem focus_anneal (s : State) (f : FlightId) : (focus s f).anneal = s.anneal := by rw [focus_same]
@[simp] theorem focus_journal (s : State) (f : FlightId) : (focus s f).journal = s.journal := by rw [focus_same]
@[simp] theorem focus_power (s : State) (f : FlightId) : (focus s f).power = s.power := by rw [focus_same]
@[simp] theorem focus_expanders (s : State) (f : FlightId) : (focus s f).expanders = s.expanders := by rw [focus_same]
@[simp] theorem focus_host (s : State) (f : FlightId) : (focus s f).host = s.host := by rw [focus_same]
@[simp] theorem focus_group (s : State) (f : FlightId) : (focus s f).group = s.group := by rw [focus_same]
@[simp] theorem focus_staging (s : State) (f : FlightId) : (focus s f).staging = s.staging := by rw [focus_same]
@[simp] theorem focus_podgen (s : State) (f : FlightId) : (focus s f).podgen = s.podgen := by rw [focus_same]
@[simp] theorem focus_committed (s : State) (f : FlightId) : (focus s f).committed = s.committed := by rw [focus_same]
@[simp] theorem focus_outstanding (s : State) (f : FlightId) : (focus s f).outstanding = s.outstanding := by rw [focus_same]
@[simp] theorem focus_inbound (s : State) (f : FlightId) : (focus s f).inbound = s.inbound := by rw [focus_same]
@[simp] theorem focus_outbox (s : State) (f : FlightId) : (focus s f).outbox = s.outbox := by rw [focus_same]
@[simp] theorem focus_sec (s : State) (f : FlightId) : (focus s f).sec = s.sec := by rw [focus_same]
@[simp] theorem focus_images (s : State) (f : FlightId) : (focus s f).images = s.images := by rw [focus_same]
@[simp] theorem focus_lqTail (s : State) (f : FlightId) : (focus s f).lqTail = s.lqTail := by rw [focus_same]
@[simp] theorem focus_lqPos (s : State) (f : FlightId) : (focus s f).lqPos = s.lqPos := by rw [focus_same]
@[simp] theorem focus_tokens (s : State) (f : FlightId) : (focus s f).tokens = s.tokens := by rw [focus_same]
@[simp] theorem focus_hostData (s : State) (f : FlightId) : (focus s f).hostData = s.hostData := by rw [focus_same]
@[simp] theorem focus_agenda (s : State) (f : FlightId) : (focus s f).agenda = s.agenda := by rw [focus_same]
@[simp] theorem focus_fresh (s : State) (f : FlightId) : (focus s f).fresh = s.fresh := by rw [focus_same]
@[simp] theorem focus_uid (s : State) (f : FlightId) : (focus s f).uid = s.uid := by rw [focus_same]
@[simp] theorem focus_iw (s : State) (f : FlightId) : (focus s f).iw = s.iw := by rw [focus_same]
@[simp] theorem focus_turn (s : State) (f : FlightId) : (focus s f).turn = s.turn := by rw [focus_same]
@[simp] theorem focus_rotor (s : State) (f : FlightId) : (focus s f).rotor = s.rotor := by rw [focus_same]

@[simp] theorem removeFlight_cores (s : State) (f : FlightId) : (removeFlight s f).cores = s.cores := by rw [removeFlight_same]
@[simp] theorem removeFlight_mem (s : State) (f : FlightId) : (removeFlight s f).mem = s.mem := by rw [removeFlight_same]
@[simp] theorem removeFlight_lines (s : State) (f : FlightId) : (removeFlight s f).lines = s.lines := by rw [removeFlight_same]
@[simp] theorem removeFlight_poison (s : State) (f : FlightId) : (removeFlight s f).poison = s.poison := by rw [removeFlight_same]
@[simp] theorem removeFlight_contexts (s : State) (f : FlightId) : (removeFlight s f).contexts = s.contexts := by rw [removeFlight_same]
@[simp] theorem removeFlight_dies (s : State) (f : FlightId) : (removeFlight s f).dies = s.dies := by rw [removeFlight_same]
@[simp] theorem removeFlight_standby (s : State) (f : FlightId) : (removeFlight s f).standby = s.standby := by rw [removeFlight_same]
@[simp] theorem removeFlight_hubcount (s : State) (f : FlightId) : (removeFlight s f).hubcount = s.hubcount := by rw [removeFlight_same]
@[simp] theorem removeFlight_phasers (s : State) (f : FlightId) : (removeFlight s f).phasers = s.phasers := by rw [removeFlight_same]
@[simp] theorem removeFlight_podPeers (s : State) (f : FlightId) : (removeFlight s f).podPeers = s.podPeers := by rw [removeFlight_same]
@[simp] theorem removeFlight_bars (s : State) (f : FlightId) : (removeFlight s f).bars = s.bars := by rw [removeFlight_same]
@[simp] theorem removeFlight_barOwed (s : State) (f : FlightId) : (removeFlight s f).barOwed = s.barOwed := by rw [removeFlight_same]
@[simp] theorem removeFlight_grids (s : State) (f : FlightId) : (removeFlight s f).grids = s.grids := by rw [removeFlight_same]
@[simp] theorem removeFlight_resvs (s : State) (f : FlightId) : (removeFlight s f).resvs = s.resvs := by rw [removeFlight_same]
@[simp] theorem removeFlight_cmds (s : State) (f : FlightId) : (removeFlight s f).cmds = s.cmds := by rw [removeFlight_same]
@[simp] theorem removeFlight_dues (s : State) (f : FlightId) : (removeFlight s f).dues = s.dues := by rw [removeFlight_same]
@[simp] theorem removeFlight_conts (s : State) (f : FlightId) : (removeFlight s f).conts = s.conts := by rw [removeFlight_same]
@[simp] theorem removeFlight_prels (s : State) (f : FlightId) : (removeFlight s f).prels = s.prels := by rw [removeFlight_same]
@[simp] theorem removeFlight_faultWait (s : State) (f : FlightId) : (removeFlight s f).faultWait = s.faultWait := by rw [removeFlight_same]
@[simp] theorem removeFlight_eventWait (s : State) (f : FlightId) : (removeFlight s f).eventWait = s.eventWait := by rw [removeFlight_same]
@[simp] theorem removeFlight_anneal (s : State) (f : FlightId) : (removeFlight s f).anneal = s.anneal := by rw [removeFlight_same]
@[simp] theorem removeFlight_journal (s : State) (f : FlightId) : (removeFlight s f).journal = s.journal := by rw [removeFlight_same]
@[simp] theorem removeFlight_power (s : State) (f : FlightId) : (removeFlight s f).power = s.power := by rw [removeFlight_same]
@[simp] theorem removeFlight_expanders (s : State) (f : FlightId) : (removeFlight s f).expanders = s.expanders := by rw [removeFlight_same]
@[simp] theorem removeFlight_host (s : State) (f : FlightId) : (removeFlight s f).host = s.host := by rw [removeFlight_same]
@[simp] theorem removeFlight_group (s : State) (f : FlightId) : (removeFlight s f).group = s.group := by rw [removeFlight_same]
@[simp] theorem removeFlight_staging (s : State) (f : FlightId) : (removeFlight s f).staging = s.staging := by rw [removeFlight_same]
@[simp] theorem removeFlight_podgen (s : State) (f : FlightId) : (removeFlight s f).podgen = s.podgen := by rw [removeFlight_same]
@[simp] theorem removeFlight_committed (s : State) (f : FlightId) : (removeFlight s f).committed = s.committed := by rw [removeFlight_same]
@[simp] theorem removeFlight_outstanding (s : State) (f : FlightId) : (removeFlight s f).outstanding = s.outstanding := by rw [removeFlight_same]
@[simp] theorem removeFlight_inbound (s : State) (f : FlightId) : (removeFlight s f).inbound = s.inbound := by rw [removeFlight_same]
@[simp] theorem removeFlight_outbox (s : State) (f : FlightId) : (removeFlight s f).outbox = s.outbox := by rw [removeFlight_same]
@[simp] theorem removeFlight_sec (s : State) (f : FlightId) : (removeFlight s f).sec = s.sec := by rw [removeFlight_same]
@[simp] theorem removeFlight_images (s : State) (f : FlightId) : (removeFlight s f).images = s.images := by rw [removeFlight_same]
@[simp] theorem removeFlight_lqTail (s : State) (f : FlightId) : (removeFlight s f).lqTail = s.lqTail := by rw [removeFlight_same]
@[simp] theorem removeFlight_lqPos (s : State) (f : FlightId) : (removeFlight s f).lqPos = s.lqPos := by rw [removeFlight_same]
@[simp] theorem removeFlight_tokens (s : State) (f : FlightId) : (removeFlight s f).tokens = s.tokens := by rw [removeFlight_same]
@[simp] theorem removeFlight_hostData (s : State) (f : FlightId) : (removeFlight s f).hostData = s.hostData := by rw [removeFlight_same]
@[simp] theorem removeFlight_agenda (s : State) (f : FlightId) : (removeFlight s f).agenda = s.agenda := by rw [removeFlight_same]
@[simp] theorem removeFlight_fresh (s : State) (f : FlightId) : (removeFlight s f).fresh = s.fresh := by rw [removeFlight_same]
@[simp] theorem removeFlight_uid (s : State) (f : FlightId) : (removeFlight s f).uid = s.uid := by rw [removeFlight_same]
@[simp] theorem removeFlight_iw (s : State) (f : FlightId) : (removeFlight s f).iw = s.iw := by rw [removeFlight_same]
@[simp] theorem removeFlight_turn (s : State) (f : FlightId) : (removeFlight s f).turn = s.turn := by rw [removeFlight_same]
@[simp] theorem removeFlight_rotor (s : State) (f : FlightId) : (removeFlight s f).rotor = s.rotor := by rw [removeFlight_same]

@[simp] theorem addFlight_cores (s : State) (x : Flight) : (addFlight s x).cores = s.cores := by rw [addFlight_same]
@[simp] theorem addFlight_mem (s : State) (x : Flight) : (addFlight s x).mem = s.mem := by rw [addFlight_same]
@[simp] theorem addFlight_lines (s : State) (x : Flight) : (addFlight s x).lines = s.lines := by rw [addFlight_same]
@[simp] theorem addFlight_poison (s : State) (x : Flight) : (addFlight s x).poison = s.poison := by rw [addFlight_same]
@[simp] theorem addFlight_contexts (s : State) (x : Flight) : (addFlight s x).contexts = s.contexts := by rw [addFlight_same]
@[simp] theorem addFlight_dies (s : State) (x : Flight) : (addFlight s x).dies = s.dies := by rw [addFlight_same]
@[simp] theorem addFlight_standby (s : State) (x : Flight) : (addFlight s x).standby = s.standby := by rw [addFlight_same]
@[simp] theorem addFlight_hubcount (s : State) (x : Flight) : (addFlight s x).hubcount = s.hubcount := by rw [addFlight_same]
@[simp] theorem addFlight_phasers (s : State) (x : Flight) : (addFlight s x).phasers = s.phasers := by rw [addFlight_same]
@[simp] theorem addFlight_podPeers (s : State) (x : Flight) : (addFlight s x).podPeers = s.podPeers := by rw [addFlight_same]
@[simp] theorem addFlight_bars (s : State) (x : Flight) : (addFlight s x).bars = s.bars := by rw [addFlight_same]
@[simp] theorem addFlight_barOwed (s : State) (x : Flight) : (addFlight s x).barOwed = s.barOwed := by rw [addFlight_same]
@[simp] theorem addFlight_grids (s : State) (x : Flight) : (addFlight s x).grids = s.grids := by rw [addFlight_same]
@[simp] theorem addFlight_resvs (s : State) (x : Flight) : (addFlight s x).resvs = s.resvs := by rw [addFlight_same]
@[simp] theorem addFlight_cmds (s : State) (x : Flight) : (addFlight s x).cmds = s.cmds := by rw [addFlight_same]
@[simp] theorem addFlight_dues (s : State) (x : Flight) : (addFlight s x).dues = s.dues := by rw [addFlight_same]
@[simp] theorem addFlight_conts (s : State) (x : Flight) : (addFlight s x).conts = s.conts := by rw [addFlight_same]
@[simp] theorem addFlight_prels (s : State) (x : Flight) : (addFlight s x).prels = s.prels := by rw [addFlight_same]
@[simp] theorem addFlight_faultWait (s : State) (x : Flight) : (addFlight s x).faultWait = s.faultWait := by rw [addFlight_same]
@[simp] theorem addFlight_eventWait (s : State) (x : Flight) : (addFlight s x).eventWait = s.eventWait := by rw [addFlight_same]
@[simp] theorem addFlight_anneal (s : State) (x : Flight) : (addFlight s x).anneal = s.anneal := by rw [addFlight_same]
@[simp] theorem addFlight_journal (s : State) (x : Flight) : (addFlight s x).journal = s.journal := by rw [addFlight_same]
@[simp] theorem addFlight_power (s : State) (x : Flight) : (addFlight s x).power = s.power := by rw [addFlight_same]
@[simp] theorem addFlight_expanders (s : State) (x : Flight) : (addFlight s x).expanders = s.expanders := by rw [addFlight_same]
@[simp] theorem addFlight_host (s : State) (x : Flight) : (addFlight s x).host = s.host := by rw [addFlight_same]
@[simp] theorem addFlight_group (s : State) (x : Flight) : (addFlight s x).group = s.group := by rw [addFlight_same]
@[simp] theorem addFlight_staging (s : State) (x : Flight) : (addFlight s x).staging = s.staging := by rw [addFlight_same]
@[simp] theorem addFlight_podgen (s : State) (x : Flight) : (addFlight s x).podgen = s.podgen := by rw [addFlight_same]
@[simp] theorem addFlight_committed (s : State) (x : Flight) : (addFlight s x).committed = s.committed := by rw [addFlight_same]
@[simp] theorem addFlight_outstanding (s : State) (x : Flight) : (addFlight s x).outstanding = s.outstanding := by rw [addFlight_same]
@[simp] theorem addFlight_inbound (s : State) (x : Flight) : (addFlight s x).inbound = s.inbound := by rw [addFlight_same]
@[simp] theorem addFlight_outbox (s : State) (x : Flight) : (addFlight s x).outbox = s.outbox := by rw [addFlight_same]
@[simp] theorem addFlight_sec (s : State) (x : Flight) : (addFlight s x).sec = s.sec := by rw [addFlight_same]
@[simp] theorem addFlight_images (s : State) (x : Flight) : (addFlight s x).images = s.images := by rw [addFlight_same]
@[simp] theorem addFlight_lqTail (s : State) (x : Flight) : (addFlight s x).lqTail = s.lqTail := by rw [addFlight_same]
@[simp] theorem addFlight_lqPos (s : State) (x : Flight) : (addFlight s x).lqPos = s.lqPos := by rw [addFlight_same]
@[simp] theorem addFlight_tokens (s : State) (x : Flight) : (addFlight s x).tokens = s.tokens := by rw [addFlight_same]
@[simp] theorem addFlight_hostData (s : State) (x : Flight) : (addFlight s x).hostData = s.hostData := by rw [addFlight_same]
@[simp] theorem addFlight_agenda (s : State) (x : Flight) : (addFlight s x).agenda = s.agenda := by rw [addFlight_same]
@[simp] theorem addFlight_fresh (s : State) (x : Flight) : (addFlight s x).fresh = s.fresh := by rw [addFlight_same]
@[simp] theorem addFlight_uid (s : State) (x : Flight) : (addFlight s x).uid = s.uid := by rw [addFlight_same]
@[simp] theorem addFlight_iw (s : State) (x : Flight) : (addFlight s x).iw = s.iw := by rw [addFlight_same]
@[simp] theorem addFlight_turn (s : State) (x : Flight) : (addFlight s x).turn = s.turn := by rw [addFlight_same]
@[simp] theorem addFlight_rotor (s : State) (x : Flight) : (addFlight s x).rotor = s.rotor := by rw [addFlight_same]

/-! Fields of a flight and of a lane. -/

@[simp] theorem mapLanes_id (s : Flight) (g : LaneId → Lane → Lane) : (s.mapLanes g).id = s.id := rfl
@[simp] theorem mapLanes_live (s : Flight) (g : LaneId → Lane → Lane) : (s.mapLanes g).live = s.live := rfl
@[simp] theorem mapLanes_slot (s : Flight) (g : LaneId → Lane → Lane) : (s.mapLanes g).slot = s.slot := rfl
@[simp] theorem mapLanes_ctx (s : Flight) (g : LaneId → Lane → Lane) : (s.mapLanes g).ctx = s.ctx := rfl
@[simp] theorem mapLanes_level (s : Flight) (g : LaneId → Lane → Lane) : (s.mapLanes g).level = s.level := rfl
@[simp] theorem mapLanes_rootlvl (s : Flight) (g : LaneId → Lane → Lane) : (s.mapLanes g).rootlvl = s.rootlvl := rfl
@[simp] theorem mapLanes_teamidx (s : Flight) (g : LaneId → Lane → Lane) : (s.mapLanes g).teamidx = s.teamidx := rfl
@[simp] theorem mapLanes_teamcnt (s : Flight) (g : LaneId → Lane → Lane) : (s.mapLanes g).teamcnt = s.teamcnt := rfl
@[simp] theorem mapLanes_ginst (s : Flight) (g : LaneId → Lane → Lane) : (s.mapLanes g).ginst = s.ginst := rfl
@[simp] theorem mapLanes_depth (s : Flight) (g : LaneId → Lane → Lane) : (s.mapLanes g).depth = s.depth := rfl
@[simp] theorem mapLanes_resv (s : Flight) (g : LaneId → Lane → Lane) : (s.mapLanes g).resv = s.resv := rfl
@[simp] theorem mapLanes_lclass (s : Flight) (g : LaneId → Lane → Lane) : (s.mapLanes g).lclass = s.lclass := rfl
@[simp] theorem mapLanes_eclass (s : Flight) (g : LaneId → Lane → Lane) : (s.mapLanes g).eclass = s.eclass := rfl
@[simp] theorem mapLanes_passed (s : Flight) (g : LaneId → Lane → Lane) : (s.mapLanes g).passed = s.passed := rfl
@[simp] theorem mapLanes_mm (s : Flight) (g : LaneId → Lane → Lane) : (s.mapLanes g).mm = s.mm := rfl
@[simp] theorem mapLanes_priv (s : Flight) (g : LaneId → Lane → Lane) : (s.mapLanes g).priv = s.priv := rfl
@[simp] theorem mapLanes_hnd (s : Flight) (g : LaneId → Lane → Lane) : (s.mapLanes g).hnd = s.hnd := rfl
@[simp] theorem mapLanes_dphase (s : Flight) (g : LaneId → Lane → Lane) : (s.mapLanes g).dphase = s.dphase := rfl
@[simp] theorem mapLanes_fpctl (s : Flight) (g : LaneId → Lane → Lane) : (s.mapLanes g).fpctl = s.fpctl := rfl
@[simp] theorem mapLanes_ictl (s : Flight) (g : LaneId → Lane → Lane) : (s.mapLanes g).ictl = s.ictl := rfl
@[simp] theorem mapLanes_tvec (s : Flight) (g : LaneId → Lane → Lane) : (s.mapLanes g).tvec = s.tvec := rfl
@[simp] theorem mapLanes_tcause (s : Flight) (g : LaneId → Lane → Lane) : (s.mapLanes g).tcause = s.tcause := rfl
@[simp] theorem mapLanes_tmask (s : Flight) (g : LaneId → Lane → Lane) : (s.mapLanes g).tmask = s.tmask := rfl
@[simp] theorem mapLanes_tpc (s : Flight) (g : LaneId → Lane → Lane) : (s.mapLanes g).tpc = s.tpc := rfl
@[simp] theorem mapLanes_tinsn (s : Flight) (g : LaneId → Lane → Lane) : (s.mapLanes g).tinsn = s.tinsn := rfl
@[simp] theorem mapLanes_trapRep (s : Flight) (g : LaneId → Lane → Lane) : (s.mapLanes g).trapRep = s.trapRep := rfl
@[simp] theorem mapLanes_merr (s : Flight) (g : LaneId → Lane → Lane) : (s.mapLanes g).merr = s.merr := rfl
@[simp] theorem mapLanes_merrxy (s : Flight) (g : LaneId → Lane → Lane) : (s.mapLanes g).merrxy = s.merrxy := rfl
@[simp] theorem mapLanes_rflat (s : Flight) (g : LaneId → Lane → Lane) : (s.mapLanes g).rflat = s.rflat := rfl
@[simp] theorem mapLanes_mpasses (s : Flight) (g : LaneId → Lane → Lane) : (s.mapLanes g).mpasses = s.mpasses := rfl
@[simp] theorem mapLanes_rejoin (s : Flight) (g : LaneId → Lane → Lane) : (s.mapLanes g).rejoin = s.rejoin := rfl
@[simp] theorem mapLanes_queues (s : Flight) (g : LaneId → Lane → Lane) : (s.mapLanes g).queues = s.queues := rfl
@[simp] theorem mapLanes_launches (s : Flight) (g : LaneId → Lane → Lane) : (s.mapLanes g).launches = s.launches := rfl
@[simp] theorem mapLanes_phregs (s : Flight) (g : LaneId → Lane → Lane) : (s.mapLanes g).phregs = s.phregs := rfl
@[simp] theorem mapLanes_held (s : Flight) (g : LaneId → Lane → Lane) : (s.mapLanes g).held = s.held := rfl
@[simp] theorem mapLanes_dropped (s : Flight) (g : LaneId → Lane → Lane) : (s.mapLanes g).dropped = s.dropped := rfl
@[simp] theorem mapLanes_stopped (s : Flight) (g : LaneId → Lane → Lane) : (s.mapLanes g).stopped = s.stopped := rfl
@[simp] theorem mapLanes_preempt (s : Flight) (g : LaneId → Lane → Lane) : (s.mapLanes g).preempt = s.preempt := rfl
@[simp] theorem mapLanes_stoppedBy (s : Flight) (g : LaneId → Lane → Lane) : (s.mapLanes g).stoppedBy = s.stoppedBy := rfl
@[simp] theorem mapLanes_switched (s : Flight) (g : LaneId → Lane → Lane) : (s.mapLanes g).switched = s.switched := rfl
@[simp] theorem mapLanes_run (s : Flight) (g : LaneId → Lane → Lane) : (s.mapLanes g).run = s.run := rfl
@[simp] theorem mapLanes_halted (s : Flight) (g : LaneId → Lane → Lane) : (s.mapLanes g).halted = s.halted := rfl
@[simp] theorem mapLanes_stall (s : Flight) (g : LaneId → Lane → Lane) : (s.mapLanes g).stall = s.stall := rfl
@[simp] theorem mapLanes_service (s : Flight) (g : LaneId → Lane → Lane) : (s.mapLanes g).service = s.service := rfl
@[simp] theorem mapLanes_pendTrap (s : Flight) (g : LaneId → Lane → Lane) : (s.mapLanes g).pendTrap = s.pendTrap := rfl
@[simp] theorem mapLanes_member (s : Flight) (g : LaneId → Lane → Lane) : (s.mapLanes g).member = s.member := rfl
@[simp] theorem mapLanes_awaitImage (s : Flight) (g : LaneId → Lane → Lane) : (s.mapLanes g).awaitImage = s.awaitImage := rfl
@[simp] theorem mapLanes_ending (s : Flight) (g : LaneId → Lane → Lane) : (s.mapLanes g).ending = s.ending := rfl
@[simp] theorem mapLanes_since (s : Flight) (g : LaneId → Lane → Lane) : (s.mapLanes g).since = s.since := rfl

@[simp] theorem setLane_id (s : Flight) (k : LaneId) (x : Lane) : (s.setLane k x).id = s.id := rfl
@[simp] theorem setLane_live (s : Flight) (k : LaneId) (x : Lane) : (s.setLane k x).live = s.live := rfl
@[simp] theorem setLane_slot (s : Flight) (k : LaneId) (x : Lane) : (s.setLane k x).slot = s.slot := rfl
@[simp] theorem setLane_ctx (s : Flight) (k : LaneId) (x : Lane) : (s.setLane k x).ctx = s.ctx := rfl
@[simp] theorem setLane_level (s : Flight) (k : LaneId) (x : Lane) : (s.setLane k x).level = s.level := rfl
@[simp] theorem setLane_rootlvl (s : Flight) (k : LaneId) (x : Lane) : (s.setLane k x).rootlvl = s.rootlvl := rfl
@[simp] theorem setLane_teamidx (s : Flight) (k : LaneId) (x : Lane) : (s.setLane k x).teamidx = s.teamidx := rfl
@[simp] theorem setLane_teamcnt (s : Flight) (k : LaneId) (x : Lane) : (s.setLane k x).teamcnt = s.teamcnt := rfl
@[simp] theorem setLane_ginst (s : Flight) (k : LaneId) (x : Lane) : (s.setLane k x).ginst = s.ginst := rfl
@[simp] theorem setLane_depth (s : Flight) (k : LaneId) (x : Lane) : (s.setLane k x).depth = s.depth := rfl
@[simp] theorem setLane_resv (s : Flight) (k : LaneId) (x : Lane) : (s.setLane k x).resv = s.resv := rfl
@[simp] theorem setLane_lclass (s : Flight) (k : LaneId) (x : Lane) : (s.setLane k x).lclass = s.lclass := rfl
@[simp] theorem setLane_eclass (s : Flight) (k : LaneId) (x : Lane) : (s.setLane k x).eclass = s.eclass := rfl
@[simp] theorem setLane_passed (s : Flight) (k : LaneId) (x : Lane) : (s.setLane k x).passed = s.passed := rfl
@[simp] theorem setLane_mm (s : Flight) (k : LaneId) (x : Lane) : (s.setLane k x).mm = s.mm := rfl
@[simp] theorem setLane_priv (s : Flight) (k : LaneId) (x : Lane) : (s.setLane k x).priv = s.priv := rfl
@[simp] theorem setLane_hnd (s : Flight) (k : LaneId) (x : Lane) : (s.setLane k x).hnd = s.hnd := rfl
@[simp] theorem setLane_dphase (s : Flight) (k : LaneId) (x : Lane) : (s.setLane k x).dphase = s.dphase := rfl
@[simp] theorem setLane_fpctl (s : Flight) (k : LaneId) (x : Lane) : (s.setLane k x).fpctl = s.fpctl := rfl
@[simp] theorem setLane_ictl (s : Flight) (k : LaneId) (x : Lane) : (s.setLane k x).ictl = s.ictl := rfl
@[simp] theorem setLane_tvec (s : Flight) (k : LaneId) (x : Lane) : (s.setLane k x).tvec = s.tvec := rfl
@[simp] theorem setLane_tcause (s : Flight) (k : LaneId) (x : Lane) : (s.setLane k x).tcause = s.tcause := rfl
@[simp] theorem setLane_tmask (s : Flight) (k : LaneId) (x : Lane) : (s.setLane k x).tmask = s.tmask := rfl
@[simp] theorem setLane_tpc (s : Flight) (k : LaneId) (x : Lane) : (s.setLane k x).tpc = s.tpc := rfl
@[simp] theorem setLane_tinsn (s : Flight) (k : LaneId) (x : Lane) : (s.setLane k x).tinsn = s.tinsn := rfl
@[simp] theorem setLane_trapRep (s : Flight) (k : LaneId) (x : Lane) : (s.setLane k x).trapRep = s.trapRep := rfl
@[simp] theorem setLane_merr (s : Flight) (k : LaneId) (x : Lane) : (s.setLane k x).merr = s.merr := rfl
@[simp] theorem setLane_merrxy (s : Flight) (k : LaneId) (x : Lane) : (s.setLane k x).merrxy = s.merrxy := rfl
@[simp] theorem setLane_rflat (s : Flight) (k : LaneId) (x : Lane) : (s.setLane k x).rflat = s.rflat := rfl
@[simp] theorem setLane_mpasses (s : Flight) (k : LaneId) (x : Lane) : (s.setLane k x).mpasses = s.mpasses := rfl
@[simp] theorem setLane_rejoin (s : Flight) (k : LaneId) (x : Lane) : (s.setLane k x).rejoin = s.rejoin := rfl
@[simp] theorem setLane_queues (s : Flight) (k : LaneId) (x : Lane) : (s.setLane k x).queues = s.queues := rfl
@[simp] theorem setLane_launches (s : Flight) (k : LaneId) (x : Lane) : (s.setLane k x).launches = s.launches := rfl
@[simp] theorem setLane_phregs (s : Flight) (k : LaneId) (x : Lane) : (s.setLane k x).phregs = s.phregs := rfl
@[simp] theorem setLane_held (s : Flight) (k : LaneId) (x : Lane) : (s.setLane k x).held = s.held := rfl
@[simp] theorem setLane_dropped (s : Flight) (k : LaneId) (x : Lane) : (s.setLane k x).dropped = s.dropped := rfl
@[simp] theorem setLane_stopped (s : Flight) (k : LaneId) (x : Lane) : (s.setLane k x).stopped = s.stopped := rfl
@[simp] theorem setLane_preempt (s : Flight) (k : LaneId) (x : Lane) : (s.setLane k x).preempt = s.preempt := rfl
@[simp] theorem setLane_stoppedBy (s : Flight) (k : LaneId) (x : Lane) : (s.setLane k x).stoppedBy = s.stoppedBy := rfl
@[simp] theorem setLane_switched (s : Flight) (k : LaneId) (x : Lane) : (s.setLane k x).switched = s.switched := rfl
@[simp] theorem setLane_run (s : Flight) (k : LaneId) (x : Lane) : (s.setLane k x).run = s.run := rfl
@[simp] theorem setLane_halted (s : Flight) (k : LaneId) (x : Lane) : (s.setLane k x).halted = s.halted := rfl
@[simp] theorem setLane_stall (s : Flight) (k : LaneId) (x : Lane) : (s.setLane k x).stall = s.stall := rfl
@[simp] theorem setLane_service (s : Flight) (k : LaneId) (x : Lane) : (s.setLane k x).service = s.service := rfl
@[simp] theorem setLane_pendTrap (s : Flight) (k : LaneId) (x : Lane) : (s.setLane k x).pendTrap = s.pendTrap := rfl
@[simp] theorem setLane_member (s : Flight) (k : LaneId) (x : Lane) : (s.setLane k x).member = s.member := rfl
@[simp] theorem setLane_awaitImage (s : Flight) (k : LaneId) (x : Lane) : (s.setLane k x).awaitImage = s.awaitImage := rfl
@[simp] theorem setLane_ending (s : Flight) (k : LaneId) (x : Lane) : (s.setLane k x).ending = s.ending := rfl
@[simp] theorem setLane_since (s : Flight) (k : LaneId) (x : Lane) : (s.setLane k x).since = s.since := rfl

@[simp] theorem setG_st (s : Lane) (i : BitVec 6) (x : Word) : (s.setG i x).st = s.st := by unfold Lane.setG; split <;> rfl
@[simp] theorem setG_p (s : Lane) (i : BitVec 6) (x : Word) : (s.setG i x).p = s.p := by unfold Lane.setG; split <;> rfl
@[simp] theorem setG_v (s : Lane) (i : BitVec 6) (x : Word) : (s.setG i x).v = s.v := by unfold Lane.setG; split <;> rfl
@[simp] theorem setG_pos (s : Lane) (i : BitVec 6) (x : Word) : (s.setG i x).pos = s.pos := by unfold Lane.setG; split <;> rfl
@[simp] theorem setG_crossed (s : Lane) (i : BitVec 6) (x : Word) : (s.setG i x).crossed = s.crossed := by unfold Lane.setG; split <;> rfl
@[simp] theorem setG_done (s : Lane) (i : BitVec 6) (x : Word) : (s.setG i x).done = s.done := by unfold Lane.setG; split <;> rfl
@[simp] theorem setG_remain (s : Lane) (i : BitVec 6) (x : Word) : (s.setG i x).remain = s.remain := by unfold Lane.setG; split <;> rfl
@[simp] theorem setG_repInt (s : Lane) (i : BitVec 6) (x : Word) : (s.setG i x).repInt = s.repInt := by unfold Lane.setG; split <;> rfl
@[simp] theorem setG_repCont (s : Lane) (i : BitVec 6) (x : Word) : (s.setG i x).repCont = s.repCont := by unfold Lane.setG; split <;> rfl
@[simp] theorem setG_repFin (s : Lane) (i : BitVec 6) (x : Word) : (s.setG i x).repFin = s.repFin := by unfold Lane.setG; split <;> rfl
@[simp] theorem setG_parkRep (s : Lane) (i : BitVec 6) (x : Word) : (s.setG i x).parkRep = s.parkRep := by unfold Lane.setG; split <;> rfl
@[simp] theorem setG_pend (s : Lane) (i : BitVec 6) (x : Word) : (s.setG i x).pend = s.pend := by unfold Lane.setG; split <;> rfl
@[simp] theorem setG_part (s : Lane) (i : BitVec 6) (x : Word) : (s.setG i x).part = s.part := by unfold Lane.setG; split <;> rfl
@[simp] theorem setG_shadow (s : Lane) (i : BitVec 6) (x : Word) : (s.setG i x).shadow = s.shadow := by unfold Lane.setG; split <;> rfl
@[simp] theorem setG_shPend (s : Lane) (i : BitVec 6) (x : Word) : (s.setG i x).shPend = s.shPend := by unfold Lane.setG; split <;> rfl
@[simp] theorem setG_shPart (s : Lane) (i : BitVec 6) (x : Word) : (s.setG i x).shPart = s.shPart := by unfold Lane.setG; split <;> rfl
@[simp] theorem setG_shFix (s : Lane) (i : BitVec 6) (x : Word) : (s.setG i x).shFix = s.shFix := by unfold Lane.setG; split <;> rfl
@[simp] theorem setG_shFaulty (s : Lane) (i : BitVec 6) (x : Word) : (s.setG i x).shFaulty = s.shFaulty := by unfold Lane.setG; split <;> rfl
@[simp] theorem setG_shPos (s : Lane) (i : BitVec 6) (x : Word) : (s.setG i x).shPos = s.shPos := by unfold Lane.setG; split <;> rfl
@[simp] theorem setG_shCont (s : Lane) (i : BitVec 6) (x : Word) : (s.setG i x).shCont = s.shCont := by unfold Lane.setG; split <;> rfl
@[simp] theorem setG_shFin (s : Lane) (i : BitVec 6) (x : Word) : (s.setG i x).shFin = s.shFin := by unfold Lane.setG; split <;> rfl
@[simp] theorem setG_inS (s : Lane) (i : BitVec 6) (x : Word) : (s.setG i x).inS = s.inS := by unfold Lane.setG; split <;> rfl
@[simp] theorem setG_fpstat (s : Lane) (i : BitVec 6) (x : Word) : (s.setG i x).fpstat = s.fpstat := by unfold Lane.setG; split <;> rfl
@[simp] theorem setG_istat (s : Lane) (i : BitVec 6) (x : Word) : (s.setG i x).istat = s.istat := by unfold Lane.setG; split <;> rfl
@[simp] theorem setG_temask (s : Lane) (i : BitVec 6) (x : Word) : (s.setG i x).temask = s.temask := by unfold Lane.setG; split <;> rfl
@[simp] theorem setG_tval (s : Lane) (i : BitVec 6) (x : Word) : (s.setG i x).tval = s.tval := by unfold Lane.setG; split <;> rfl
@[simp] theorem setG_fail (s : Lane) (i : BitVec 6) (x : Word) : (s.setG i x).fail = s.fail := by unfold Lane.setG; split <;> rfl
@[simp] theorem setG_slotSkip (s : Lane) (i : BitVec 6) (x : Word) : (s.setG i x).slotSkip = s.slotSkip := by unfold Lane.setG; split <;> rfl

@[simp] theorem setP_st (s : Lane) (i : BitVec 3) (x : Bool) : (s.setP i x).st = s.st := by unfold Lane.setP; split <;> rfl
@[simp] theorem setP_g (s : Lane) (i : BitVec 3) (x : Bool) : (s.setP i x).g = s.g := by unfold Lane.setP; split <;> rfl
@[simp] theorem setP_v (s : Lane) (i : BitVec 3) (x : Bool) : (s.setP i x).v = s.v := by unfold Lane.setP; split <;> rfl
@[simp] theorem setP_pos (s : Lane) (i : BitVec 3) (x : Bool) : (s.setP i x).pos = s.pos := by unfold Lane.setP; split <;> rfl
@[simp] theorem setP_crossed (s : Lane) (i : BitVec 3) (x : Bool) : (s.setP i x).crossed = s.crossed := by unfold Lane.setP; split <;> rfl
@[simp] theorem setP_done (s : Lane) (i : BitVec 3) (x : Bool) : (s.setP i x).done = s.done := by unfold Lane.setP; split <;> rfl
@[simp] theorem setP_remain (s : Lane) (i : BitVec 3) (x : Bool) : (s.setP i x).remain = s.remain := by unfold Lane.setP; split <;> rfl
@[simp] theorem setP_repInt (s : Lane) (i : BitVec 3) (x : Bool) : (s.setP i x).repInt = s.repInt := by unfold Lane.setP; split <;> rfl
@[simp] theorem setP_repCont (s : Lane) (i : BitVec 3) (x : Bool) : (s.setP i x).repCont = s.repCont := by unfold Lane.setP; split <;> rfl
@[simp] theorem setP_repFin (s : Lane) (i : BitVec 3) (x : Bool) : (s.setP i x).repFin = s.repFin := by unfold Lane.setP; split <;> rfl
@[simp] theorem setP_parkRep (s : Lane) (i : BitVec 3) (x : Bool) : (s.setP i x).parkRep = s.parkRep := by unfold Lane.setP; split <;> rfl
@[simp] theorem setP_pend (s : Lane) (i : BitVec 3) (x : Bool) : (s.setP i x).pend = s.pend := by unfold Lane.setP; split <;> rfl
@[simp] theorem setP_part (s : Lane) (i : BitVec 3) (x : Bool) : (s.setP i x).part = s.part := by unfold Lane.setP; split <;> rfl
@[simp] theorem setP_shadow (s : Lane) (i : BitVec 3) (x : Bool) : (s.setP i x).shadow = s.shadow := by unfold Lane.setP; split <;> rfl
@[simp] theorem setP_shPend (s : Lane) (i : BitVec 3) (x : Bool) : (s.setP i x).shPend = s.shPend := by unfold Lane.setP; split <;> rfl
@[simp] theorem setP_shPart (s : Lane) (i : BitVec 3) (x : Bool) : (s.setP i x).shPart = s.shPart := by unfold Lane.setP; split <;> rfl
@[simp] theorem setP_shFix (s : Lane) (i : BitVec 3) (x : Bool) : (s.setP i x).shFix = s.shFix := by unfold Lane.setP; split <;> rfl
@[simp] theorem setP_shFaulty (s : Lane) (i : BitVec 3) (x : Bool) : (s.setP i x).shFaulty = s.shFaulty := by unfold Lane.setP; split <;> rfl
@[simp] theorem setP_shPos (s : Lane) (i : BitVec 3) (x : Bool) : (s.setP i x).shPos = s.shPos := by unfold Lane.setP; split <;> rfl
@[simp] theorem setP_shCont (s : Lane) (i : BitVec 3) (x : Bool) : (s.setP i x).shCont = s.shCont := by unfold Lane.setP; split <;> rfl
@[simp] theorem setP_shFin (s : Lane) (i : BitVec 3) (x : Bool) : (s.setP i x).shFin = s.shFin := by unfold Lane.setP; split <;> rfl
@[simp] theorem setP_inS (s : Lane) (i : BitVec 3) (x : Bool) : (s.setP i x).inS = s.inS := by unfold Lane.setP; split <;> rfl
@[simp] theorem setP_fpstat (s : Lane) (i : BitVec 3) (x : Bool) : (s.setP i x).fpstat = s.fpstat := by unfold Lane.setP; split <;> rfl
@[simp] theorem setP_istat (s : Lane) (i : BitVec 3) (x : Bool) : (s.setP i x).istat = s.istat := by unfold Lane.setP; split <;> rfl
@[simp] theorem setP_temask (s : Lane) (i : BitVec 3) (x : Bool) : (s.setP i x).temask = s.temask := by unfold Lane.setP; split <;> rfl
@[simp] theorem setP_tval (s : Lane) (i : BitVec 3) (x : Bool) : (s.setP i x).tval = s.tval := by unfold Lane.setP; split <;> rfl
@[simp] theorem setP_faulty (s : Lane) (i : BitVec 3) (x : Bool) : (s.setP i x).faulty = s.faulty := by unfold Lane.setP; split <;> rfl
@[simp] theorem setP_fail (s : Lane) (i : BitVec 3) (x : Bool) : (s.setP i x).fail = s.fail := by unfold Lane.setP; split <;> rfl
@[simp] theorem setP_slotSkip (s : Lane) (i : BitVec 3) (x : Bool) : (s.setP i x).slotSkip = s.slotSkip := by unfold Lane.setP; split <;> rfl

@[simp] theorem setV_st (s : Lane) (i : BitVec 5) (x : VWord) : (s.setV i x).st = s.st := rfl
@[simp] theorem setV_g (s : Lane) (i : BitVec 5) (x : VWord) : (s.setV i x).g = s.g := rfl
@[simp] theorem setV_p (s : Lane) (i : BitVec 5) (x : VWord) : (s.setV i x).p = s.p := rfl
@[simp] theorem setV_pos (s : Lane) (i : BitVec 5) (x : VWord) : (s.setV i x).pos = s.pos := rfl
@[simp] theorem setV_crossed (s : Lane) (i : BitVec 5) (x : VWord) : (s.setV i x).crossed = s.crossed := rfl
@[simp] theorem setV_done (s : Lane) (i : BitVec 5) (x : VWord) : (s.setV i x).done = s.done := rfl
@[simp] theorem setV_remain (s : Lane) (i : BitVec 5) (x : VWord) : (s.setV i x).remain = s.remain := rfl
@[simp] theorem setV_repInt (s : Lane) (i : BitVec 5) (x : VWord) : (s.setV i x).repInt = s.repInt := rfl
@[simp] theorem setV_repCont (s : Lane) (i : BitVec 5) (x : VWord) : (s.setV i x).repCont = s.repCont := rfl
@[simp] theorem setV_repFin (s : Lane) (i : BitVec 5) (x : VWord) : (s.setV i x).repFin = s.repFin := rfl
@[simp] theorem setV_parkRep (s : Lane) (i : BitVec 5) (x : VWord) : (s.setV i x).parkRep = s.parkRep := rfl
@[simp] theorem setV_pend (s : Lane) (i : BitVec 5) (x : VWord) : (s.setV i x).pend = s.pend := rfl
@[simp] theorem setV_part (s : Lane) (i : BitVec 5) (x : VWord) : (s.setV i x).part = s.part := rfl
@[simp] theorem setV_shadow (s : Lane) (i : BitVec 5) (x : VWord) : (s.setV i x).shadow = s.shadow := rfl
@[simp] theorem setV_shPend (s : Lane) (i : BitVec 5) (x : VWord) : (s.setV i x).shPend = s.shPend := rfl
@[simp] theorem setV_shPart (s : Lane) (i : BitVec 5) (x : VWord) : (s.setV i x).shPart = s.shPart := rfl
@[simp] theorem setV_shFix (s : Lane) (i : BitVec 5) (x : VWord) : (s.setV i x).shFix = s.shFix := rfl
@[simp] theorem setV_shFaulty (s : Lane) (i : BitVec 5) (x : VWord) : (s.setV i x).shFaulty = s.shFaulty := rfl
@[simp] theorem setV_shPos (s : Lane) (i : BitVec 5) (x : VWord) : (s.setV i x).shPos = s.shPos := rfl
@[simp] theorem setV_shCont (s : Lane) (i : BitVec 5) (x : VWord) : (s.setV i x).shCont = s.shCont := rfl
@[simp] theorem setV_shFin (s : Lane) (i : BitVec 5) (x : VWord) : (s.setV i x).shFin = s.shFin := rfl
@[simp] theorem setV_inS (s : Lane) (i : BitVec 5) (x : VWord) : (s.setV i x).inS = s.inS := rfl
@[simp] theorem setV_fpstat (s : Lane) (i : BitVec 5) (x : VWord) : (s.setV i x).fpstat = s.fpstat := rfl
@[simp] theorem setV_istat (s : Lane) (i : BitVec 5) (x : VWord) : (s.setV i x).istat = s.istat := rfl
@[simp] theorem setV_temask (s : Lane) (i : BitVec 5) (x : VWord) : (s.setV i x).temask = s.temask := rfl
@[simp] theorem setV_tval (s : Lane) (i : BitVec 5) (x : VWord) : (s.setV i x).tval = s.tval := rfl
@[simp] theorem setV_fail (s : Lane) (i : BitVec 5) (x : VWord) : (s.setV i x).fail = s.fail := rfl
@[simp] theorem setV_slotSkip (s : Lane) (i : BitVec 5) (x : VWord) : (s.setV i x).slotSkip = s.slotSkip := rfl

/-! Writes of words and records. -/

theorem writeWords_same (s : State) (k : Nat) (w : List Word) : writeWords s k w = { s with mem := (writeWords s k w).mem } := by
  induction w generalizing s k with
  | nil => rfl
  | cons a w ih => rw [writeWords, ih]; rfl

@[simp] theorem writeWords_fl (s : State) (k : Nat) (w : List Word) : (writeWords s k w).fl = s.fl := by rw [writeWords_same]
@[simp] theorem writeWords_flights (s : State) (k : Nat) (w : List Word) : (writeWords s k w).flights = s.flights := by
  rw [writeWords_same]
@[simp] theorem writeWords_lines (s : State) (k : Nat) (w : List Word) : (writeWords s k w).lines = s.lines := by
  rw [writeWords_same]

@[simp] theorem hubWrite_fl (s : State) (a : Nat) (w : List Word) : (hubWrite s a w).fl = s.fl := by
  unfold hubWrite; split <;> simp
@[simp] theorem hubWrite_flights (s : State) (a : Nat) (w : List Word) : (hubWrite s a w).flights = s.flights := by
  unfold hubWrite; split <;> simp
@[simp] theorem hubWrite_lines (s : State) (a : Nat) (w : List Word) : (hubWrite s a w).lines = s.lines := by
  unfold hubWrite; split <;> simp

@[simp] theorem pushEvent_fl (s : State) (r : List Word) : (pushEvent s r).fl = s.fl := by
  unfold pushEvent; split <;> simp
@[simp] theorem pushEvent_flights (s : State) (r : List Word) : (pushEvent s r).flights = s.flights := by
  unfold pushEvent; split <;> simp
@[simp] theorem pushEvent_lines (s : State) (r : List Word) : (pushEvent s r).lines = s.lines := by
  unfold pushEvent; split <;> simp

end Sys2Proof.Machine
end

