-- ==== Sys2Proof/Laws/Words.lean ====
section
/-! SUPPORT. What the end of a word leaves behind when no lane traps or parks. -/

namespace Sys2Proof.Machine

/-- No lane of a vector of outcomes traps or parks. -/
def AllDone (o : Vector LaneOut 32) : Prop := ∀ k, o.get k = .idle ∨ ∃ l x n, o.get k = .done l x n

theorem AllDone.traps {o : Vector LaneOut 32} (h : AllDone o) : trapsOf o = [] := by
  unfold trapsOf
  rw [List.filterMap_eq_nil_iff]
  intro k _
  rcases h k with hk | ⟨l, x, n, hk⟩ <;> simp [hk]

theorem AllDone.parked {o : Vector LaneOut 32} (h : AllDone o) : parkedOf o = 0#32 := by
  unfold parkedOf
  rw [laneSetOf_eq_zero]
  intro k
  rcases h k with hk | ⟨l, x, n, hk⟩ <;> simp [hk]

/-- The end of a word that completes in every lane that it executes in, outside a repetition (R22). -/
theorem finish_word {s : State} {e adv slot : Bool} {o : Vector LaneOut 32} {set : LaneSet} (ho : AllDone o)
    (hr : s.fl.run = some ⟨set, none⟩) :
    finish s e adv slot o = { s with fl := wordDone (advance s.fl adv o) set e o } := by
  simp [finish, hr, ho.traps, ho.parked]

/-- The end of a repeat that completes in every lane that it executes in (R27, R29). -/
theorem finish_repeat {s : State} {e adv slot : Bool} {o : Vector LaneOut 32} {set : LaneSet} {rp : RepRun} (ho : AllDone o)
    (hr : s.fl.run = some ⟨set, some rp⟩) :
    finish s e adv slot o = { s with fl := repeatDone (advance s.fl adv o) set rp e (fun k => repTakes s k) o } := by
  simp [finish, hr, ho.traps, ho.parked]

@[simp] theorem regs_goTo (l : Lane) (n : Option Pc) : (l.goTo n).regs = l.regs := by cases n <;> rfl
@[simp] theorem regs_shiftLat (l : Lane) (x : Option LatchVal) : (l.shiftLat x).regs = l.regs := rfl
@[simp] theorem regs_staleLat (l : Lane) : l.staleLat.regs = l.regs := rfl
@[simp] theorem regs_endRep (l : Lane) : l.endRep.regs = l.regs := rfl
@[simp] theorem regs_countRepeat (l : Lane) (x : Option LatchVal) : (l.countRepeat x).regs = l.regs := rfl

@[simp] theorem regs_endWord (l : Lane) (x : Option LatchVal) (n : Option Pc) (p : Nat) (b : Bool) :
    (endWord l x n p b).regs = l.regs := by
  cases b
  · exact (regs_goTo _ n).trans (regs_shiftLat l x)
  · exact (regs_goTo _ n).trans (regs_staleLat l)

@[simp] theorem regs_quitRep (l : Lane) (b : Bool) : (l.quitRep b).regs = l.regs := by cases b <;> rfl

@[simp] theorem regs_leaveRep (l : Lane) (n : Bool) (p : Nat) (b : Bool) : (leaveRep l n p b).regs = l.regs := by
  unfold leaveRep; rw [regs_quitRep, regs_endWord]; rfl

@[simp] theorem goTo_lat (l : Lane) (n : Option Pc) : (l.goTo n).lat = l.lat := by cases n <;> rfl

theorem endWord_pc (l : Lane) (x : Option LatchVal) (n : Option Pc) (p : Nat) (b : Bool) :
    (endWord l x n p b).pc = n.getD (l.pc + 8) := by
  cases b <;> cases n <;> rfl

theorem endWord_lat (l : Lane) (x : Option LatchVal) (n : Option Pc) (p : Nat) (b : Bool) :
    (endWord l x n p b).lat = if b then .stale else l.lat.shift x := by
  cases b
  · exact goTo_lat _ n
  · exact goTo_lat _ n

theorem advance_lane (f : Flight) (adv : Bool) (o : Vector LaneOut 32) (k : LaneId) : (advance f adv o).lane k = f.lane k := by
  unfold advance; split <;> rfl

theorem runPos_congr {f g : Flight} (h : ∀ k, (f.lane k).pos = (g.lane k).pos) (set : LaneSet) : runPos f set = runPos g set := by
  unfold runPos; simp only [h]

/-- The run is at its last word (R20). -/
def lastWord (f : Flight) (set : LaneSet) (e : Bool) : Bool := e || decide (runPos f set + 1 ≥ 24)

theorem wordDone_lane (f : Flight) (set : LaneSet) (e : Bool) (o : Vector LaneOut 32) (k : LaneId) :
    (wordDone f set e o).lane k =
      if set.has k then
        match o.get k with
        | .done l1 x n => endWord l1 x n (runPos f set) (lastWord f set e)
        | _ => endWord (f.lane k) none none (runPos f set) (lastWord f set e)
      else f.lane k := by
  exact Flight.mapLanes_lane f _ k

/-- A lane after a repeat (R27, R29). -/
theorem repeatDone_lane (f : Flight) (set : LaneSet) (rp : RepRun) (e : Bool) (takes : LaneId → Bool)
    (o : Vector LaneOut 32) (k : LaneId) (hk : set.has k = true) :
    (repeatDone f set rp e takes o).lane k =
      if rp.i + 1 < rp.last then afterRepeat (f.lane k) (takes k) (o.get k)
      else leaveRep (afterRepeat (f.lane k) (takes k) (o.get k)) (rp.lanes.has k) (runPos f set) (lastWord f set e) := by
  simp only [repeatDone, Flight.mapLanes, Flight.lane, lastWord]
  split <;> simp [hk]

theorem repeatDone_run (f : Flight) (set : LaneSet) (rp : RepRun) (e : Bool) (takes : LaneId → Bool)
    (o : Vector LaneOut 32) :
    (repeatDone f set rp e takes o).run =
      if rp.i + 1 < rp.last then some ⟨set, some { rp with i := rp.i + 1 }⟩
      else if lastWord f set e then none else some ⟨set, none⟩ := by
  unfold repeatDone lastWord
  split <;> rfl

theorem quitRep_pc (l : Lane) (b : Bool) : (l.quitRep b).pc = l.pc := by cases b <;> rfl
theorem quitRep_lat (l : Lane) (b : Bool) : (l.quitRep b).lat = l.lat := by cases b <;> rfl

/-- The lane that leaves a repetition, apart from its registers (R27, R29). -/
theorem leaveRep_out (l : Lane) (n : Bool) (p : Nat) (b : Bool) :
    (leaveRep l n p b).pc = l.pc + 16 ∧ (leaveRep l n p b).lat = (if b then .stale else l.lat.shift l.pend) ∧
    (n = true → (leaveRep l n p b).done = 0 ∧ (leaveRep l n p b).remain = 0 ∧ (leaveRep l n p b).repcnt = 0) ∧
    (n = false → (leaveRep l n p b).done = l.done ∧ (leaveRep l n p b).remain = l.remain ∧
      (leaveRep l n p b).repcnt = l.repcnt) := by
  unfold leaveRep
  refine ⟨?_, ?_, fun h => ?_, fun h => ?_⟩
  · rw [quitRep_pc, endWord_pc]; show l.pc + 8 + 8 = _; rw [BitVec.add_assoc]; rfl
  · rw [quitRep_lat, endWord_lat]
  · subst h; exact ⟨rfl, rfl, rfl⟩
  · subst h; cases b <;> exact ⟨rfl, rfl, rfl⟩

/-- What a repeat that acts in the lanes of Active leaves of the progress of its repetition (R27, R29). -/
theorem repeatDone_counts {s t : State} {h : Hdr} {f : Flight} {set : LaneSet} {rp : RepRun} {o : Vector LaneOut 32}
    {takes : LaneId → Bool} {e : LaneId → Lane} {x : LaneId → Option LatchVal} {n : LaneId → Option Pc}
    (hs : s.fl.run = some ⟨set, some rp⟩) (hf : ∀ k, f.lane k = s.fl.lane k)
    (ht : ∀ k, takes k = repTakes s k)
    (hg : t.fl = repeatDone f set rp h.e takes o)
    (hact : ∀ k, Acts s h k → o.get k = .done (e k) (x k) (n k)) (hidle : ∀ k, ¬Acts s h k → o.get k = .idle)
    (hlat : ∀ k, Acts s h k → (e k).lat = (s.fl.lane k).lat) (hpc : ∀ k, Acts s h k → (e k).pc = (s.fl.lane k).pc) :
    CountsRepeat s t h rp e x := by
  have hset : issuing s = set := by simp [issuing, hs]
  have hrep : repeating s = some rp := by simp [repeating, hs]
  have htk : ∀ k, takes k = true ↔ rp.lanes.has k = true ∧ (s.fl.lane k).done.toNat ≤ rp.i ∧
      rp.i < (s.fl.lane k).done.toNat + (s.fl.lane k).remain.toNat := fun k => by
    rw [ht]; simp [repTakes, hrep, Lane.inRepeat]
  have hlast : lastWord f set h.e = true ↔ EndsRun s h := by
    unfold lastWord; rw [runPos_congr (g := s.fl) (fun k => by rw [hf])]; simp [EndsRun, hset]
  have hat : ∀ k, Acts s h k → takes k = true := fun k hk => by
    rw [ht]; simp only [Acts, isActive, Bool.and_eq_true] at hk; exact hk.1.2
  -- the lane after the repeat
  have hA : ∀ k, ∃ l1, afterRepeat (f.lane k) (takes k) (o.get k) = l1 ∧ l1.pc = (s.fl.lane k).pc ∧ l1.lat = (s.fl.lane k).lat ∧
      l1.pend = (if isActive s h k then x k else (s.fl.lane k).pend) ∧
      (takes k = true → l1.done = (if isActive s h k then e k else s.fl.lane k).done + 1 ∧
        l1.remain = (if isActive s h k then e k else s.fl.lane k).remain - 1) ∧
      (takes k ≠ true → l1 = s.fl.lane k) := fun k => by
    refine ⟨_, rfl, ?_⟩
    by_cases ha : Acts s h k
    · rw [hact k ha, hf]
      rw [if_pos (show isActive s h k = true from ha), if_pos (show isActive s h k = true from ha)]
      exact ⟨hpc k ha, hlat k ha, rfl, fun _ => ⟨rfl, rfl⟩, fun h => absurd (hat k ha) h⟩
    · rw [hidle k ha, hf]
      have : isActive s h k = false := by simpa [Acts] using ha
      rw [this]
      simp only [afterRepeat]
      cases h1 : takes k
      · exact ⟨rfl, rfl, rfl, fun h => (by cases h), fun _ => rfl⟩
      · exact ⟨rfl, rfl, rfl, fun _ => ⟨rfl, rfl⟩, fun h => absurd rfl h⟩
  intro k hk
  rw [hset] at hk
  obtain ⟨l1, h1, h2, h3, h4, h5, h6⟩ := hA k
  have hlane := repeatDone_lane f set rp h.e takes o k hk
  rw [h1] at hlane
  have hrun := repeatDone_run f set rp h.e takes o
  rw [← hg] at hrun
  have htl : t.fl.lane k = (repeatDone f set rp h.e takes o).lane k := by rw [hg]
  rw [hlane] at htl
  obtain ⟨o1, o2, o3, o4⟩ := leaveRep_out l1 (rp.lanes.has k) (runPos f set) (lastWord f set h.e)
  refine ⟨fun hi => ?_, fun hi => ?_⟩
  · rw [if_pos hi] at htl hrun
    rw [hrun, htl, hset]
    refine ⟨rfl, h2, h3, h4, fun hp => h5 ((htk k).2 hp), fun hp => ?_⟩
    have h7 := h6 (mt (htk k).1 hp)
    have ha : isActive s h k ≠ true := fun ha => hp ((htk k).1 (hat k ha))
    rw [if_neg ha, h7]; exact ⟨rfl, rfl⟩
  · rw [if_neg (Nat.not_lt.2 hi)] at htl hrun
    rw [hrun, htl, hset]
    refine ⟨o1.trans (by rw [h2]), o3, fun hn => ?_, fun hE => ⟨?_, ?_⟩, fun hE => ⟨?_, ?_⟩⟩
    · have h7 : takes k ≠ true := fun hp => by rw [htk, hn] at hp; cases hp.1
      rw [← h6 h7]; exact o4 hn
    · rw [if_pos (hlast.2 hE)]
    · rw [o2, if_pos (hlast.2 hE)]
    · rw [if_neg (mt hlast.1 hE)]
    · rw [o2, if_neg (mt hlast.1 hE), h3, h4]

theorem repeatDone_regs (f : Flight) (set : LaneSet) (rp : RepRun) (e : Bool) (takes : LaneId → Bool)
    (o : Vector LaneOut 32) (k : LaneId) :
    ((repeatDone f set rp e takes o).lane k).regs =
      if set.has k then (afterRepeat (f.lane k) (takes k) (o.get k)).regs else (f.lane k).regs := by
  simp only [repeatDone, Flight.mapLanes, Flight.lane]
  by_cases hk : set.has k = true <;> split <;> simp [hk]

theorem repeatDone_outside (f : Flight) (set : LaneSet) (rp : RepRun) (e : Bool) (takes : LaneId → Bool)
    (o : Vector LaneOut 32) (k : LaneId) (hk : set.has k = false) : (repeatDone f set rp e takes o).lane k = f.lane k := by
  simp only [repeatDone, Flight.mapLanes, Flight.lane]
  split <;> simp [hk]

theorem repeatDone_same (f : Flight) (set : LaneSet) (rp : RepRun) (e : Bool) (takes : LaneId → Bool)
    (o : Vector LaneOut 32) :
    repeatDone f set rp e takes o =
      { f with lanes := (repeatDone f set rp e takes o).lanes, run := (repeatDone f set rp e takes o).run } := by
  simp only [repeatDone, Flight.mapLanes]
  split <;> rfl

/-- DPHASE after a word (R106). -/
theorem advance_dphase (f : Flight) (adv : Bool) (o : Vector LaneOut 32) :
    (advance f adv o).dphase = if adv = true ∧ doneOf o ≠ 0#32 then f.dphase + 1 else f.dphase := by
  unfold advance
  by_cases ha : adv = true <;> by_cases hd : doneOf o = 0#32 <;> simp [ha, hd]

theorem advance_same (f : Flight) (adv : Bool) (o : Vector LaneOut 32) :
    advance f adv o = { f with dphase := (advance f adv o).dphase } := by
  unfold advance; split <;> rfl

/-- What a word leaves behind from outcomes that trap and park nowhere, for the state in which only RFLAT may differ
already. -/
theorem finish_afterWord {s : State} {h : Hdr} {adv slot : Bool} {o : Vector LaneOut 32} {e : LaneId → Lane}
    {x : LaneId → Option LatchVal} {n : LaneId → Option Pc} {r : Word} (hrun : s.fl.run ≠ none)
    (hact : ∀ k, Acts s h k → o.get k = .done (e k) (x k) (n k)) (hidle : ∀ k, ¬Acts s h k → o.get k = .idle)
    (hlat : ∀ k, Acts s h k → (e k).lat = (s.fl.lane k).lat) (hpc : ∀ k, Acts s h k → (e k).pc = (s.fl.lane k).pc)
    (hr : (∀ k, (s.fl.lane k).faulty = []) → r = s.fl.rflat) :
    AfterWord s (finish { s with fl := { s.fl with rflat := r } } h.e adv slot o) h adv e x
      fun k => (n k).getD ((s.fl.lane k).pc + 8) := by
  have hd : AllDone o := fun k => by
    by_cases hk : Acts s h k
    · exact .inr ⟨_, _, _, hact k hk⟩
    · exact .inl (hidle k hk)
  have hact1 : ∀ k, Acts s h k → (issuing s).has k = true := by
    intro k hk
    simp only [Acts, isActive, Bool.and_eq_true] at hk
    exact hk.1.1
  have hdone : (doneOf o ≠ 0#32) ↔ ∃ k, Acts s h k := by
    unfold doneOf
    rw [Ne, laneSetOf_eq_zero, not_forall]
    constructor
    · rintro ⟨k, hk⟩
      by_cases ha : Acts s h k
      · exact ⟨k, ha⟩
      · rw [hidle k ha] at hk; exact absurd rfl hk
    · rintro ⟨k, hk⟩
      exact ⟨k, by rw [hact k hk]; simp⟩
  obtain ⟨f, hf⟩ : ∃ f, f = advance { s.fl with rflat := r } adv o := ⟨_, rfl⟩
  have hfl : ∀ k, f.lane k = s.fl.lane k := fun k => by rw [hf, advance_lane]; rfl
  have hfr : f.rflat = r := by rw [hf, advance_same]
  have hfd : f.dphase = if adv = true ∧ doneOf o ≠ 0#32 then s.fl.dphase + 1 else s.fl.dphase := by
    rw [hf, advance_dphase]
  have hfs : f = { s.fl with rflat := f.rflat, dphase := f.dphase } := by rw [hf, advance_same]
  have hfrun : f.run = s.fl.run := by rw [hfs]
  rcases hs : s.fl.run with _ | ⟨set, _ | rp⟩
  · exact absurd hs hrun
  · have hset : issuing s = set := by simp [issuing, hs]
    have hin : ∀ k, Acts s h k → set.has k = true := fun k hk => hset ▸ hact1 k hk
    obtain ⟨g, hg⟩ : ∃ g, g = wordDone f set h.e o := ⟨_, rfl⟩
    have ht : finish { s with fl := { s.fl with rflat := r } } h.e adv slot o = { s with fl := g } := by
      rw [hg, hf]; exact finish_word hd hs
    have hlast : lastWord s.fl set h.e = true ↔ EndsRun s h := by simp [lastWord, EndsRun, hset]
    have hlf : lastWord f set h.e = lastWord s.fl set h.e := by
      unfold lastWord; rw [runPos_congr (g := s.fl) (fun k => by rw [hfl])]
    have hp : runPos f set = runPos s.fl set := runPos_congr (fun k => by rw [hfl]) _
    have hl1 : ∀ k, Acts s h k → g.lane k = endWord (e k) (x k) (n k) (runPos s.fl set) (lastWord s.fl set h.e) :=
      fun k hk => by rw [hg, wordDone_lane, hact k hk, if_pos (hin k hk), hlf, hp]
    have hl2 : ∀ k, set.has k = true → ¬Acts s h k →
        g.lane k = endWord (s.fl.lane k) none none (runPos s.fl set) (lastWord s.fl set h.e) :=
      fun k hi hk => by rw [hg, wordDone_lane, hidle k hk, if_pos hi, hlf, hp, hfl]
    have hl3 : ∀ k, set.has k = false → g.lane k = s.fl.lane k := fun k hi => by
      rw [hg, wordDone_lane, hfl]; simp [hi]
    have hgs : g = { f with lanes := g.lanes, run := g.run } := by rw [hg]; rfl
    have hgrun : g.run = if lastWord s.fl set h.e then none else s.fl.run := by
      rw [← hfrun, ← hlf, hg]; rfl
    rw [ht]
    refine ⟨⟨?_, fun _ => rfl⟩, ?_, ?_, ?_, ?_, ?_, ?_, fun _ hq => by simp [repeating, hs] at hq, ?_⟩
    · rw [hgs, hfs]
    · exact fun k hk => (congrArg Lane.regs (hl1 k hk)).trans (regs_endWord ..)
    · intro k hk
      by_cases hi : set.has k = true
      · exact (congrArg Lane.regs (hl2 k hi hk)).trans (regs_endWord ..)
      · exact congrArg Lane.regs (hl3 k (by simpa using hi))
    · exact fun k hk => hl3 k (hset ▸ hk)
    · intro hq
      have : g.rflat = f.rflat := by rw [hgs]
      exact (this.trans hfr).trans (hr hq)
    · intro hk
      have : g.dphase = f.dphase := by rw [hgs]
      rw [← hdone] at hk
      exact (this.trans hfd).trans (if_pos hk)
    · intro hk
      have : g.dphase = f.dphase := by rw [hgs]
      rw [← hdone] at hk
      exact (this.trans hfd).trans (if_neg hk)
    · intro _ k hk
      rw [hset] at hk
      refine ⟨fun ha => ?_, fun ha => ?_, fun hE => ⟨?_, ?_⟩, fun hE => ⟨?_, fun ha => ?_, fun ha => ?_⟩⟩
      · exact (congrArg Lane.pc (hl1 k ha)).trans (by rw [endWord_pc, hpc k ha])
      · exact (congrArg Lane.pc (hl2 k hk ha)).trans (by rw [endWord_pc]; rfl)
      · rw [show ({ s with fl := g } : State).fl.run = g.run from rfl, hgrun, if_pos (hlast.2 hE)]
      · by_cases ha : Acts s h k
        · exact (congrArg Lane.lat (hl1 k ha)).trans (by rw [endWord_lat, if_pos (hlast.2 hE)])
        · exact (congrArg Lane.lat (hl2 k hk ha)).trans (by rw [endWord_lat, if_pos (hlast.2 hE)])
      · rw [show ({ s with fl := g } : State).fl.run = g.run from rfl, hgrun, if_neg (mt hlast.1 hE)]
      · exact (congrArg Lane.lat (hl1 k ha)).trans (by rw [endWord_lat, if_neg (mt hlast.1 hE), hlat k ha])
      · exact (congrArg Lane.lat (hl2 k hk ha)).trans (by rw [endWord_lat, if_neg (mt hlast.1 hE)])
  · have hset : issuing s = set := by simp [issuing, hs]
    have hrep : repeating s = some rp := by simp [repeating, hs]
    have hin : ∀ k, Acts s h k → set.has k = true := fun k hk => hset ▸ hact1 k hk
    obtain ⟨g, hg⟩ : ∃ g, g = repeatDone f set rp h.e (fun k => repTakes { s with fl := { s.fl with rflat := r } } k) o :=
      ⟨_, rfl⟩
    have ht : finish { s with fl := { s.fl with rflat := r } } h.e adv slot o = { s with fl := g } := by
      rw [hg, hf]; exact finish_repeat hd hs
    have hgs : g = { f with lanes := g.lanes, run := g.run } := by rw [hg]; exact repeatDone_same ..
    have hl1 : ∀ k, Acts s h k → (g.lane k).regs = (e k).regs := fun k hk => by
      rw [hg, repeatDone_regs, if_pos (hin k hk), hact k hk]; rfl
    have hl2 : ∀ k, ¬Acts s h k → (g.lane k).regs = (s.fl.lane k).regs := fun k hk => by
      rw [hg, repeatDone_regs, hidle k hk, hfl]
      simp only [afterRepeat]
      cases repTakes _ _ <;> cases set.has k <;> rfl
    have hl3 : ∀ k, set.has k = false → g.lane k = s.fl.lane k := fun k hi => by
      rw [hg, repeatDone_outside _ _ _ _ _ _ _ hi, hfl]
    rw [ht]
    refine ⟨⟨?_, fun _ => rfl⟩, hl1, hl2, ?_, ?_, ?_, ?_, fun q hq => ?_, ?_⟩
    · rw [hgs, hfs]
    · exact fun k hk => hl3 k (hset ▸ hk)
    · intro hq
      have : g.rflat = f.rflat := by rw [hgs]
      exact (this.trans hfr).trans (hr hq)
    · intro hk
      have : g.dphase = f.dphase := by rw [hgs]
      rw [← hdone] at hk
      exact (this.trans hfd).trans (if_pos hk)
    · intro hk
      have : g.dphase = f.dphase := by rw [hgs]
      rw [← hdone] at hk
      exact (this.trans hfd).trans (if_neg hk)
    · rw [hrep] at hq; cases hq
      exact repeatDone_counts (o := o) hs hfl (fun _ => rfl) hg hact hidle hlat hpc
    · intro hn; rw [hrep] at hn; cases hn

theorem logUnreadBy_clean {s : State} {all : List Src} {reads : LaneId → Lane → Src → BitVec 3 → Bool}
    (h : ∀ k, (s.fl.lane k).faulty = []) : logUnreadBy s all reads = s.fl.rflat := by
  unfold logUnreadBy
  generalize allLanes = ks
  generalize s.fl.rflat = r
  induction ks with
  | nil => rfl
  | cons k ks ih => simp [h] at ih ⊢

theorem laneOut_acts {s : State} {h : Hdr} {f : LaneId → Lane → LaneOut} {k : LaneId} (hc : Clear s h) (hk : Acts s h k) :
    laneOut s h f k = f k (s.fl.lane k) := by
  have := hc.2 k hk
  unfold laneOut
  simp only [show isActive s h k = true from hk, if_true, this.1, this.2]

theorem laneOut_idle {s : State} {h : Hdr} {f : LaneId → Lane → LaneOut} {k : LaneId} (hk : ¬Acts s h k) :
    laneOut s h f k = .idle := by
  unfold laneOut
  simp [show isActive s h k = false by simpa [Acts] using hk]

/-- What a word computed lane by lane leaves behind when it completes in every lane of Active. -/
theorem perLaneReads_afterWord {s : State} {h : Hdr} {srcs : List Src} {reads : Lane → Src → BitVec 3 → Bool}
    {f : LaneId → Lane → LaneOut} {e : LaneId → Lane} {x : LaneId → Option LatchVal} {n : LaneId → Option Pc}
    (hc : Clear s h) (hf : ∀ k, Acts s h k → f k (s.fl.lane k) = .done (e k) (x k) (n k))
    (hlat : ∀ k, Acts s h k → (e k).lat = (s.fl.lane k).lat) (hpc : ∀ k, Acts s h k → (e k).pc = (s.fl.lane k).pc) :
    AfterWord s (perLaneReads s h srcs reads f) h false e x fun k => (n k).getD ((s.fl.lane k).pc + 8) :=
  finish_afterWord hc.1 (fun k hk => by rw [laneOuts_get, laneOut_acts hc hk, hf k hk])
    (fun k hk => by rw [laneOuts_get, laneOut_idle hk]) hlat hpc fun hq => logUnreadBy_clean hq

@[simp] theorem setG_lat (l : Lane) (i : BitVec 6) (x : Word) : (l.setG i x).lat = l.lat := by
  unfold Lane.setG; split <;> rfl
@[simp] theorem setG_pc (l : Lane) (i : BitVec 6) (x : Word) : (l.setG i x).pc = l.pc := by
  unfold Lane.setG; split <;> rfl

@[simp] theorem setP_lat (l : Lane) (i : BitVec 3) (x : Bool) : (l.setP i x).lat = l.lat := by
  unfold Lane.setP; split <;> rfl
@[simp] theorem setP_pc (l : Lane) (i : BitVec 3) (x : Bool) : (l.setP i x).pc = l.pc := by
  unfold Lane.setP; split <;> rfl
@[simp] theorem setV_lat (l : Lane) (i : BitVec 5) (x : VWord) : (l.setV i x).lat = l.lat := rfl
@[simp] theorem setV_pc (l : Lane) (i : BitVec 5) (x : VWord) : (l.setV i x).pc = l.pc := rfl
@[simp] theorem withI_lat (l : Lane) (x : BitVec 3) : (l.withI x).lat = l.lat := rfl
@[simp] theorem withI_pc (l : Lane) (x : BitVec 3) : (l.withI x).pc = l.pc := rfl

/-- A word whose every lane of Active completes, and that goes to the word after it. -/
theorem perLane_completes {i : Instr} {s : State} {h : Hdr} {srcs : List Src} {reads : Lane → Src → BitVec 3 → Bool}
    {f : LaneId → Lane → LaneOut} {e : LaneId → Lane} {x : LaneId → Option LatchVal} (hc : Clear s h)
    (hi : exec i s = .next (perLaneReads s h srcs reads f))
    (hf : ∀ k, Acts s h k → f k (s.fl.lane k) = .done (e k) (x k) none)
    (hlat : ∀ k, Acts s h k → (e k).lat = (s.fl.lane k).lat) (hpc : ∀ k, Acts s h k → (e k).pc = (s.fl.lane k).pc) :
    Completes i s h false e x :=
  ⟨_, hi, perLaneReads_afterWord (n := fun _ => none) hc hf hlat hpc⟩

/-- A word whose every lane of Active returns a general result, with flags, gives it (R22, R24). -/
theorem perLane_givesFrom {i : Instr} {s : State} {h : Hdr} {d : Dst} {v : LaneId → Word} {base : LaneId → Lane}
    {srcs : List Src} {reads : Lane → Src → BitVec 3 → Bool} {f : LaneId → Lane → LaneOut} (hc : Clear s h)
    (hi : exec i s = .next (perLaneReads s h srcs reads f))
    (hf : ∀ k, Acts s h k → f k (s.fl.lane k) = retG (base k) d h.w (v k))
    (hl : ∀ k, (base k).lat = (s.fl.lane k).lat) (hp : ∀ k, (base k).pc = (s.fl.lane k).pc) :
    GivesFrom i s h false d base v :=
  perLane_completes hc hi hf (fun k _ => by split <;> simp [hl]) (fun k _ => by split <;> simp [hp])

/-- As `perLane_givesFrom`, with a predicate result. -/
theorem perLane_givesFromP {i : Instr} {s : State} {h : Hdr} {d : Dst} {v : LaneId → Bool} {base : LaneId → Lane}
    {srcs : List Src} {reads : Lane → Src → BitVec 3 → Bool} {f : LaneId → Lane → LaneOut} (hc : Clear s h)
    (hi : exec i s = .next (perLaneReads s h srcs reads f))
    (hf : ∀ k, Acts s h k → f k (s.fl.lane k) = retP (base k) d h.w (v k))
    (hl : ∀ k, (base k).lat = (s.fl.lane k).lat) (hp : ∀ k, (base k).pc = (s.fl.lane k).pc) :
    GivesFromP i s h false d base v :=
  perLane_completes hc hi hf (fun k _ => by split <;> simp [hl]) (fun k _ => by split <;> simp [hp])

/-- As `perLane_givesFrom`, with a vector result. -/
theorem perLane_givesFromV {i : Instr} {s : State} {h : Hdr} {d : Dst} {v : LaneId → VWord} {base : LaneId → Lane}
    {srcs : List Src} {reads : Lane → Src → BitVec 3 → Bool} {f : LaneId → Lane → LaneOut} (hc : Clear s h)
    (hi : exec i s = .next (perLaneReads s h srcs reads f))
    (hf : ∀ k, Acts s h k → f k (s.fl.lane k) = retV (base k) d h.w (v k))
    (hl : ∀ k, (base k).lat = (s.fl.lane k).lat) (hp : ∀ k, (base k).pc = (s.fl.lane k).pc) :
    GivesFromV i s h false d base v :=
  perLane_completes hc hi hf (fun k _ => by split <;> simp [hl]) (fun k _ => by split <;> simp [hp])

/-- A word whose every lane of Active returns a general result gives it (R22, R24). -/
theorem perLane_givesG {i : Instr} {s : State} {h : Hdr} {d : Dst} {v : LaneId → Word} {srcs : List Src}
    {reads : Lane → Src → BitVec 3 → Bool} {f : LaneId → Lane → LaneOut} (hc : Clear s h)
    (hi : exec i s = .next (perLaneReads s h srcs reads f))
    (hf : ∀ k, Acts s h k → f k (s.fl.lane k) = retG (s.fl.lane k) d h.w (v k)) : GivesG i s h d v :=
  perLane_givesFrom hc hi hf (fun _ => rfl) fun _ => rfl

/-- A word whose every lane of Active returns a predicate gives it (R22, R24). -/
theorem perLane_givesP {i : Instr} {s : State} {h : Hdr} {d : Dst} {v : LaneId → Bool} {srcs : List Src}
    {reads : Lane → Src → BitVec 3 → Bool} {f : LaneId → Lane → LaneOut} (hc : Clear s h)
    (hi : exec i s = .next (perLaneReads s h srcs reads f))
    (hf : ∀ k, Acts s h k → f k (s.fl.lane k) = retP (s.fl.lane k) d h.w (v k)) : GivesP i s h d v :=
  perLane_givesFromP hc hi hf (fun _ => rfl) fun _ => rfl

/-- A word whose every lane of Active returns a vector gives it (R22, R24). -/
theorem perLane_givesV {i : Instr} {s : State} {h : Hdr} {d : Dst} {v : LaneId → VWord} {srcs : List Src}
    {reads : Lane → Src → BitVec 3 → Bool} {f : LaneId → Lane → LaneOut} (hc : Clear s h)
    (hi : exec i s = .next (perLaneReads s h srcs reads f))
    (hf : ∀ k, Acts s h k → f k (s.fl.lane k) = retV (s.fl.lane k) d h.w (v k)) : GivesV i s h d v :=
  perLane_givesFromV hc hi hf (fun _ => rfl) fun _ => rfl

/-- A word of one general source (R62). -/
theorem scalar1_givesG {i : Instr} {s : State} {h : Hdr} {o : OpsA} {f : Word → Word} {a : LaneId → Word}
    (hi : exec i s = .next (scalar1 s h o f)) (hc : Clear s h) (ha : ReadsG s h o.sa a) :
    GivesG i s h o.dst fun k => f (a k) :=
  perLane_givesG hc hi fun k hk => by simp only [ha k hk]; rfl

/-- A word of two general sources (R62). -/
theorem scalar2_givesG {i : Instr} {s : State} {h : Hdr} {o : OpsA} {f : Word → Word → Word} {a b : LaneId → Word}
    (hi : exec i s = .next (scalar2 s h o f)) (hc : Clear s h) (ha : ReadsG s h o.sa a) (hb : ReadsG s h o.sb b) :
    GivesG i s h o.dst fun k => f (a k) (b k) :=
  perLane_givesG hc hi fun k hk => by simp only [ha k hk, hb k hk]; rfl

/-- A word of three general sources (R62). -/
theorem scalar3_givesG {i : Instr} {s : State} {h : Hdr} {o : OpsA} {f : Word → Word → Word → Word} {a b c : LaneId → Word}
    (hi : exec i s = .next (scalar3 s h o f)) (hc : Clear s h) (ha : ReadsG s h o.sa a) (hb : ReadsG s h o.sb b)
    (hd : ReadsG s h o.sc c) : GivesG i s h o.dst fun k => f (a k) (b k) (c k) :=
  perLane_givesG hc hi fun k hk => by simp only [ha k hk, hb k hk, hd k hk]; rfl

/-- A word of a general source and the sign-extended IMM24 (R37). -/
theorem scalarImm_givesG {i : Instr} {s : State} {h : Hdr} {o : OpsB} {f : Word → Word → Word} {a : LaneId → Word}
    (hi : exec i s = .next (scalarImm s h o f)) (hc : Clear s h) (ha : ReadsG s h o.sa a) :
    GivesG i s h o.dst fun k => f (a k) (o.imm.signExtend 64) :=
  perLane_givesG hc hi fun k hk => by simp only [ha k hk]; rfl

/-- The clamp to 64 bits and whether it acted (R64). -/
theorem fitInt_eq (sat : Bool) (x : Int) : fitInt 64 true sat x = (clamped sat x, sat && outside x) := by
  unfold fitInt clamped outside
  cases sat
  · simp
  · by_cases h1 : 9223372036854775807 < x
    · have : max (-9223372036854775808) (min 9223372036854775807 x) = 9223372036854775807 := by omega
      simp [h1, this]
    · by_cases h2 : x < -9223372036854775808
      · have : max (-9223372036854775808) (min 9223372036854775807 x) = -9223372036854775808 := by omega
        simp [h1, h2, this]
      · have : max (-9223372036854775808) (min 9223372036854775807 x) = x := by omega
        simp [h1, h2, this]

/-- FitInt64 as a clamp (R64). -/
theorem fitInt64_eq (l : Lane) (sat : Bool) (x : Int) :
    fitInt64 l sat x = (if sat && outside x then l.withI 4 else l, clamped sat x) := by
  unfold fitInt64; rw [fitInt_eq]; rfl

/-- A word whose exact result passes through FitInt64 (R64). -/
theorem scalarFit_givesFit {i : Instr} {s : State} {h : Hdr} {o : OpsA} {f : Int → Int → Int} {a b : LaneId → Word}
    (hi : exec i s = .next (scalarFit s h o f)) (hc : Clear s h) (ha : ReadsG s h o.sa a) (hb : ReadsG s h o.sb b) :
    GivesFit i s h o fun k => f (a k).toInt (b k).toInt :=
  perLane_givesFrom hc hi (fun k hk => by simp only [ha k hk, hb k hk, fitInt64_eq]; rfl)
    (fun k => by split <;> rfl) fun k => by split <;> rfl

end Sys2Proof.Machine
end

