-- ==== Sys2Proof/Laws/Traps.lean ====
section
/-! SUPPORT. What the end of a word leaves behind when lanes of it trap. -/

namespace Sys2Proof.Machine

theorem mem_allLanes (k : LaneId) : k ∈ allLanes := List.mem_finRange k

theorem trapsOf_mem {o : Vector LaneOut 32} {k : LaneId} {u : LTrap} :
    (k, u) ∈ trapsOf o ↔ ∃ l x, o.get k = .trap l x u := by
  unfold trapsOf
  simp only [List.mem_filterMap]
  constructor
  · rintro ⟨a, -, ha⟩
    cases ho : o.get a with
    | trap l x v =>
      simp only [ho, Option.some.injEq, Prod.mk.injEq] at ha
      obtain ⟨rfl, rfl⟩ := ha
      exact ⟨l, x, ho⟩
    | _ => simp [ho] at ha
  · rintro ⟨l, x, h⟩
    exact ⟨k, mem_allLanes k, by simp [h]⟩

/-- Looking a lane up in the traps of a word. -/
theorem trapAt_trapsOf (o : Vector LaneOut 32) (k : LaneId) :
    trapAt (trapsOf o) k = match o.get k with | .trap _ _ u => some u | _ => none := by
  have aux : ∀ ks : List LaneId,
      (ks.filterMap fun j => match o.get j with | .trap _ _ u => some (j, u) | _ => none).lookup k =
        if k ∈ ks then (match o.get k with | .trap _ _ u => some u | _ => none) else none := by
    intro ks
    induction ks with
    | nil => rfl
    | cons j ks ih =>
      rw [List.filterMap_cons]
      by_cases hj : k = j
      · subst hj
        cases ho : o.get k with
        | trap l x u => simp
        | _ => simp only [ho] at ih; simp [ih]
      · have hne : (k == j) = false := by simpa using hj
        cases o.get j <;> simp [List.lookup, hne, ih, hj]
  have := aux allLanes
  rw [if_pos (mem_allLanes k)] at this
  exact this

theorem leadTrap_mem : ∀ {l : List (LaneId × LTrap)}, l ≠ [] → ∃ k u, leadTrap l = some u ∧ (k, u) ∈ l
  | [], h => absurd rfl h
  | (k, u) :: rest, _ => by
    unfold leadTrap
    cases hr : leadTrap rest with
    | none => exact ⟨k, u, rfl, .head _⟩
    | some v =>
      have hne : rest ≠ [] := by rintro rfl; cases hr
      obtain ⟨k1, u1, h1, h2⟩ := leadTrap_mem hne
      rw [hr] at h1; cases h1
      simp only
      split
      · exact ⟨k1, v, rfl, .tail _ h2⟩
      · exact ⟨k, u, rfl, .head _⟩

/-- No trap of a word outranks the one that leads (R31). -/
theorem leadTrap_least : ∀ {l : List (LaneId × LTrap)} {u : LTrap}, leadTrap l = some u →
    ∀ k v, (k, v) ∈ l → u.step < v.step ∨ (u.step = v.step ∧ u.rank ≤ v.rank)
  | [], _, h, _, _, _ => by cases h
  | (k, w) :: rest, u, h, j, v, hm => by
    unfold leadTrap at h
    cases hr : leadTrap rest with
    | none =>
      rw [hr] at h; cases h
      cases hm with
      | head => exact .inr ⟨rfl, le_refl _⟩
      | tail _ hm =>
        have hne : rest ≠ [] := by rintro rfl; cases hm
        obtain ⟨_, _, h1, _⟩ := leadTrap_mem hne
        rw [hr] at h1; cases h1
    | some y =>
      rw [hr] at h
      simp only at h
      have ih := leadTrap_least hr
      split at h <;> cases h
      · cases hm with
        | head => rename_i hc; omega
        | tail _ hm => exact ih j v hm
      · cases hm with
        | head => exact .inr ⟨rfl, le_refl _⟩
        | tail _ hm => have := ih j v hm; rename_i hc; omega

theorem toHandler_iff (f : Flight) (c : Cause) (n : Word) : toHandler f c n = true ↔ Handled f c n := by
  unfold toHandler Handled tvecEn tvecDel
  cases hd : c.delegable <;> cases c <;> simp [Cause.delegable] at hd ⊢ <;> simp_all [and_assoc]

theorem toHost_iff (s : State) (c : Cause) : toHost s s.fl c = true ↔ HostHandled s c := by
  unfold toHost HostHandled
  cases hd : c.delegable <;> simp

/-- The pc of the lowest lane of a set. -/
theorem foldr_pc (f : LaneId → Pc) (m : LaneSet) (ks : List LaneId) :
    ks.foldr (fun k p => if m.has k then f k else p) 0#17 =
      match ks.find? (fun k => m.has k) with | some k => f k | none => 0#17 := by
  induction ks with
  | nil => rfl
  | cons k ks ih =>
    rw [List.foldr_cons, List.find?_cons]
    cases m.has k <;> simp [ih]

/-- The flight after trap entry (R325). -/
theorem enterTrap_fl {s : State} {t : TrapInfo} {lead : LTrap} (hl : leadTrap t.traps = some lead) :
    (enterTrap s t).fl =
      if toHandler s.fl lead.cause lead.tval then (s.fl.trapped t lead).toEntry t.set (tvecEntry s.fl.tvec)
      else (s.fl.trapped t lead).toService t.set (ccountOf s s.fl.id.die).toNat := by
  unfold enterTrap
  simp only [hl]
  cases toHandler s.fl lead.cause lead.tval
  · simp only [Bool.false_eq_true, if_false]
    split <;> simp
  · rfl

@[simp] theorem enterTrap_flights (s : State) (t : TrapInfo) : (enterTrap s t).flights = s.flights := by
  unfold enterTrap
  cases leadTrap t.traps
  · rfl
  · simp only; split
    · rfl
    · split <;> simp

/-- Trap entry writes no memory unless it tells the host (R325, R327). -/
theorem enterTrap_mem {s : State} {t : TrapInfo} {lead : LTrap} (hl : leadTrap t.traps = some lead)
    (h : toHandler s.fl lead.cause lead.tval = true ∨ toHost s s.fl lead.cause = false) : (enterTrap s t).mem = s.mem := by
  unfold enterTrap
  simp only [hl]
  rcases h with h | h
  · rw [h]; rfl
  · rw [h]
    simp only [Bool.false_eq_true, if_false]
    split <;> simp

theorem trapped_lane (f : Flight) (t : TrapInfo) (lead : LTrap) (k : LaneId) :
    (f.trapped t lead).lane k = (f.lane k).shown (t.issue.has k) (t.set.has k) f.hnd (trapAt t.traps k) :=
  Flight.mapLanes_lane f (fun k l => l.shown (t.issue.has k) (t.set.has k) f.hnd (trapAt t.traps k)) k

theorem toEntry_lane (f : Flight) (set : LaneSet) (p : Pc) (k : LaneId) :
    (f.toEntry set p).lane k = if set.has k then (f.lane k).enterHandler p else f.lane k :=
  Flight.mapLanes_lane f _ k

theorem toService_lane (f : Flight) (set : LaneSet) (now : Nat) (k : LaneId) :
    (f.toService set now).lane k = if set.has k then { f.lane k with st := .parked .service } else f.lane k :=
  Flight.mapLanes_lane f _ k

theorem wordTrapped_lane (f : Flight) (set : LaneSet) (o : Vector LaneOut 32) (k : LaneId) :
    (wordTrapped f set o).lane k =
      if set.has k then
        match o.get k with
        | .done l1 x _ => { l1 with pend := x, part := none }
        | .park l1 c => parkLane l1 c false
        | .trap l1 x _ => { l1 with pend := none, part := x }
        | .idle => { f.lane k with pend := none, part := none }
      else f.lane k :=
  Flight.mapLanes_lane f _ k

/-- No lane of the issuing set leaves it where its lanes trap, complete without ending or stay. -/
theorem trapping_set {s : State} {o : Vector LaneOut 32} {T A : LaneId → Prop} {b e : LaneId → Lane} {x y : LaneId → Option LatchVal}
    {npc : LaneId → Option Pc} {u : LaneId → LTrap} (hlive : ∀ k, (issuing s).has k = true → (s.fl.lane k).st ≠ .exited)
    (htrap : ∀ k, T k → o.get k = .trap (b k) (y k) (u k)) (hdone : ∀ k, A k → ¬T k → o.get k = .done (e k) (x k) (npc k))
    (hidle : ∀ k, ¬A k → ¬T k → o.get k = .idle) (he : ∀ k, (e k).st = (s.fl.lane k).st) :
    issuing s &&& ~~~parkedOf o &&& ~~~exitedOf o = issuing s := by
  have hcase : ∀ k, T k ∨ (A k ∧ ¬T k) ∨ (¬A k ∧ ¬T k) := fun k => by
    by_cases h1 : T k
    · exact .inl h1
    · by_cases h2 : A k
      · exact .inr (.inl ⟨h2, h1⟩)
      · exact .inr (.inr ⟨h2, h1⟩)
  have hparked : parkedOf o = 0#32 := by
    unfold parkedOf
    rw [laneSetOf_eq_zero]
    intro k
    rcases hcase k with hk | ⟨ha, hk⟩ | ⟨ha, hk⟩
    · simp [htrap k hk]
    · simp [hdone k ha hk]
    · simp [hidle k ha hk]
  have hex0 : ∀ k, (issuing s).has k = true → (exitedOf o).has k = false := by
    intro k hi
    unfold exitedOf
    rw [laneSetOf_has]
    rcases hcase k with hk | ⟨ha, hk⟩ | ⟨ha, hk⟩
    · simp [htrap k hk]
    · simp [hdone k ha hk, Lane.exited, he k, hlive k hi]
    · simp [hidle k ha hk]
  generalize issuing s = set at hex0 ⊢
  rw [hparked]
  apply laneSet_ext
  intro k
  have h1 := hex0 k
  have hk := k.isLt
  simp only [LaneSet.has, BitVec.getLsbD_and, BitVec.getLsbD_not, BitVec.getLsbD_zero, hk, decide_true] at *
  cases h2 : set.getLsbD k.val <;> simp_all

/-- What a trap leaves in a lane of its set before the lane is sent to a handler or to service (R323, R325). -/
theorem shown_set (l : Lane) (hnd : Bool) (t : Option LTrap) :
    (l.shown true true hnd t).prog = l.prog ∧ (l.shown true true hnd t).pc = l.pc ∧
    (t = none → (l.shown true true hnd t).temask = 0 ∧ (l.shown true true hnd t).tval = 0) ∧
    (∀ v, t = some v → (l.shown true true hnd t).temask = v.temask ∧ (l.shown true true hnd t).tval = v.tval) ∧
    (hnd = false → (l.shown true true hnd t).inS = true ∧ (l.shown true true hnd t).shadow = l.lat ∧
      (l.shown true true hnd t).shPend = l.pend ∧ (l.shown true true hnd t).shPart = l.part ∧
      (l.shown true true hnd t).shFix = none) ∧
    (hnd = true → (l.shown true true hnd t).shadow = l.shadow ∧ (l.shown true true hnd t).inS = l.inS) := by
  cases t <;> cases hnd <;> refine ⟨rfl, rfl, ?_, ?_, ?_, ?_⟩ <;> simp [Lane.shown, Lane.describe, Lane.saveShadow]

/-- What a word leaves behind that traps in the lanes of T, `c` being the cause that leads, and completes in the other lanes of
Active. -/
theorem finish_afterTrap {s : State} {h : Hdr} {adv : Bool} {o : Vector LaneOut 32} {T : LaneId → Prop} {c : Cause} {n : Word}
    {te tval : LaneId → Word} {b e : LaneId → Lane} {x y : LaneId → Option LatchVal} {npc : LaneId → Option Pc} {r : Word}
    {u : LaneId → LTrap} (hrun : s.fl.run ≠ none) (hm : MayTrap s) (hex : ∃ k, T k) (hT : ∀ k, T k → (issuing s).has k = true)
    (htrap : ∀ k, T k → o.get k = .trap (b k) (y k) (u k))
    (hu : ∀ k, T k → (u k).tval = tval k ∧ (u k).temask = te k)
    (hdone : ∀ k, Acts s h k → ¬T k → o.get k = .done (e k) (x k) (npc k)) (hidle : ∀ k, ¬Acts s h k → ¬T k → o.get k = .idle)
    (hb : ∀ k, (b k).lat = (s.fl.lane k).lat ∧ (b k).pc = (s.fl.lane k).pc ∧ (b k).inS = (s.fl.lane k).inS ∧
      (b k).shadow = (s.fl.lane k).shadow)
    (he : ∀ k, (e k).lat = (s.fl.lane k).lat ∧ (e k).pc = (s.fl.lane k).pc ∧ (e k).st = (s.fl.lane k).st ∧
      (e k).inS = (s.fl.lane k).inS ∧ (e k).shadow = (s.fl.lane k).shadow)
    (hn : ∀ t, leadTrap (trapsOf o) = some t → t.cause = c ∧ (c = .softwareTrap → t.tval = n)) :
    AfterTrap s (finish { s with fl := { s.fl with rflat := r } } h.e adv false o) h T c n te tval b y e x := by
  obtain ⟨hg, hrep, hlive⟩ := hm
  rcases hs : s.fl.run with _ | ⟨set, rep⟩
  · exact absurd hs hrun
  have hrep1 : rep = none := by simpa [repeating, hs] using hrep
  subst hrep1
  have hset : issuing s = set := by simp [issuing, hs]
  have hcase : ∀ k, T k ∨ (Acts s h k ∧ ¬T k) ∨ (¬Acts s h k ∧ ¬T k) := fun k => by
    by_cases h1 : T k
    · exact .inl h1
    · by_cases h2 : Acts s h k
      · exact .inr (.inl ⟨h2, h1⟩)
      · exact .inr (.inr ⟨h2, h1⟩)
  have hin : ∀ k, Acts s h k → set.has k = true := by
    intro k hk
    simp only [Acts, isActive, Bool.and_eq_true] at hk
    exact hset ▸ hk.1.1
  obtain ⟨k0, hk0⟩ := hex
  have hne : trapsOf o ≠ [] := by
    intro h0
    have : (k0, _) ∈ trapsOf o := trapsOf_mem.2 ⟨_, _, htrap k0 hk0⟩
    rw [h0] at this; cases this
  have hsetEq : set &&& ~~~parkedOf o &&& ~~~exitedOf o = set := by
    rw [← hset]; exact trapping_set hlive htrap hdone hidle fun k => (he k).2.2.1
  have hatT : ∀ k, T k → trapAt (trapsOf o) k = some (u k) := fun k hk => by
    rw [trapAt_trapsOf, htrap k hk]
  have hatN : ∀ k, ¬T k → trapAt (trapsOf o) k = none := fun k hk => by
    rw [trapAt_trapsOf]
    by_cases ha : Acts s h k
    · rw [hdone k ha hk]
    · rw [hidle k ha hk]
  obtain ⟨k1, lead, hl, hmem⟩ := leadTrap_mem hne
  obtain ⟨hcause, hnum⟩ := hn lead hl
  obtain ⟨F, hF⟩ : ∃ F, F = { wordTrapped { s.fl with rflat := r } set o with run := none } := ⟨_, rfl⟩
  have hFl : ∀ k, F.lane k = (wordTrapped { s.fl with rflat := r } set o).lane k := fun k => by rw [hF]; rfl
  have hFs : F.hnd = s.fl.hnd ∧ F.priv = s.fl.priv ∧ F.tvec = s.fl.tvec ∧ F.dphase = s.fl.dphase ∧ F.ctx = s.fl.ctx := by
    rw [hF]; exact ⟨rfl, rfl, rfl, rfl, rfl⟩
  obtain ⟨info, hinfo⟩ : ∃ info : TrapInfo, info = ⟨set, set, trapsOf o, false, false, s.iw⟩ := ⟨_, rfl⟩
  have ht : finish { s with fl := { s.fl with rflat := r } } h.e adv false o = enterTrap { s with fl := F } info := by
    unfold finish
    simp only [hs, ne_eq, hne, not_false_eq_true, if_true, hsetEq]
    unfold takeTrap
    rw [if_pos (by exact hg), hF, hinfo]
    rfl
  have hl2 : leadTrap info.traps = some lead := by rw [hinfo]; exact hl
  have hfl := enterTrap_fl (s := { s with fl := F }) hl2
  have hhand : toHandler F lead.cause lead.tval = true ↔ Handled s.fl c n := by
    rw [toHandler_iff, hcause]
    unfold Handled
    rw [hFs.1, hFs.2.1, hFs.2.2.1]
    constructor
    · rintro ⟨h1, h2, h3, h4, h5⟩
      exact ⟨h1, h2, h3, h4, fun hc => by rw [← hnum hc]; exact h5 hc⟩
    · rintro ⟨h1, h2, h3, h4, h5⟩
      exact ⟨h1, h2, h3, h4, fun hc => by rw [hnum hc]; exact h5 hc⟩
  have hlane : ∀ k, ((F.trapped info lead).lane k) =
      (F.lane k).shown (set.has k) (set.has k) s.fl.hnd (trapAt (trapsOf o) k) := fun k => by
    rw [trapped_lane, hinfo, hFs.1]
  have hpcF : ∀ k, (F.lane k).pc = (s.fl.lane k).pc := fun k => by
    rw [hFl, wordTrapped_lane]
    by_cases hi : set.has k = true
    · rw [if_pos hi]
      rcases hcase k with hk | ⟨ha, hk⟩ | ⟨ha, hk⟩
      · rw [htrap k hk]; exact (hb k).2.1
      · rw [hdone k ha hk]; exact (he k).2.1
      · rw [hidle k ha hk]; rfl
    · rw [if_neg hi]; rfl
  have htpc : (allLanes.foldr (fun k p => if set.has k then (F.lane k).pc else p) 0#17) = issuePc s := by
    rw [foldr_pc (fun k => (F.lane k).pc)]
    unfold issuePc lowest
    rw [hset]
    cases allLanes.find? (fun k => set.has k) with
    | none => rfl
    | some k => exact hpcF k
  obtain ⟨G, hG⟩ : ∃ G, G = F.trapped info lead := ⟨_, rfl⟩
  have hGf : G.hnd = true ∧ G.run = none ∧ G.tcause = BitVec.ofBool s.fl.hnd ++ 0#1 ++ c.code ∧
      (∀ k, G.tmask.has k = true ↔ T k) ∧ G.tpc = issuePc s ∧ G.tinsn = s.iw ∧ G.dphase = s.fl.dphase := by
    rw [hG]
    refine ⟨rfl, rfl, ?_, fun k => ?_, ?_, ?_, hFs.2.2.2.1⟩
    · show BitVec.ofBool F.hnd ++ BitVec.ofBool info.slot ++ lead.cause.code = _
      rw [hFs.1, hcause, hinfo]; rfl
    · show (laneSetOf fun k => (trapAt info.traps k).isSome).has k = true ↔ T k
      rw [laneSetOf_has, hinfo]
      by_cases hk : T k
      · simp [hatT k hk, hk]
      · simp [hatN k hk, hk]
    · rw [← htpc]; show List.foldr _ _ _ = _; rw [hinfo]; rfl
    · show info.word = _; rw [hinfo]
  rw [← hG] at hfl
  have hinset : info.set = set := by rw [hinfo]
  have hflG : (enterTrap { s with fl := F } info).fl =
      if toHandler F lead.cause lead.tval then G.toEntry set (tvecEntry s.fl.tvec)
      else G.toService set (ccountOf s F.id.die).toNat := by
    rw [hfl, hinset, hFs.2.2.1]; rfl
  have hrest : (enterTrap { s with fl := F } info).fl.hnd = true ∧ (enterTrap { s with fl := F } info).fl.run = none ∧
      (enterTrap { s with fl := F } info).fl.tcause = G.tcause ∧ (enterTrap { s with fl := F } info).fl.tmask = G.tmask ∧
      (enterTrap { s with fl := F } info).fl.tpc = G.tpc ∧ (enterTrap { s with fl := F } info).fl.tinsn = G.tinsn ∧
      (enterTrap { s with fl := F } info).fl.dphase = G.dphase := by
    rw [hflG]
    split
    · exact ⟨hGf.1, hGf.2.1, rfl, rfl, rfl, rfl, rfl⟩
    · exact ⟨hGf.1, hGf.2.1, rfl, rfl, rfl, rfl, rfl⟩
  have hlaneOut : ∀ k, set.has k = false → (enterTrap { s with fl := F } info).fl.lane k = G.lane k := fun k hk => by
    rw [hflG]
    split
    · rw [toEntry_lane]; simp [hk]
    · rw [toService_lane]; simp [hk]
  have hlaneH : Handled s.fl c n → ∀ k, set.has k = true →
      (enterTrap { s with fl := F } info).fl.lane k = (G.lane k).enterHandler (tvecEntry s.fl.tvec) := fun hh k hk => by
    rw [hflG, if_pos (hhand.2 hh), toEntry_lane, if_pos hk]
  have hlaneS : ¬Handled s.fl c n → ∀ k, set.has k = true →
      (enterTrap { s with fl := F } info).fl.lane k = { G.lane k with st := .parked .service } := fun hh k hk => by
    rw [hflG, if_neg (mt hhand.1 hh), toService_lane, if_pos hk]
  have hsvc : ¬Handled s.fl c n → (enterTrap { s with fl := F } info).fl.service = true := fun hh => by
    rw [hflG, if_neg (mt hhand.1 hh)]; rfl
  rw [ht]
  refine ⟨hrest.1, hrest.2.1, hrest.2.2.1.trans hGf.2.2.1, fun k => ?_, hrest.2.2.2.2.1.trans hGf.2.2.2.2.1,
    hrest.2.2.2.2.2.1.trans hGf.2.2.2.2.2.1, hrest.2.2.2.2.2.2.trans hGf.2.2.2.2.2.2, enterTrap_flights _ _, ?_, ?_, ?_⟩
  · rw [hrest.2.2.2.1]; exact hGf.2.2.2.1 k
  · intro hh a
    have : (enterTrap { s with fl := F } info).mem = s.mem := by
      refine enterTrap_mem hl2 ?_
      rcases hh with hh | hh
      · right
        have : HostHandled { s with fl := F } c ↔ HostHandled s c := by
          unfold HostHandled
          simp only [hFs.2.1, hFs.2.2.2.2]; rfl
        rw [← this, ← toHost_iff, ← hcause] at hh
        simpa using hh
      · exact .inl (hhand.2 hh)
    unfold readByte; rw [this]
  · intro k hk
    rw [hset] at hk
    rw [hlaneOut k hk, hG, hlane, hFl, wordTrapped_lane]
    have hnT : ¬T k := fun h1 => by have := hset ▸ hT k h1; rw [hk] at this; cases this
    simp only [hk, Bool.false_eq_true, if_false, Lane.shown]
    cases s.fl.hnd <;> exact ⟨rfl, rfl, rfl⟩
  · intro k hk
    rw [hset] at hk
    have hGk : G.lane k = (F.lane k).shown true true s.fl.hnd (trapAt (trapsOf o) k) := by rw [hG, hlane, hk]
    have hFk : F.lane k = match o.get k with
        | .done l1 x _ => { l1 with pend := x, part := none }
        | .park l1 c => parkLane l1 c false
        | .trap l1 x _ => { l1 with pend := none, part := x }
        | .idle => { s.fl.lane k with pend := none, part := none } := by rw [hFl, wordTrapped_lane, if_pos hk]; rfl
    have same : ∀ (P : Lane → Prop), (∀ q, P { G.lane k with st := q }) → (P ((G.lane k).enterHandler (tvecEntry s.fl.tvec))) →
        P ((enterTrap { s with fl := F } info).fl.lane k) := fun P h1 h2 => by
      by_cases hh : Handled s.fl c n
      · rw [hlaneH hh k hk]; exact h2
      · rw [hlaneS hh k hk]; exact h1 _
    obtain ⟨gprog, gpc, gnone, gsome, gfree, gheld⟩ := shown_set (F.lane k) s.fl.hnd (trapAt (trapsOf o) k)
    rw [← hGk] at gprog gpc gnone gsome gfree gheld
    refine ⟨fun hTk => ?_, fun hTk => ?_, fun hTk => ?_, fun hTk => ?_, fun hh => ?_, fun hh => ?_, fun hh => ?_, fun hh => ?_⟩
    · have h2 : (G.lane k).prog = (b k).prog := by rw [gprog, hFk, htrap k hTk]; rfl
      have := gsome _ (hatT k hTk)
      exact same (fun l => l.temask = te k ∧ l.tval = tval k ∧ l.prog = (b k).prog)
        (fun _ => ⟨this.1.trans (hu k hTk).2, this.2.trans (hu k hTk).1, h2⟩)
        ⟨this.1.trans (hu k hTk).2, this.2.trans (hu k hTk).1, h2⟩
    · have := gnone (hatN k hTk)
      exact same (fun l => l.temask = 0 ∧ l.tval = 0) (fun _ => this) this
    · have : (G.lane k).prog = (e k).prog := by rw [gprog, hFk, hdone k hTk.1 hTk.2]; rfl
      exact same (fun l => l.prog = (e k).prog) (fun _ => this) this
    · have : (G.lane k).prog = (s.fl.lane k).prog := by rw [gprog, hFk, hidle k hTk.1 hTk.2]; rfl
      exact same (fun l => l.prog = (s.fl.lane k).prog) (fun _ => this) this
    · have hlat : (F.lane k).lat = (s.fl.lane k).lat := by
        rw [hFk]
        rcases hcase k with hk | ⟨ha, hk⟩ | ⟨ha, hk⟩
        · rw [htrap k hk]; exact (hb k).1
        · rw [hdone k ha hk]; exact (he k).1
        · rw [hidle k ha hk]
      obtain ⟨h1, h2, h3, h5, h6⟩ := gfree hh
      rw [hlat] at h2
      have sh : ∀ v w, (G.lane k).shPend = v → (G.lane k).shPart = w →
          ((enterTrap { s with fl := F } info).fl.lane k).shPend = v ∧
            ((enterTrap { s with fl := F } info).fl.lane k).shPart = w := fun v w h7 h8 =>
        same (fun l => l.shPend = v ∧ l.shPart = w) (fun _ => ⟨h7, h8⟩) ⟨h7, h8⟩
      refine ⟨same (fun l => l.inS = true) (fun _ => h1) h1,
        same (fun l => l.shadow = (s.fl.lane k).lat) (fun _ => h2) h2, same (fun l => l.shFix = none) (fun _ => h6) h6,
        fun hTk => ?_, fun hTk => ?_, fun hTk => ?_, fun hTk => ?_⟩
      · exact (sh none (y k) (by rw [h3, hFk, htrap k hTk]) (by rw [h5, hFk, htrap k hTk])).symm
      · by_cases ha : Acts s h k
        · exact (sh (x k) none (by rw [h3, hFk, hdone k ha hTk]) (by rw [h5, hFk, hdone k ha hTk])).2
        · exact (sh none none (by rw [h3, hFk, hidle k ha hTk]) (by rw [h5, hFk, hidle k ha hTk])).2
      · exact (sh (x k) none (by rw [h3, hFk, hdone k hTk.1 hTk.2]) (by rw [h5, hFk, hdone k hTk.1 hTk.2])).1
      · exact (sh none none (by rw [h3, hFk, hidle k hTk.1 hTk.2]) (by rw [h5, hFk, hidle k hTk.1 hTk.2])).1
    · have h1 : (F.lane k).shadow = (s.fl.lane k).shadow ∧ (F.lane k).inS = (s.fl.lane k).inS := by
        rw [hFk]
        rcases hcase k with hk | ⟨ha, hk⟩ | ⟨ha, hk⟩
        · rw [htrap k hk]; exact ⟨(hb k).2.2.2, (hb k).2.2.1⟩
        · rw [hdone k ha hk]; exact ⟨(he k).2.2.2.2, (he k).2.2.2.1⟩
        · rw [hidle k ha hk]; exact ⟨rfl, rfl⟩
      obtain ⟨h2, h3⟩ := gheld hh
      rw [h1.1] at h2
      rw [h1.2] at h3
      exact ⟨same (fun l => l.shadow = (s.fl.lane k).shadow) (fun _ => h2) h2,
        same (fun l => l.inS = (s.fl.lane k).inS) (fun _ => h3) h3⟩
    · rw [hlaneH hh k hk]; exact ⟨rfl, rfl, rfl⟩
    · rw [hlaneS hh k hk]
      exact ⟨hsvc hh, rfl, gpc.trans (hpcF k)⟩

/-- A word that traps in the lanes of T, `c` being the cause that leads, and completes in the other lanes of Active. -/
theorem perLane_trapsAs {i : Instr} {s : State} {h : Hdr} {srcs : List Src} {reads : Lane → Src → BitVec 3 → Bool}
    {f : LaneId → Lane → LaneOut} {T : LaneId → Prop} {c : Cause} {n : Word} {tval : LaneId → Word} {e : LaneId → Lane}
    {x : LaneId → Option LatchVal} {npc : LaneId → Option Pc} {u : LaneId → LTrap} (hc : Clear s h) (hm : MayTrap s)
    (hi : exec i s = .next (perLaneReads s h srcs reads f)) (hex : ∃ k, T k) (hT : ∀ k, T k → Acts s h k)
    (htrap : ∀ k, T k → f k (s.fl.lane k) = .trap (s.fl.lane k) none (u k))
    (hu : ∀ k, T k → (u k).tval = tval k ∧ (u k).temask = 1)
    (hdone : ∀ k, Acts s h k → ¬T k → f k (s.fl.lane k) = .done (e k) (x k) (npc k))
    (he : ∀ k, (e k).lat = (s.fl.lane k).lat ∧ (e k).pc = (s.fl.lane k).pc ∧ (e k).st = (s.fl.lane k).st ∧
      (e k).inS = (s.fl.lane k).inS ∧ (e k).shadow = (s.fl.lane k).shadow)
    (hn : ∀ k, T k → (∀ j, T j → (u k).step < (u j).step ∨ ((u k).step = (u j).step ∧ (u k).rank ≤ (u j).rank)) →
      (u k).cause = c ∧ (c = .softwareTrap → (u k).tval = n)) : Traps i s h T c n tval e x := by
  have hget : ∀ k, T k → (laneOuts s h f).get k = .trap (s.fl.lane k) none (u k) := fun k hk => by
    rw [laneOuts_get, laneOut_acts hc (hT k hk), htrap k hk]
  have hgd : ∀ k, Acts s h k → ¬T k → (laneOuts s h f).get k = .done (e k) (x k) (npc k) := fun k ha hk => by
    rw [laneOuts_get, laneOut_acts hc ha, hdone k ha hk]
  have hgi : ∀ k, ¬Acts s h k → (laneOuts s h f).get k = .idle := fun k ha => by rw [laneOuts_get, laneOut_idle ha]
  refine ⟨_, hi, finish_afterTrap (npc := npc) hc.1 hm hex (fun k hk => ?_) hget hu hgd (fun k ha _ => hgi k ha)
    (fun _ => ⟨rfl, rfl, rfl, rfl⟩) he fun t ht => ?_⟩
  · have := hT k hk
    simp only [Acts, isActive, Bool.and_eq_true] at this
    exact this.1.1
  · have hne : trapsOf (laneOuts s h f) ≠ [] := by intro h0; rw [h0] at ht; cases ht
    obtain ⟨k1, t1, h1, hmem⟩ := leadTrap_mem hne
    rw [ht] at h1; cases h1
    obtain ⟨l1, x1, hk1⟩ := trapsOf_mem.1 hmem
    have hTk1 : T k1 := by
      by_contra hk
      by_cases ha : Acts s h k1
      · rw [hgd k1 ha hk] at hk1; cases hk1
      · rw [hgi k1 ha] at hk1; cases hk1
    rw [hget k1 hTk1] at hk1; cases hk1
    exact hn k1 hTk1 fun j hj => leadTrap_least ht j (u j) (trapsOf_mem.2 ⟨_, _, hget j hj⟩)

/-- A word that traps in the lanes of T with one cause, and completes in the other lanes of Active. -/
theorem perLane_traps {i : Instr} {s : State} {h : Hdr} {srcs : List Src} {reads : Lane → Src → BitVec 3 → Bool}
    {f : LaneId → Lane → LaneOut} {T : LaneId → Prop} {c : Cause} {n : Word} {tval : LaneId → Word} {e : LaneId → Lane}
    {x : LaneId → Option LatchVal} {npc : LaneId → Option Pc} {step rank : Nat} (hc : Clear s h) (hm : MayTrap s)
    (hi : exec i s = .next (perLaneReads s h srcs reads f)) (hex : ∃ k, T k) (hT : ∀ k, T k → Acts s h k)
    (htrap : ∀ k, T k → f k (s.fl.lane k) = .trap (s.fl.lane k) none ⟨step, rank, c, tval k, 1⟩)
    (hdone : ∀ k, Acts s h k → ¬T k → f k (s.fl.lane k) = .done (e k) (x k) (npc k))
    (he : ∀ k, (e k).lat = (s.fl.lane k).lat ∧ (e k).pc = (s.fl.lane k).pc ∧ (e k).st = (s.fl.lane k).st ∧
      (e k).inS = (s.fl.lane k).inS ∧ (e k).shadow = (s.fl.lane k).shadow)
    (hn : c = .softwareTrap → ∀ k, T k → tval k = n) : Traps i s h T c n tval e x :=
  perLane_trapsAs hc hm hi hex hT htrap (fun _ _ => ⟨rfl, rfl⟩) hdone he fun k hk _ => ⟨rfl, fun h1 => hn h1 k hk⟩

/-- A trap of steps 1 to 3, in every lane of the issuing set (R31, R54). -/
theorem wordTrap_afterTrap {s : State} {h : Hdr} {step : Nat} {c : Cause} {tval : Word} (hrun : s.fl.run ≠ none) (hm : MayTrap s)
    (hex : ∃ k, (issuing s).has k = true) (hn : c ≠ .softwareTrap) :
    AfterTrap s (wordTrap s step c tval false) h (fun k => (issuing s).has k = true) c 0 (fun _ => 1) (fun _ => tval) (fun k => s.fl.lane k)
      (fun _ => none) (fun k => s.fl.lane k) fun _ => none := by
  obtain ⟨o, ho⟩ : ∃ o : Vector LaneOut 32, o = tab fun k =>
    if (issuing s).has k then .trap (s.fl.lane k) none ⟨step, 0, c, tval, 1⟩ else .idle := ⟨_, rfl⟩
  have : wordTrap s step c tval false = finish { s with fl := { s.fl with rflat := s.fl.rflat } } h.e false false o := by
    have : ∀ e1 e2 : Bool, finish s e1 false false o = finish s e2 false false o := by
      intro e1 e2
      have hne : trapsOf o ≠ [] := by
        obtain ⟨k, hk⟩ := hex
        intro h0
        have : (k, _) ∈ trapsOf o := trapsOf_mem.2 ⟨s.fl.lane k, none, by rw [ho, tab_get, if_pos hk]⟩
        rw [h0] at this; cases this
      unfold finish
      simp [hne]
    rw [ho] at *
    exact this false h.e
  rw [this]
  refine finish_afterTrap (npc := fun _ => none) (u := fun _ => ⟨step, 0, c, tval, 1⟩) hrun hm hex (fun _ hk => hk)
    (fun k hk => ?_) (fun _ _ => ⟨rfl, rfl⟩) (fun k ha hk => ?_) (fun k _ hk => ?_) (fun _ => ⟨rfl, rfl, rfl, rfl⟩) (fun _ => ⟨rfl, rfl, rfl, rfl, rfl⟩) fun t ht => ?_
  · rw [ho, tab_get, if_pos hk]
  · simp only [Acts, isActive, Bool.and_eq_true] at ha
    exact absurd ha.1.1 hk
  · rw [ho, tab_get, if_neg hk]
  · have hne : trapsOf o ≠ [] := by intro h0; rw [h0] at ht; cases ht
    obtain ⟨k1, t1, h1, hmem⟩ := leadTrap_mem hne
    rw [ht] at h1; cases h1
    obtain ⟨l1, x1, hk1⟩ := trapsOf_mem.1 hmem
    rw [ho, tab_get] at hk1
    split at hk1 <;> cases hk1
    exact ⟨rfl, fun h1 => absurd h1 hn⟩

end Sys2Proof.Machine
end

