-- ==== Sys2Proof/Laws/Fp.lean ====
section
/-! SUPPORT. What a floating-point word leaves behind: FpRaise (R108). -/

namespace Sys2Proof.Machine

@[simp] theorem withF_lat (l : Lane) (x : BitVec 5) : (l.withF x).lat = l.lat := rfl
@[simp] theorem withF_pc (l : Lane) (x : BitVec 5) : (l.withF x).pc = l.pc := rfl

/-- A write of a general register moves nothing else of the lane. -/
theorem setG_same (l : Lane) (i : BitVec 6) (x : Word) : (l.setG i x).lat = l.lat ∧ (l.setG i x).pc = l.pc ∧
    (l.setG i x).st = l.st ∧ (l.setG i x).inS = l.inS ∧ (l.setG i x).shadow = l.shadow := by
  unfold Lane.setG; split <;> exact ⟨rfl, rfl, rfl, rfl, rfl⟩

theorem setP_same (l : Lane) (i : BitVec 3) (x : Bool) : (l.setP i x).lat = l.lat ∧ (l.setP i x).pc = l.pc ∧
    (l.setP i x).st = l.st ∧ (l.setP i x).inS = l.inS ∧ (l.setP i x).shadow = l.shadow := by
  unfold Lane.setP; split <;> exact ⟨rfl, rfl, rfl, rfl, rfl⟩

/-- The first flag of a lane's raised and enabled ones gives its cause and rank (R108). -/
theorem fpCause_first (y : BitVec 5) (hy : y ≠ 0) :
    (fpCause y).1 < 5 ∧ y.getLsbD (fpCause y).1 = true ∧ (∀ c, c < (fpCause y).1 → y.getLsbD c = false) ∧
      (fpCause y).2 = flagCause (fpCause y).1 := by
  have key : ∀ y : BitVec 5, y ≠ 0 → (fpCause y).1 < 5 ∧ y.getLsbD (fpCause y).1 = true ∧
      (∀ c, c < (fpCause y).1 → y.getLsbD c = false) ∧ (fpCause y).2 = flagCause (fpCause y).1 := by decide
  exact key y hy

/-- A word whose lanes raise the flags `fl` (R108). -/
theorem raisesFp {i : Instr} {s : State} {h : Hdr} {adv : Bool} {f : LaneId → Lane → LaneOut} {r : Word}
    {fl : LaneId → BitVec 5} {e : LaneId → Lane} {x : LaneId → Option LatchVal} (hc : Clear s h)
    (hr : (∀ k, (s.fl.lane k).faulty = []) → r = s.fl.rflat)
    (hi : exec i s = .next (finish { s with fl := { s.fl with rflat := r } } h.e adv false (laneOuts s h f)))
    (hf : ∀ k, Acts s h k → f k (s.fl.lane k) =
      match fpTrap s.fl (fl k) with | some t => .trap (s.fl.lane k) none t | none => .done (e k) (x k) none)
    (he : ∀ k, (e k).lat = (s.fl.lane k).lat ∧ (e k).pc = (s.fl.lane k).pc ∧ (e k).st = (s.fl.lane k).st ∧
      (e k).inS = (s.fl.lane k).inS ∧ (e k).shadow = (s.fl.lane k).shadow) : RaisesFp i s h adv fl e x := by
  have hget : ∀ k, Acts s h k → (laneOuts s h f).get k =
      match fpTrap s.fl (fl k) with | some t => .trap (s.fl.lane k) none t | none => .done (e k) (x k) none := fun k hk => by
    rw [laneOuts_get, laneOut_acts hc hk, hf k hk]
  have hidle : ∀ k, ¬Acts s h k → (laneOuts s h f).get k = .idle := fun k hk => by rw [laneOuts_get, laneOut_idle hk]
  refine ⟨fun h0 => ⟨_, hi, finish_afterWord (n := fun _ => none) hc.1 (fun k hk => ?_) hidle (fun k _ => (he k).1)
    (fun k _ => (he k).2.1) hr⟩, fun T hm hT b hb hex hlow => ⟨_, hi, ?_⟩⟩
  · rw [hget k hk]
    unfold fpTrap fpEnables
    simp only [h0 k hk, if_true]
  · obtain ⟨k0, hk0, hb0⟩ := hex
    have hTA : ∀ k, T k → Acts s h k := fun k hk => ((hT k).1 hk).1
    have hT0 : ∀ k, T k → fl k &&& s.fl.fpctl.extractLsb' 3 5 ≠ 0 := fun k hk => ((hT k).1 hk).2
    obtain ⟨y, hy⟩ : ∃ y : LaneId → BitVec 5, y = fun k => fl k &&& s.fl.fpctl.extractLsb' 3 5 := ⟨_, rfl⟩
    have hyk : ∀ k, fl k &&& s.fl.fpctl.extractLsb' 3 5 = y k := fun k => by rw [hy]
    simp only [hyk] at hT hT0 hb0 hlow ⊢
    have hgT : ∀ k, T k → (laneOuts s h f).get k =
        .trap (s.fl.lane k) none ⟨5, (fpCause (y k)).1, (fpCause (y k)).2, (y k).setWidth 64, 1⟩ := fun k hk => by
      rw [hget k (hTA k hk)]
      unfold fpTrap fpEnables
      simp only [hyk, hT0 k hk, if_false]
    have hgN : ∀ k, Acts s h k → ¬T k → (laneOuts s h f).get k = .done (e k) (x k) none := fun k ha hk => by
      have : y k = 0 := by by_contra h1; exact hk ((hT k).2 ⟨ha, h1⟩)
      rw [hget k ha]
      unfold fpTrap fpEnables
      simp only [hyk, this, if_true]
    refine finish_afterTrap (npc := fun _ => none)
      (u := fun k => ⟨5, (fpCause (y k)).1, (fpCause (y k)).2, (y k).setWidth 64, 1⟩) hc.1 hm ⟨k0, hk0⟩ (fun k hk => ?_) hgT
      (fun k _ => ⟨rfl, rfl⟩) hgN (fun k ha _ => hidle k ha) (fun _ => ⟨rfl, rfl, rfl, rfl⟩) he fun t ht => ?_
    · have := hTA k hk
      simp only [Acts, isActive, Bool.and_eq_true] at this
      exact this.1.1
    · have hne : trapsOf (laneOuts s h f) ≠ [] := by intro h0; rw [h0] at ht; cases ht
      obtain ⟨k1, t1, h1, hmem⟩ := leadTrap_mem hne
      rw [ht] at h1; cases h1
      obtain ⟨l1, x1, hk1⟩ := trapsOf_mem.1 hmem
      have hTk1 : T k1 := by
        by_contra hk
        by_cases ha : Acts s h k1
        · rw [hgN k1 ha hk] at hk1; cases hk1
        · rw [hidle k1 ha] at hk1; cases hk1
      rw [hgT k1 hTk1] at hk1; cases hk1
      obtain ⟨q1, q2, q3, q4⟩ := fpCause_first (y k1) (hT0 k1 hTk1)
      have hle := leadTrap_least ht k0 _ (trapsOf_mem.2 ⟨_, _, hgT k0 hk0⟩)
      simp only [lt_self_iff_false, true_and, false_or] at hle
      obtain ⟨w1, w2, w3, -⟩ := fpCause_first (y k0) (hT0 k0 hk0)
      have e0 : (fpCause (y k0)).1 ≤ b := by
        by_contra hgt
        rw [w3 b (by omega)] at hb0; cases hb0
      have e1 : (fpCause (y k1)).1 = b := by
        by_contra hneq
        rw [hlow _ k1 (by omega) hTk1] at q2; cases q2
      refine ⟨by rw [q4, e1], fun hs => ?_⟩
      exfalso
      have : ∀ c : Fin 5, flagCause c.val ≠ .softwareTrap := by decide
      exact this ⟨b, hb⟩ hs

/-- The rounding and the dither threshold of a lane's scalar result (R104, R105). -/
theorem laneRounding_eq (s : State) (rm : BitVec 3) (k : LaneId) : laneRounding s rm k =
    ((if rm = 0 then Rnd.ofCode (s.fl.fpctl.toNat % 8) else Rnd.ofCode (rm.toNat - 1)), ditherAt s.fl.dphase k.val 0) := by
  unfold laneRounding roundingOf
  simp [BitVec.extractLsb'_toNat]

/-- A word whose lanes return general results with flags (R108, R112). -/
theorem fpRetG_gives {i : Instr} {s : State} {h : Hdr} {o : OpsA} {f : LaneId → Lane → LaneOut} {r : Word}
    {v : LaneId → Nat × BitVec 5} (hc : Clear s h) (hr : (∀ k, (s.fl.lane k).faulty = []) → r = s.fl.rflat)
    (hi : exec i s = .next (finish { s with fl := { s.fl with rflat := r } } h.e o.adv false (laneOuts s h f)))
    (hf : ∀ k, Acts s h k → f k (s.fl.lane k) = fpRetG s.fl (s.fl.lane k) o.dst h.w (v k)) : GivesFp i s h o v := by
  refine raisesFp hc hr hi (fun k hk => ?_) (fun k => ?_)
  · rw [hf k hk]
    unfold fpRetG
    cases fpTrap s.fl (v k).2 <;> rfl
  · split
    · exact setG_same ((s.fl.lane k).withF (v k).2) o.dst.gReg (BitVec.ofNat 64 (v k).1)
    · exact ⟨rfl, rfl, rfl, rfl, rfl⟩

/-- A floating-point word of one source (R112). -/
theorem fp1_gives {i : Instr} {s : State} {h : Hdr} {o : OpsA} {f : Rnd × Nat → Word → Nat × BitVec 5} {a : LaneId → Word}
    (hi : exec i s = .next (fp1 s h o f)) (hc : Clear s h) (ha : ReadsG s h o.sa a) :
    GivesFp i s h o fun k => f (laneRounding s o.rm k) (a k) :=
  fpRetG_gives hc (fun hq => logUnreadBy_clean hq) hi fun k hk => by simp only [ha k hk]; rfl

/-- A floating-point word of two sources (R112). -/
theorem fp2_gives {i : Instr} {s : State} {h : Hdr} {o : OpsA} {f : Rnd × Nat → Word → Word → Nat × BitVec 5}
    {a b : LaneId → Word} (hi : exec i s = .next (fp2 s h o f)) (hc : Clear s h) (ha : ReadsG s h o.sa a)
    (hb : ReadsG s h o.sb b) : GivesFp i s h o fun k => f (laneRounding s o.rm k) (a k) (b k) :=
  fpRetG_gives hc (fun hq => logUnreadBy_clean hq) hi fun k hk => by simp only [ha k hk, hb k hk]; rfl

end Sys2Proof.Machine
end

