-- ==== Sys2Proof/Laws/Memory.lean ====
section
/-! SUPPORT. The sparse lists keep their canonical form and read back what was put; memory and the line states with them. -/

namespace Sys2Proof.Machine

variable {β : Type} [DecidableEq β] {d : β}

theorem Sparse.wfFrom_mono {m : List (Nat × β)} {lo lo' : Nat} (hl : lo' ≤ lo) (h : Sparse.wfFrom d lo m = true) :
    Sparse.wfFrom d lo' m = true := by
  cases m with
  | nil => rfl
  | cons e t =>
    simp only [Sparse.wfFrom, Bool.and_eq_true, decide_eq_true_eq] at h ⊢
    exact ⟨⟨by omega, h.1.2⟩, h.2⟩

theorem Sparse.wfFrom_erase {m : List (Nat × β)} {k lo : Nat} (h : Sparse.wfFrom d lo m = true) :
    Sparse.wfFrom d lo (Sparse.erase k m) = true := by
  induction m generalizing lo with
  | nil => rfl
  | cons e t ih =>
    simp only [Sparse.wfFrom, Bool.and_eq_true, decide_eq_true_eq] at h
    unfold Sparse.erase
    split
    · exact ih (Sparse.wfFrom_mono (by omega) h.2)
    · simp only [Sparse.wfFrom, Bool.and_eq_true, decide_eq_true_eq]
      exact ⟨h.1, ih h.2⟩

theorem Sparse.wfFrom_insert {m : List (Nat × β)} {k lo : Nat} {v : β} (hv : v ≠ d) (hk : lo ≤ k)
    (h : Sparse.wfFrom d lo m = true) : Sparse.wfFrom d lo (Sparse.insert k v m) = true := by
  induction m generalizing lo with
  | nil => simp [Sparse.insert, Sparse.wfFrom, hv, hk]
  | cons e t ih =>
    simp only [Sparse.wfFrom, Bool.and_eq_true, decide_eq_true_eq] at h
    unfold Sparse.insert
    split
    · simp only [Sparse.wfFrom, Bool.and_eq_true, decide_eq_true_eq]
      exact ⟨h.1, ih (by omega) h.2⟩
    · split
      · simp only [Sparse.wfFrom, Bool.and_eq_true, decide_eq_true_eq]
        exact ⟨⟨hk, hv⟩, Sparse.wfFrom_mono (by omega) h.2⟩
      · simp only [Sparse.wfFrom, Bool.and_eq_true, decide_eq_true_eq]
        exact ⟨⟨hk, hv⟩, ⟨by omega, h.1.2⟩, h.2⟩

/-- A write keeps the canonical form. -/
theorem Sparse.wf_put {m : List (Nat × β)} {k : Nat} {v : β} (h : Sparse.wf d m = true) : Sparse.wf d (Sparse.put d k v m) = true := by
  unfold Sparse.put
  split
  · exact Sparse.wfFrom_erase h
  · exact Sparse.wfFrom_insert ‹_› (Nat.zero_le _) h

/-- Removing a key keeps the canonical form. -/
theorem Sparse.wf_erase {m : List (Nat × β)} {k : Nat} (h : Sparse.wf d m = true) : Sparse.wf d (Sparse.erase k m) = true :=
  Sparse.wfFrom_erase h

theorem Sparse.wfFrom_filter {m : List (Nat × β)} {lo : Nat} (p : Nat × β → Bool) (h : Sparse.wfFrom d lo m = true) :
    Sparse.wfFrom d lo (m.filter p) = true := by
  induction m generalizing lo with
  | nil => rfl
  | cons e t ih =>
    simp only [Sparse.wfFrom, Bool.and_eq_true, decide_eq_true_eq] at h
    rw [List.filter_cons]
    split
    · simp only [Sparse.wfFrom, Bool.and_eq_true, decide_eq_true_eq]
      exact ⟨h.1, ih h.2⟩
    · exact ih (Sparse.wfFrom_mono (by omega) h.2)

/-- Leaving entries out keeps the canonical form. -/
theorem Sparse.wf_filter {m : List (Nat × β)} (p : Nat × β → Bool) (h : Sparse.wf d m = true) :
    Sparse.wf d (m.filter p) = true :=
  Sparse.wfFrom_filter p h

theorem Sparse.get_below {m : List (Nat × β)} {k lo : Nat} (h : Sparse.wfFrom d lo m = true) (hk : k < lo) :
    Sparse.get d m k = d := by
  induction m generalizing lo with
  | nil => rfl
  | cons e t ih =>
    simp only [Sparse.wfFrom, Bool.and_eq_true, decide_eq_true_eq] at h
    unfold Sparse.get
    rw [if_neg (by omega)]
    exact ih h.2 (by omega)

omit [DecidableEq β] in
theorem Sparse.get_erase_self {m : List (Nat × β)} {k : Nat} : Sparse.get d (Sparse.erase k m) k = d := by
  induction m with
  | nil => rfl
  | cons e t ih =>
    unfold Sparse.erase
    split
    · exact ih
    · unfold Sparse.get; rw [if_neg ‹_›]; exact ih

omit [DecidableEq β] in
theorem Sparse.get_erase_of_ne {m : List (Nat × β)} {k j : Nat} (hj : j ≠ k) :
    Sparse.get d (Sparse.erase k m) j = Sparse.get d m j := by
  induction m with
  | nil => rfl
  | cons e t ih =>
    unfold Sparse.erase
    split
    · rw [ih]; conv => rhs; unfold Sparse.get
      rw [if_neg (by omega)]
    · unfold Sparse.get; rw [ih]

omit [DecidableEq β] in
theorem Sparse.get_insert_self {m : List (Nat × β)} {k : Nat} {v : β} : Sparse.get d (Sparse.insert k v m) k = v := by
  induction m with
  | nil => simp [Sparse.insert, Sparse.get]
  | cons e t ih =>
    unfold Sparse.insert
    split
    · unfold Sparse.get; rw [if_neg (by omega)]; exact ih
    · split <;> simp [Sparse.get]

omit [DecidableEq β] in
theorem Sparse.get_insert_of_ne {m : List (Nat × β)} {k j : Nat} {v : β} (hj : j ≠ k) :
    Sparse.get d (Sparse.insert k v m) j = Sparse.get d m j := by
  induction m with
  | nil => simp [Sparse.insert, Sparse.get, Ne.symm hj]
  | cons e t ih =>
    unfold Sparse.insert
    split
    · unfold Sparse.get; rw [ih]
    · split
      · unfold Sparse.get; rw [if_neg (Ne.symm hj), if_neg (by omega)]
      · conv => lhs; unfold Sparse.get
        rw [if_neg (Ne.symm hj)]

/-- What was put is read back. -/
@[simp] theorem Sparse.get_put_self {m : List (Nat × β)} {k : Nat} {v : β} : Sparse.get d (Sparse.put d k v m) k = v := by
  unfold Sparse.put
  split
  · rw [Sparse.get_erase_self, ‹v = d›]
  · exact Sparse.get_insert_self

/-- A write leaves every other key alone. -/
theorem Sparse.get_put_of_ne {m : List (Nat × β)} {k j : Nat} {v : β} (hj : j ≠ k) :
    Sparse.get d (Sparse.put d k v m) j = Sparse.get d m j := by
  unfold Sparse.put
  split
  · exact Sparse.get_erase_of_ne hj
  · exact Sparse.get_insert_of_ne hj

theorem Sparse.get_put (m : List (Nat × β)) (k j : Nat) (v : β) :
    Sparse.get d (Sparse.put d k v m) j = if j = k then v else Sparse.get d m j := by
  split
  · subst j; exact Sparse.get_put_self
  · exact Sparse.get_put_of_ne ‹_›

/-- Two canonical lists that read alike are equal: equal contents are equal data. -/
theorem Sparse.ext_wfFrom {m n : List (Nat × β)} {lo : Nat} (hm : Sparse.wfFrom d lo m = true) (hn : Sparse.wfFrom d lo n = true)
    (h : ∀ k, Sparse.get d m k = Sparse.get d n k) : m = n := by
  induction m generalizing n lo with
  | nil =>
    cases n with
    | nil => rfl
    | cons e t =>
      have := h e.1
      simp only [Sparse.wfFrom, Bool.and_eq_true, decide_eq_true_eq] at hn
      simp [Sparse.get] at this
      exact absurd this.symm hn.1.2
  | cons e t ih =>
    cases n with
    | nil =>
      have := h e.1
      simp only [Sparse.wfFrom, Bool.and_eq_true, decide_eq_true_eq] at hm
      simp [Sparse.get] at this
      exact absurd this hm.1.2
    | cons f u =>
      simp only [Sparse.wfFrom, Bool.and_eq_true, decide_eq_true_eq] at hm hn
      obtain ⟨a, b⟩ := e
      obtain ⟨a', b'⟩ := f
      have key : a = a' := by
        rcases Nat.lt_trichotomy a a' with hlt | heq | hgt
        · have := h a
          rw [show Sparse.get d ((a', b') :: u) a = d by
            unfold Sparse.get
            rw [if_neg (by omega)]
            exact Sparse.get_below hn.2 (by simp only; omega)] at this
          simp [Sparse.get] at this
          exact absurd this hm.1.2
        · exact heq
        · have := h a'
          rw [show Sparse.get d ((a, b) :: t) a' = d by
            unfold Sparse.get
            rw [if_neg (by omega)]
            exact Sparse.get_below hm.2 (by simp only; omega)] at this
          simp [Sparse.get] at this
          exact absurd this.symm hn.1.2
      subst a'
      have hb : b = b' := by simpa [Sparse.get] using h a
      subst b'
      rw [ih hm.2 hn.2 fun k => ?_]
      by_cases hk : a = k
      · subst k
        rw [Sparse.get_below hm.2 (Nat.lt_succ_self a), Sparse.get_below hn.2 (Nat.lt_succ_self a)]
      · have := h k
        simpa [Sparse.get, hk] using this

/-! Memory. -/

theorem putBytes_wf {m : List Host.Cell} {key : Nat} {bs : List Byte} (h : Memory.wf m = true) :
    Memory.wf (putBytes m key bs) = true := by
  induction bs generalizing m key with
  | nil => exact h
  | cons b bs ih => exact ih (Sparse.wf_put h)

/-- What a byte reads as after a write of several (R2). -/
theorem get_putBytes (m : List Host.Cell) (key : Nat) (bs : List Byte) (a : Nat) :
    Sparse.get unwritten (putBytes m key bs) a =
      if key ≤ a ∧ a < key + bs.length then bs.getD (a - key) 0 else Sparse.get unwritten m a := by
  induction bs generalizing m key with
  | nil => rw [if_neg (by simp only [List.length_nil]; omega)]; rfl
  | cons b bs ih =>
    unfold putBytes
    rw [ih, Sparse.get_put]
    simp only [List.length_cons]
    by_cases ha : a = key
    · subst a; simp
    · by_cases hin : key + 1 ≤ a ∧ a < key + 1 + bs.length
      · rw [if_pos hin, if_pos (by omega), show a - key = a - (key + 1) + 1 by omega]; simp
      · rw [if_neg hin, if_neg ha, if_neg (by omega)]

/-- Every byte after a write of bytes: the written bytes, and every other byte as before. -/
theorem readByte_writeBytes (s : State) (key : Nat) (bs : List Byte) (a : Nat) :
    readByte (writeBytes s key bs) a = if key ≤ a ∧ a < key + bs.length then bs.getD (a - key) 0 else readByte s a :=
  get_putBytes ..

theorem readBytes_length (s : State) (key n : Nat) : (readBytes s key n).length = n := by
  induction n generalizing key with
  | zero => rfl
  | succ n ih => simp [readBytes, ih]

theorem natToBytes_length (n x : Nat) : (natToBytes n x).length = n := by
  induction n generalizing x with
  | zero => rfl
  | succ n ih => simp [natToBytes, ih]

theorem bytesToNat_natToBytes (n x : Nat) : bytesToNat (natToBytes n x) = x % 256 ^ n := by
  induction n generalizing x with
  | zero => simp [natToBytes, bytesToNat, Nat.mod_one]
  | succ n ih =>
    rw [natToBytes, bytesToNat, ih, BitVec.toNat_ofNat, show 256 ^ (n + 1) = 256 * 256 ^ n by rw [Nat.pow_succ, Nat.mul_comm]]
    exact Nat.mod_mul.symm

theorem readBytes_writeBytes (s : State) (key : Nat) (bs : List Byte) : readBytes (writeBytes s key bs) key bs.length = bs := by
  have hg : ∀ (pre post : List Byte) (k : Nat), bs = pre ++ post → k = key + pre.length →
      readBytes (writeBytes s key bs) k post.length = post := by
    intro pre post
    induction post generalizing pre with
    | nil => intros; rfl
    | cons b post ih =>
      intro k hb hk
      simp only [List.length_cons, readBytes]
      have hlen : bs.length = pre.length + post.length + 1 := by rw [hb]; simp; omega
      rw [readByte_writeBytes, if_pos (by omega)]
      congr 1
      · rw [hb, show k - key = pre.length by omega]; simp
      · exact ih (pre ++ [b]) (k + 1) (by rw [hb]; simp) (by simp; omega)
  exact hg [] bs key rfl rfl

/-- A word that was written is read back (R2, R17). -/
@[simp] theorem readWord_writeWord (s : State) (key : Nat) (w : Word) : readWord (writeWord s key w) key = w := by
  have h : readBytes (writeBytes s key (natToBytes 8 w.toNat)) key 8 = natToBytes 8 w.toNat := by
    simpa only [natToBytes_length] using readBytes_writeBytes s key (natToBytes 8 w.toNat)
  unfold readWord writeWord
  rw [h, bytesToNat_natToBytes]
  apply BitVec.eq_of_toNat_eq
  rw [BitVec.toNat_ofNat]
  have := w.isLt
  omega

/-- A word that does not touch a write reads as before. -/
theorem readWord_writeBytes_of_disjoint {s : State} {key k : Nat} {bs : List Byte} (h : k + 8 ≤ key ∨ key + bs.length ≤ k) :
    readWord (writeBytes s key bs) k = readWord s k := by
  have hb : ∀ a, k ≤ a → a < k + 8 → readByte (writeBytes s key bs) a = readByte s a := fun a h1 h2 => by
    rw [readByte_writeBytes, if_neg (by omega)]
  unfold readWord
  simp only [readBytes]
  rw [hb _ (by omega) (by omega), hb _ (by omega) (by omega), hb _ (by omega) (by omega), hb _ (by omega) (by omega),
    hb _ (by omega) (by omega), hb _ (by omega) (by omega), hb _ (by omega) (by omega), hb _ (by omega) (by omega)]

/-! The canonical form of the state's sparse parts. -/

/-- The memory and the line states of the second state are in canonical form if those of the first are. -/
def KeepsForm (s t : State) : Prop :=
  (Memory.wf s.mem = true → Memory.wf t.mem = true) ∧
    (Sparse.wf LineState.free s.lines = true → Sparse.wf LineState.free t.lines = true)

theorem KeepsForm.of_eq {s t : State} (h1 : t.mem = s.mem) (h2 : t.lines = s.lines) : KeepsForm s t := by
  constructor <;> intro h
  · rwa [h1]
  · rwa [h2]

theorem KeepsForm.refl (s : State) : KeepsForm s s := ⟨id, id⟩

theorem KeepsForm.trans {s t u : State} (h1 : KeepsForm s t) (h2 : KeepsForm t u) : KeepsForm s u :=
  ⟨fun h => h2.1 (h1.1 h), fun h => h2.2 (h1.2 h)⟩

/-- A chain of steps that each keep the form. -/
theorem KeepsForm.foldl {α : Type} {f : State → α → State} (h : ∀ s a, KeepsForm s (f s a)) (l : List α) (s : State) :
    KeepsForm s (l.foldl f s) := by
  induction l generalizing s with
  | nil => exact .refl s
  | cons a l ih => exact (h s a).trans (ih _)

theorem writeBytes_keepsForm (s : State) (key : Nat) (bs : List Byte) : KeepsForm s (writeBytes s key bs) :=
  ⟨putBytes_wf, id⟩

theorem writeWord_keepsForm (s : State) (key : Nat) (w : Word) : KeepsForm s (writeWord s key w) := writeBytes_keepsForm ..

theorem writeWords_keepsForm (s : State) (key : Nat) (ws : List Word) : KeepsForm s (writeWords s key ws) := by
  induction ws generalizing s key with
  | nil => exact .refl s
  | cons w ws ih => exact (writeWord_keepsForm s key w).trans (ih _ _)

theorem setLine_keepsForm (s : State) (n : Nat) (l : LineState) : KeepsForm s (setLine s n l) := ⟨id, Sparse.wf_put⟩

theorem markDirty_keepsForm (s : State) (key : Nat) : KeepsForm s (markDirty s key) := .of_eq rfl rfl

theorem hubWrite_keepsForm (s : State) (addr : Nat) (ws : List Word) : KeepsForm s (hubWrite s addr ws) := by
  have h := (writeWords_keepsForm s (mainKey addr) ws).trans (markDirty_keepsForm _ (mainKey addr))
  unfold hubWrite
  split
  · exact h.trans (.of_eq rfl rfl)
  · exact h

theorem pushEvent_keepsForm (s : State) (r : List Word) : KeepsForm s (pushEvent s r) := by
  unfold pushEvent
  split
  · exact (hubWrite_keepsForm s _ r).trans (.of_eq rfl rfl)
  · exact .of_eq rfl rfl

theorem hubEvent_keepsForm (s : State) (kind : Nat) (code : BitVec 8) (ctx : BitVec 6) (a b : Word) :
    KeepsForm s (hubEvent s kind code ctx a b) :=
  pushEvent_keepsForm ..

/-- The memory of the part right after reset is in canonical form. -/
theorem reset_mem_wf : Memory.wf State.reset.mem = true := rfl

/-- The line states right after reset are in canonical form. -/
theorem reset_lines_wf : Sparse.wf LineState.free State.reset.lines = true := rfl

/-- A line's state after a line was set. -/
theorem lineSt_setLine (s : State) (n m : Nat) (l : LineState) :
    lineSt (setLine s n l) m = if m = n then l else lineSt s m :=
  Sparse.get_put ..

/-- A core after a core was set. -/
theorem coreOf_setCore (s : State) (n m : Nat) (c : Core) : coreOf (setCore s n c) m = if m = n then c else coreOf s m :=
  Sparse.get_put ..

/-- A context after a context was set. -/
theorem ctxOf_setCtx (s : State) (n m : BitVec 6) (c : Context) : ctxOf (setCtx s n c) m = if m = n then c else ctxOf s m := by
  unfold ctxOf setCtx
  simp only [Vector.get_eq_getElem, Vector.getElem_set]
  by_cases h : m = n
  · simp [h]
  · have : n.toNat ≠ m.toNat := fun e => h (BitVec.eq_of_toNat_eq e.symm)
    simp [h, this]

end Sys2Proof.Machine
end

