-- ==== Sys2Proof/Laws/Vec.lean ====
section
/-! SUPPORT. What an element operation leaves behind: the sub-elements of a register, and FpRaise by sub-element (R144, R147). -/

namespace Sys2Proof.Machine

/-- The bits of a register with one sub-element replaced. -/
theorem putBits_testBit (v w j x i : Nat) : (putBits v w j x).testBit i =
    if w * j ≤ i ∧ i < w * j + w then x.testBit (i - w * j) else v.testBit i := by
  have hv := Nat.div_add_mod v (2 ^ (w * j))
  have hq := Nat.div_add_mod (v / 2 ^ (w * j)) (2 ^ w)
  obtain ⟨lo, hlo⟩ : ∃ lo, lo = v % 2 ^ (w * j) := ⟨_, rfl⟩
  obtain ⟨q, hqd⟩ : ∃ q, q = v / 2 ^ (w * j) := ⟨_, rfl⟩
  obtain ⟨hi, hhi⟩ : ∃ hi, hi = q / 2 ^ w := ⟨_, rfl⟩
  have hlt : lo < 2 ^ (w * j) := hlo ▸ Nat.mod_lt _ (by positivity)
  have hx : x % 2 ^ w < 2 ^ w := Nat.mod_lt _ (by positivity)
  have hy : q % 2 ^ w < 2 ^ w := Nat.mod_lt _ (by positivity)
  have form : ∀ y, y < 2 ^ w → 2 ^ (w * j) * (2 ^ w * hi + y) + lo = 2 ^ (w * j) * (2 ^ w * hi ||| y) ||| lo := fun y hy => by
    rw [Nat.two_pow_add_eq_or_of_lt hlt, Nat.two_pow_add_eq_or_of_lt hy]
  have e1 : v = 2 ^ (w * j) * (2 ^ w * hi + q % 2 ^ w) + lo := by
    rw [hhi, Nat.div_add_mod, hqd, hlo]; exact hv.symm
  have e2 : putBits v w j x = 2 ^ (w * j) * (2 ^ w * hi + x % 2 ^ w) + lo := by
    unfold putBits
    rw [← hqd]
    conv_lhs => rw [e1]
    rw [Nat.mul_add, Nat.mul_add, Nat.mul_comm (q % 2 ^ w), Nat.mul_comm (x % 2 ^ w)]
    omega
  rw [e2, form _ hx]
  conv_rhs => rw [e1, form _ hy]
  simp only [Nat.testBit_or, Nat.testBit_two_pow_mul, Nat.testBit_mod_two_pow]
  have ho : lo.testBit i = true → i < w * j := fun h1 => by
    by_contra h2
    rw [Nat.testBit_lt_two_pow (lt_of_lt_of_le hlt (Nat.pow_le_pow_right (by omega) (by omega)))] at h1
    cases h1
  by_cases h1 : w * j ≤ i
  · have : lo.testBit i = false := by
      cases h3 : lo.testBit i
      · rfl
      · exact absurd (ho h3) (by omega)
    by_cases h2 : i < w * j + w
    · have h4 : ¬w ≤ i - w * j := by omega
      have h5 : i - w * j < w := by omega
      simp [h1, h2, this, h4, h5]
    · have h4 : w ≤ i - w * j := by omega
      have h5 : ¬i - w * j < w := by omega
      simp [h1, h2, this, h4, h5]
  · simp [h1]

/-- The bits of a register after several sub-elements are replaced. -/
theorem putAll_testBit (w : Nat) (hw : 0 < w) (res : Nat → Nat) (js : List Nat) (v i : Nat) :
    (js.foldl (fun x j => putBits x w j (res j)) v).testBit i =
      if i / w ∈ js then (res (i / w)).testBit (i % w) else v.testBit i := by
  induction js generalizing v with
  | nil => simp
  | cons j js ih =>
    rw [List.foldl_cons, ih]
    by_cases h1 : i / w ∈ js
    · simp [h1]
    · rw [if_neg h1, putBits_testBit]
      have hiff : (w * j ≤ i ∧ i < w * j + w) ↔ i / w = j := by
        rw [Nat.div_eq_iff hw, Nat.mul_comm w j]
        omega
      by_cases h2 : i / w = j
      · have := Nat.div_add_mod i w
        have h3 : i - w * j = i % w := by rw [← h2]; omega
        rw [if_pos (hiff.2 h2)]
        simp [h2, h3]
      · rw [if_neg (fun h => h2 (hiff.1 h))]
        simp [h1, h2]

/-- The bits of a vector given by its sub-elements (R144). -/
theorem vecOf_testBit (w n : Nat) (hw : 0 < w) (f : Nat → Nat) (i : Nat) (hi : i < 512) :
    (vecOf w n f).getLsbD i = (decide (i / w < n) && (f (i / w)).testBit (i % w)) := by
  have key : ∀ n, (List.range n).foldl (fun x j => x + f j % 2 ^ w * 2 ^ (w * j)) 0 < 2 ^ (w * n) ∧
      ((List.range n).foldl (fun x j => x + f j % 2 ^ w * 2 ^ (w * j)) 0).testBit i =
        (decide (i / w < n) && (f (i / w)).testBit (i % w)) := by
    intro n
    induction n with
    | zero => simp
    | succ n ih =>
      obtain ⟨h1, h2⟩ := ih
      rw [List.range_succ, List.foldl_append]
      simp only [List.foldl_cons, List.foldl_nil]
      generalize (List.range n).foldl (fun x j => x + f j % 2 ^ w * 2 ^ (w * j)) 0 = y at h1 h2
      have hx : f n % 2 ^ w < 2 ^ w := Nat.mod_lt _ (by positivity)
      constructor
      · have : 2 ^ (w * (n + 1)) = 2 ^ w * 2 ^ (w * n) := by rw [← pow_add]; ring_nf
        rw [this]
        nlinarith
      · rw [Nat.add_comm, Nat.mul_comm, Nat.two_pow_add_eq_or_of_lt h1, Nat.testBit_or, h2, Nat.testBit_two_pow_mul,
          Nat.testBit_mod_two_pow]
        have hd := Nat.div_add_mod i w
        have hm := Nat.mod_lt i hw
        by_cases h3 : i / w = n
        · have h4 : w * n ≤ i := by rw [← h3]; omega
          have h5 : i - w * n = i % w := by rw [← h3]; omega
          simp [h3, h4, h5, hm]
        · by_cases h4 : w * n ≤ i
          · have h6 : n ≤ i / w := (Nat.le_div_iff_mul_le hw).2 (by rw [Nat.mul_comm]; exact h4)
            have h7 : w * (n + 1) ≤ i := by
              have : n + 1 ≤ i / w := by omega
              have := Nat.mul_le_mul_left w this
              omega
            have h8 : ¬i - w * n < w := by rw [Nat.mul_add] at h7; omega
            have h9 : ¬i / w < n := by omega
            have h10 : ¬i / w < n + 1 := by omega
            simp [h8, h9, h10]
          · have h6 : i / w < n := (Nat.div_lt_iff_lt_mul hw).2 (by rw [Nat.mul_comm]; omega)
            have h7 : i / w < n + 1 := by omega
            simp [h4, h6, h7]
  unfold vecOf
  rw [BitVec.getLsbD_ofNat, (key n).2]
  simp [hi]

/-- A register with several sub-elements replaced, as the vector of its sub-elements. -/
theorem putAll_vecOf (w n : Nat) (hw : 0 < w) (hn : w * n = 512) (res : Nat → Nat) (js : List Nat) (v : VWord) (good : Nat → Bool)
    (hjs : ∀ j, j < n → (j ∈ js ↔ good j = true)) :
    BitVec.ofNat 512 (js.foldl (fun x j => putBits x w j (res j)) v.toNat) =
      vecOf w n fun j => if good j then res j else subWord v w j := by
  refine BitVec.eq_of_getLsbD_eq fun i hi => ?_
  have hlt : i / w < n := (Nat.div_lt_iff_lt_mul hw).2 (by rw [Nat.mul_comm]; omega)
  rw [BitVec.getLsbD_ofNat, putAll_testBit w hw, vecOf_testBit w n hw _ i hi]
  simp only [hi, hlt, decide_true, Bool.true_and]
  by_cases h1 : good (i / w) = true
  · rw [if_pos ((hjs _ hlt).2 h1), if_pos h1]
  · rw [if_neg (fun h => h1 ((hjs _ hlt).1 h)), if_neg h1]
    have hd := Nat.div_add_mod i w
    unfold subWord
    rw [Nat.testBit_mod_two_pow, Nat.testBit_div_two_pow]
    have : i % w + w * (i / w) = i := by omega
    simp [Nat.mod_lt i hw, this]

/-- The flags of the sub-elements together, flag by flag. -/
theorem allFlags_getLsbD (n : Nat) (P : Nat → Bool) (fl : Nat → BitVec 5) (b : Nat) :
    (allFlags n P fl).getLsbD b = (List.range n).any fun j => P j && (fl j).getLsbD b := by
  unfold allFlags
  have : ∀ (ls : List Nat) (m : BitVec 5), (ls.foldl (fun m j => if P j then m ||| fl j else m) m).getLsbD b =
      (m.getLsbD b || ls.any fun j => P j && (fl j).getLsbD b) := by
    intro ls
    induction ls with
    | nil => simp
    | cons j ls ih =>
      intro m
      rw [List.foldl_cons, ih]
      by_cases h : P j <;> simp [h, Bool.or_assoc]
  rw [this]
  simp

/-- The flags that the sub-elements raise in a lane (R147, R150). -/
theorem raiseSubs (js : List Nat) (res : Nat → SubRes) (l : Lane) :
    ∃ (f : BitVec 5) (i : BitVec 3), (js.map fun j => (j, res j)).foldl (fun l r => l.raiseSub r.2) l = (l.withF f).withI i ∧
      (∀ b, f.getLsbD b = js.any fun j => (res j).fl.getLsbD b) ∧ i = if js.any fun j => (res j).sat then 4 else 0 := by
  induction js generalizing l with
  | nil => exact ⟨0, 0, by simp [Lane.withF, Lane.withI], by simp, rfl⟩
  | cons j js ih =>
    obtain ⟨f, i, h1, h2, h3⟩ := ih (l.raiseSub (res j))
    refine ⟨(res j).fl ||| f, (if (res j).sat then 4 else 0) ||| i, ?_, fun b => by simp [h2], ?_⟩
    · rw [List.map_cons, List.foldl_cons, h1]
      unfold Lane.raiseSub Lane.raiseF Lane.raiseI Lane.withF Lane.withI istatSat
      cases (res j).sat <;> simp [BitVec.or_assoc]
    · rw [h3, List.any_cons]
      cases (res j).sat <;> cases js.any (fun j => (res j).sat) <;> rfl

theorem AfterWord.congr {s t : State} {h : Hdr} {adv : Bool} {e e' : LaneId → Lane} {x : LaneId → Option LatchVal}
    {n : LaneId → Pc} (ha : AfterWord s t h adv e' x n) (he : ∀ k, Acts s h k → (e' k).regs = (e k).regs)
    (hc : ∀ k, (e' k).done = (e k).done ∧ (e' k).remain = (e k).remain) : AfterWord s t h adv e x n := by
  obtain ⟨h1, h2, h3, h4, h5, h6, h7, h8, h9⟩ := ha
  refine ⟨h1, fun k hk => (h2 k hk).trans (he k hk), h3, h4, h5, h6, h7, fun r hr k hk => ?_, h9⟩
  have h := h8 r hr k hk
  refine ⟨fun hi => ?_, h.2⟩
  obtain ⟨g1, g2, g3, g4, g5, g6⟩ := h.1 hi
  refine ⟨g1, g2, g3, g4, fun ht => ?_, fun ht => ?_⟩
  · have := g5 ht
    split at this <;> simp_all
  · have := g6 ht
    split at this <;> simp_all

theorem AfterTrap.congr {s t : State} {h : Hdr} {T : LaneId → Prop} {c : Cause} {n : Word} {te tval : LaneId → Word}
    {b b' e e' : LaneId → Lane} {y x : LaneId → Option LatchVal} (ha : AfterTrap s t h T c n te tval b' y e' x)
    (hb : ∀ k, (b' k).prog = (b k).prog) (he : ∀ k, (e' k).prog = (e k).prog) : AfterTrap s t h T c n te tval b y e x := by
  obtain ⟨h1, h2, h3, h4, h5, h6, h7, h8, h9, h10, h11⟩ := ha
  refine ⟨h1, h2, h3, h4, h5, h6, h7, h8, h9, h10, fun k hk => ?_⟩
  obtain ⟨g1, g2, g3, g4⟩ := h11 k hk
  exact ⟨fun ht => ⟨(g1 ht).1, (g1 ht).2.1, (g1 ht).2.2.trans (hb k)⟩, g2, fun hk => (g3 hk).trans (he k), g4⟩

theorem subMask_getLsbD (js : List Nat) (i : Nat) (hi : i < 64) : (subMask js).getLsbD i = decide (i ∈ js) := by
  unfold subMask
  have : ∀ m : Word, (js.foldl (fun m j => m ||| (1#64 <<< j)) m).getLsbD i = (m.getLsbD i || decide (i ∈ js)) := by
    induction js with
    | nil => simp
    | cons j js ih =>
      intro m
      have hb : (1#64 <<< j).getLsbD i = decide (i = j) := by
        rw [BitVec.getLsbD_shiftLeft, BitVec.getLsbD_one]
        simp only [hi, decide_true, Bool.true_and]
        by_cases h1 : i < j
        · have : i ≠ j := by omega
          simp [h1, this]
        · by_cases h2 : i = j
          · simp [h2]
          · have : i - j ≠ 0 := by omega
            simp [h1, h2, this]
      rw [List.foldl_cons, ih, BitVec.getLsbD_or, hb]
      by_cases h2 : i = j <;> simp [h2]
  rw [this]
  simp

theorem foldFlags_getLsbD (js : List Nat) (res : Nat → SubRes) (en : BitVec 5) (b : Nat) :
    ((js.map fun j => (j, res j)).foldl (fun m r => m ||| (r.2.fl &&& en)) (0 : BitVec 5)).getLsbD b =
      js.any fun j => (res j).fl.getLsbD b && en.getLsbD b := by
  have : ∀ m : BitVec 5, ((js.map fun j => (j, res j)).foldl (fun m r => m ||| (r.2.fl &&& en)) m).getLsbD b =
      (m.getLsbD b || js.any fun j => (res j).fl.getLsbD b && en.getLsbD b) := by
    induction js with
    | nil => simp
    | cons j js ih =>
      intro m
      rw [List.map_cons, List.foldl_cons, ih]
      simp [Bool.or_assoc]
  rw [this]
  simp

/-- What an element operation gives in a lane (R147): `v` is the register, `l1` the lane with its flags, and `y` the enabled
flags that its sub-elements raise. -/
theorem vecRet_eq (f : Flight) (l : Lane) (d : Dst) (w : Bool) (wd n : Nat) (hwd : 0 < wd) (hn : wd * n = 512)
    (whole : Bool) (js : List Nat) (part : Nat → Bool) (res : Nat → SubRes) (hjs : ∀ j, j ∈ js ↔ j < n ∧ part j = true) :
    let en := fpEnables f
    let good := fun j => part j && ((res j).fl &&& en == 0)
    let bad := fun j => part j && ((res j).fl &&& en != 0)
    let v := vecOf wd n fun j => if good j then (res j).bits else subWord (l.getV d.vReg) wd j
    let l1 := (l.withF (allFlags n good fun j => (res j).fl)).withI
      (if (List.range n).any fun j => good j && (res j).sat then 4 else 0)
    let y := allFlags n bad (fun j => (res j).fl) &&& en
    let on := (((js.filter good).map fun j => (j, res j)).map (·.1)).contains
    vecRet f l d w wd whole js res =
      if ∀ j, j < n → bad j = false then
        .done (if w then (if whole then l1.setV d.vReg v else l1.setVPart d.vReg wd js.contains v) else l1) (some (.vec v)) none
      else .trap (if w then l1.setVPart d.vReg wd on v else l1) (some (.vec v)) ⟨5, (fpCause y).1, (fpCause y).2, y.setWidth 64,
        BitVec.ofFnLE fun j : Fin 64 => decide (j.val < n) && bad j.val⟩ := by
  intro en good bad v l1 y on
  have hG : ((js.map fun j => (j, res j)).filter fun r => r.2.fl &&& en == 0) =
      (js.filter good).map fun j => (j, res j) := by
    rw [List.filter_map]
    congr 1
    refine List.filter_congr fun j hj => ?_
    simp [good, (hjs j).1 hj]
  have hB : ((js.map fun j => (j, res j)).filter fun r => r.2.fl &&& en != 0) =
      (js.filter bad).map fun j => (j, res j) := by
    rw [List.filter_map]
    congr 1
    refine List.filter_congr fun j hj => ?_
    simp [bad, (hjs j).1 hj]
  have hgj : ∀ j, j ∈ js.filter good ↔ j < n ∧ good j = true := fun j => by
    rw [List.mem_filter, hjs]
    constructor
    · exact fun h => ⟨h.1.1, h.2⟩
    · exact fun h => ⟨⟨h.1, (Bool.and_eq_true _ _ ▸ h.2).1⟩, h.2⟩
  have hbj : ∀ j, j ∈ js.filter bad ↔ j < n ∧ bad j = true := fun j => by
    rw [List.mem_filter, hjs]
    constructor
    · exact fun h => ⟨h.1.1, h.2⟩
    · exact fun h => ⟨⟨h.1, (Bool.and_eq_true _ _ ▸ h.2).1⟩, h.2⟩
  have hv : BitVec.ofNat 512 (((js.filter good).map fun j => (j, res j)).foldl (fun x r => putBits x wd r.1 r.2.bits)
      (l.getV d.vReg).toNat) = v := by
    rw [List.foldl_map]
    exact putAll_vecOf wd n hwd hn (fun j => (res j).bits) (js.filter good) (l.getV d.vReg) good fun j hj => by
      rw [hgj]; simp [hj]
  have anyEq : ∀ (q : Nat → Bool) (P : Nat → Bool) (ls : List Nat), (∀ j, j ∈ ls ↔ j < n ∧ q j = true) →
      ls.any P = (List.range n).any fun j => q j && P j := fun q P ls h => by
    rw [Bool.eq_iff_iff]
    simp only [List.any_eq_true, List.mem_range, Bool.and_eq_true]
    constructor
    · rintro ⟨j, h1, h2⟩; exact ⟨j, ((h j).1 h1).1, ((h j).1 h1).2, h2⟩
    · rintro ⟨j, h1, h2, h3⟩; exact ⟨j, (h j).2 ⟨h1, h2⟩, h3⟩
  have hl : ((js.filter good).map fun j => (j, res j)).foldl (fun l r => l.raiseSub r.2) l = l1 := by
    obtain ⟨g, i, h1, h2, h3⟩ := raiseSubs (js.filter good) res l
    rw [h1, h3, anyEq good _ _ hgj]
    have : g = allFlags n good fun j => (res j).fl := BitVec.eq_of_getLsbD_eq fun b _ => by
      rw [h2, allFlags_getLsbD, anyEq good _ _ hgj]
    rw [this]
  have hy : ((js.filter bad).map fun j => (j, res j)).foldl (fun m r => m ||| (r.2.fl &&& en)) (0 : BitVec 5) = y :=
    BitVec.eq_of_getLsbD_eq fun b _ => by
      rw [foldFlags_getLsbD, anyEq bad _ _ hbj]
      simp only [y, BitVec.getLsbD_and, allFlags_getLsbD]
      cases en.getLsbD b <;> simp
  have hm : subMask (((js.filter bad).map fun j => (j, res j)).map (·.1)) =
      BitVec.ofFnLE fun j : Fin 64 => decide (j.val < n) && bad j.val := BitVec.eq_of_getLsbD_eq fun i hi => by
    rw [subMask_getLsbD _ _ hi, List.map_map]
    simp only [Function.comp_def, List.map_id']
    rw [show (BitVec.ofFnLE fun j : Fin 64 => decide (j.val < n) && bad j.val).getLsbD i =
      (decide (i < n) && bad i) by simp [hi]]
    rw [Bool.eq_iff_iff]
    simp [hbj]
  have hemp : (((js.filter bad).map fun j => (j, res j)).isEmpty = true) ↔ ∀ j, j < n → bad j = false := by
    rw [List.isEmpty_iff, List.map_eq_nil_iff, List.eq_nil_iff_forall_not_mem]
    constructor
    · intro h j hj
      cases hb : bad j
      · rfl
      · exact absurd ((hbj j).2 ⟨hj, hb⟩) (h j)
    · intro h j hj
      have h1 := (hbj j).1 hj
      rw [h j h1.1] at h1
      exact absurd h1.2 (by simp)
  unfold vecRet
  simp only [show fpEnables f = en from rfl, hG, hB, hv, hl, hy, hm]
  by_cases h0 : ∀ j, j < n → bad j = false
  · rw [if_pos (hemp.2 h0), if_pos h0]
  · rw [if_neg (fun h => h0 (hemp.1 h)), if_neg h0]

/-- Writing a part of a vector register, or all of it: the registers, and what stays. -/
theorem setV_same (l : Lane) (i : BitVec 5) (w : Nat) (on : Nat → Bool) (v : VWord) :
    ((l.setVPart i w on v).regs = (l.setV i v).regs ∧ (l.setVPart i w on v).prog = (l.setV i v).prog) ∧
    ((l.setV i v).lat = l.lat ∧ (l.setV i v).pc = l.pc ∧ (l.setV i v).st = l.st ∧ (l.setV i v).inS = l.inS ∧
      (l.setV i v).shadow = l.shadow) ∧
    ((l.setVPart i w on v).lat = l.lat ∧ (l.setVPart i w on v).pc = l.pc ∧ (l.setVPart i w on v).st = l.st ∧
      (l.setVPart i w on v).inS = l.inS ∧ (l.setVPart i w on v).shadow = l.shadow) ∧
    (l.setVPart i w on v).done = (l.setV i v).done ∧ (l.setVPart i w on v).remain = (l.setV i v).remain :=
  ⟨⟨rfl, rfl⟩, ⟨rfl, rfl, rfl, rfl, rfl⟩, ⟨rfl, rfl, rfl, rfl, rfl⟩, rfl, rfl⟩

/-- An element operation whose lanes return `res` by sub-element gives it (R147). `u` is the state at issue, with the counter
of free values moved on. -/
theorem vecRet_gives {i : Instr} {s : State} {m : Nat} {h : Hdr} {adv : Bool} {f : LaneId → Lane → LaneOut} {r : Word} {d : Dst}
    {w n : Nat} {part : Nat → Bool} {res : LaneId → Nat → SubRes} {whole : Bool} {js : List Nat} (hw : 0 < w) (hwn : w * n = 512)
    (hjs : ∀ j, j ∈ js ↔ j < n ∧ part j = true) (hc : Clear s h)
    (hr : (∀ k, (s.fl.lane k).faulty = []) → r = s.fl.rflat)
    (hi : exec i s = .next (finish { s with fresh := m, fl := { s.fl with rflat := r } } h.e adv false (laneOuts s h f)))
    (hf : ∀ k, Acts s h k → f k (s.fl.lane k) = vecRet s.fl (s.fl.lane k) d h.w w whole js (res k)) :
    GivesSubsAs i s { s with fresh := m } h adv d w n part res := by
  unfold GivesSubsAs
  intro en good bad v flagged e x
  have hget : ∀ k, Acts s h k → (laneOuts s h f).get k = vecRet s.fl (s.fl.lane k) d h.w w whole js (res k) := fun k hk => by
    rw [laneOuts_get, laneOut_acts hc hk, hf k hk]
  have hidle : ∀ k, ¬Acts s h k → (laneOuts s h f).get k = .idle := fun k hk => by rw [laneOuts_get, laneOut_idle hk]
  have hq := fun k => vecRet_eq s.fl (s.fl.lane k) d h.w w n hw hwn whole js part (res k) hjs
  obtain ⟨e1, he1⟩ : ∃ e1 : LaneId → Lane, e1 = fun k =>
    if h.w then (if whole then (flagged k).setV d.vReg (v k) else (flagged k).setVPart d.vReg w js.contains (v k))
    else flagged k := ⟨_, rfl⟩
  obtain ⟨b1, hb1⟩ : ∃ b1 : LaneId → Lane, b1 = fun k =>
    if h.w then (flagged k).setVPart d.vReg w (((js.filter (good k)).map fun j => (j, res k j)).map (·.1)).contains (v k)
    else flagged k := ⟨_, rfl⟩
  have hq1 : ∀ k, Acts s h k → (∀ j, j < n → bad k j = false) → (laneOuts s h f).get k = .done (e1 k) (x k) none := fun k hk h0 => by
    rw [hget k hk, hq k, he1]
    exact if_pos h0
  have hsame : ∀ k, (e1 k).lat = (s.fl.lane k).lat ∧ (e1 k).pc = (s.fl.lane k).pc ∧ (e1 k).st = (s.fl.lane k).st ∧
      (e1 k).inS = (s.fl.lane k).inS ∧ (e1 k).shadow = (s.fl.lane k).shadow := fun k => by
    have hs := setV_same (flagged k) d.vReg w js.contains (v k)
    rw [he1]
    simp only
    split
    · split
      · exact hs.2.1
      · exact hs.2.2.1
    · exact ⟨rfl, rfl, rfl, rfl, rfl⟩
  have hcount : ∀ k, (e1 k).done = (e k).done ∧ (e1 k).remain = (e k).remain := fun k => by
    have hs := setV_same (flagged k) d.vReg w js.contains (v k)
    rw [he1]
    simp only [e]
    split
    · split
      · exact ⟨rfl, rfl⟩
      · exact hs.2.2.2
    · exact ⟨rfl, rfl⟩
  have hregs : ∀ k, (e1 k).regs = (e k).regs ∧ (e1 k).prog = (e k).prog ∧ (b1 k).prog = (e k).prog := fun k => by
    rw [he1, hb1]
    simp only [e]
    have hs := (setV_same (flagged k) d.vReg w js.contains (v k)).1
    have hb := (setV_same (flagged k) d.vReg w (((js.filter (good k)).map fun j => (j, res k j)).map (·.1)).contains (v k)).1
    split
    · split
      · exact ⟨rfl, rfl, hb.2⟩
      · exact ⟨hs.1, hs.2, hb.2⟩
    · exact ⟨rfl, rfl, rfl⟩
  obtain ⟨u, hu⟩ : ∃ u : State, u = { s with fresh := m } := ⟨_, rfl⟩
  have hfl : u.fl = s.fl := by rw [hu]
  have hfin : finish { s with fresh := m, fl := { s.fl with rflat := r } } h.e adv false (laneOuts s h f) =
      finish { u with fl := { u.fl with rflat := r } } h.e adv false (laneOuts s h f) := by rw [hu]
  have hacts : ∀ k, Acts u h k ↔ Acts s h k := fun k => by rw [hu]; exact Iff.rfl
  refine ⟨fun h0 => ⟨_, hi, ?_⟩, ?_⟩
  · rw [hfin, ← hu]
    refine AfterWord.congr ?_ (fun k _ => (hregs k).1) hcount
    have := finish_afterWord (s := u) (h := h) (adv := adv) (slot := false) (o := laneOuts s h f) (e := e1) (x := x)
      (n := fun _ => none) (r := r) (by rw [hfl]; exact hc.1) (fun k hk => hq1 k ((hacts k).1 hk) (h0 k ((hacts k).1 hk)))
      (fun k hk => hidle k fun h1 => hk ((hacts k).2 h1)) (fun k _ => by rw [hfl]; exact (hsame k).1)
      (fun k _ => by rw [hfl]; exact (hsame k).2.1) (fun hq => by rw [hfl] at hq ⊢; exact hr hq)
    rw [hfl] at this ⊢
    simpa using this
  · intro T hm hT tv b hb hex hlow
    refine ⟨_, hi, ?_⟩
    obtain ⟨k0, hk0, hb0⟩ := hex
    have hTA : ∀ k, T k → Acts s h k := fun k hk => ((hT k).1 hk).1
    have hgT : ∀ k, T k → (laneOuts s h f).get k = .trap (b1 k) (x k) ⟨5, (fpCause (tv k)).1, (fpCause (tv k)).2, (tv k).setWidth 64,
        BitVec.ofFnLE fun j : Fin 64 => decide (j.val < n) && bad k j.val⟩ := fun k hk => by
      rw [hget k (hTA k hk), hq k, hb1]
      refine if_neg fun h0 => ?_
      obtain ⟨j, h1, h2⟩ := ((hT k).1 hk).2
      exact absurd h2 (by rw [show bad k j = false from h0 j h1]; simp)
    have hgN : ∀ k, Acts s h k → ¬T k → (laneOuts s h f).get k = .done (e1 k) (x k) none := fun k ha hk =>
      hq1 k ha fun j hj => by
        cases hb : bad k j
        · rfl
        · exact absurd ((hT k).2 ⟨ha, j, hj, hb⟩) hk
    have hT0 : ∀ k, T k → tv k ≠ 0 := fun k hk h0 => by
      obtain ⟨j, h1, h2⟩ := ((hT k).1 hk).2
      have h3 : (res k j).fl &&& en ≠ 0 := by
        simp only [bad, Bool.and_eq_true, bne_iff_ne] at h2
        exact h2.2
      refine h3 (BitVec.eq_of_getLsbD_eq fun c _ => ?_)
      have h4 : (tv k).getLsbD c = false := by rw [h0]; simp
      simp only [tv, BitVec.getLsbD_and, allFlags_getLsbD, Bool.and_eq_false_iff] at h4
      rcases h4 with h4 | h4
      · rw [List.any_eq_false] at h4
        have := h4 j (List.mem_range.2 h1)
        simp [h2] at this
        simp [this]
      · simp [h4]
    have key := finish_afterTrap (s := u) (h := h) (adv := adv) (o := laneOuts s h f) (T := T) (c := flagCause b) (n := 0)
      (te := fun k => BitVec.ofFnLE fun j : Fin 64 => decide (j.val < n) && bad k j.val) (tval := fun k => (tv k).setWidth 64)
      (b := b1) (e := e1) (x := x) (y := x) (npc := fun _ => none) (r := r)
      (u := fun k => ⟨5, (fpCause (tv k)).1, (fpCause (tv k)).2, (tv k).setWidth 64,
        BitVec.ofFnLE fun j : Fin 64 => decide (j.val < n) && bad k j.val⟩)
      (by rw [hfl]; exact hc.1) (by rw [hu]; exact hm) ⟨k0, hk0⟩ (fun k hk => ?_) hgT (fun k _ => ⟨rfl, rfl⟩)
      (fun k ha hk => hgN k ((hacts k).1 ha) hk) (fun k ha _ => hidle k fun h1 => ha ((hacts k).2 h1))
      (fun k => ?_) (fun k => by rw [hfl]; exact hsame k) fun t ht => ?_
    · rw [hfin]
      rw [hu] at key ⊢
      exact AfterTrap.congr key (fun k => (hregs k).2.2) fun k => (hregs k).2.1
    · have := hTA k hk
      simp only [Acts, isActive, Bool.and_eq_true] at this
      rw [hu]
      exact this.1.1
    · rw [hfl, hb1]
      simp only
      split
      · have := (setV_same (flagged k) d.vReg w (((js.filter (good k)).map fun j => (j, res k j)).map (·.1)).contains (v k)).2.2.1
        exact ⟨this.1, this.2.1, this.2.2.2.1, this.2.2.2.2⟩
      · exact ⟨rfl, rfl, rfl, rfl⟩
    · have hne : trapsOf (laneOuts s h f) ≠ [] := by intro h0; rw [h0] at ht; cases ht
      obtain ⟨k1, t1, h1, hmem⟩ := leadTrap_mem hne
      rw [ht] at h1; cases h1
      obtain ⟨l1, x1, hk1⟩ := trapsOf_mem.1 hmem
      have hTk1 : T k1 := by
        by_contra hk
        by_cases ha : Acts s h k1
        · rw [hgN k1 ha hk] at hk1; cases hk1
        · rw [hidle k1 ha] at hk1; cases hk1
      rw [hgT k1 hTk1] at hk1; cases hk1
      obtain ⟨q1, q2, q3, q4⟩ := fpCause_first (tv k1) (hT0 k1 hTk1)
      have hle := leadTrap_least ht k0 _ (trapsOf_mem.2 ⟨_, _, hgT k0 hk0⟩)
      simp only [lt_self_iff_false, true_and, false_or] at hle
      obtain ⟨w1, w2, w3, -⟩ := fpCause_first (tv k0) (hT0 k0 hk0)
      have e0 : (fpCause (tv k0)).1 ≤ b := by
        by_contra hgt
        rw [w3 b (by omega)] at hb0; cases hb0
      have e1 : (fpCause (tv k1)).1 = b := by
        by_contra hneq
        rw [hlow _ k1 (by omega) hTk1] at q2; cases q2
      refine ⟨by rw [q4, e1], fun hs => ?_⟩
      exfalso
      have : ∀ c : Fin 5, flagCause c.val ≠ .softwareTrap := by decide
      exact this ⟨b, hb⟩ hs

/-- The sub-elements of a type fill the register (R144). -/
theorem tyShape (t : Ty) : 0 < t.width ∧ t.width * t.count = 512 := by cases t <;> decide

/-- A vector source without faulting granules is read (R146, R335). -/
theorem vecRead_ok {l : Lane} {t : Ty} {src : Src} {a : VWord} (h : vecSrc l t src = .ok a) (hg : l.granules src = []) :
    vecRead l t src = .ok a := by
  have : ∀ js reads, checkSub l src js reads = .ok () := fun js reads => by
    have hn : (List.range 8).find? (fun _ => false) = none := List.find?_eq_none.2 (by simp)
    unfold checkSub
    simp [hg, hn]
  unfold vecRead
  rw [h]
  simp only [this]
  rfl

/-- An element operation on A and B gives its results (R147, R149). -/
theorem vecBin_gives {i : Instr} {s : State} {h : Hdr} {o : OpsA} {op : Rnd × Nat → Nat → Nat → SubRes} {a b : LaneId → VWord}
    (hi : exec i s = .next (vecBin s h o op)) (hc : Clear s h) (ha : ReadsV s h o.ty o.sa a) (hb : ReadsV s h o.ty o.sb b) :
    GivesSubs i s h o.dst o.ty fun k j =>
      op (subRounding s o.rm k j) (subWord (a k) o.ty.width j) (subWord (b k) o.ty.width j) :=
  vecRet_gives (m := s.fresh) (whole := true) (js := List.range o.ty.count) (tyShape o.ty).1 (tyShape o.ty).2 (fun j => by simp) hc
    (fun hq => logUnreadBy_clean hq) hi fun k hk => by
      rw [vecRead_ok (ha k hk).1 (ha k hk).2, vecRead_ok (hb k hk).1 (hb k hk).2]
      rfl

/-- An element operation on A gives its results (R147, R149). -/
theorem vecUn_gives {i : Instr} {s : State} {h : Hdr} {o : OpsA} {op : Rnd × Nat → Nat → SubRes} {a : LaneId → VWord}
    (hi : exec i s = .next (vecUn s h o op)) (hc : Clear s h) (ha : ReadsV s h o.ty o.sa a) :
    GivesSubs i s h o.dst o.ty fun k j => op (subRounding s o.rm k j) (subWord (a k) o.ty.width j) :=
  vecRet_gives (m := s.fresh) (whole := true) (js := List.range o.ty.count) (tyShape o.ty).1 (tyShape o.ty).2 (fun j => by simp) hc
    (fun hq => logUnreadBy_clean hq) hi fun k hk => by
      rw [vecRead_ok (ha k hk).1 (ha k hk).2]
      rfl

end Sys2Proof.Machine
end

