-- ==== Sys2Proof/Tests/Base.lean ====
section
/-! SUPPORT. The small states that the tests and the witnesses share. -/

namespace Sys2Proof.Tests

set_option Elab.async false

open Sys2Proof Sys2Proof.Machine

/-- A flight of two lanes in slot 0 of core 0, with its word at issue as the fourth of a run. -/
def runner : Flight :=
  { Flight.blank with
    live := true, slot := some 0, run := some { set := 3, rep := none },
    lanes := tab fun k => if k.val < 2 then { Lane.blank with st := .ready, pos := 3 } else Lane.blank }

/-- The part with that flight at issue and all dies present. -/
def base : State := { State.reset with fl := runner, dies := Vector.replicate 4 ⟨true, 0, 0, 0, 0, false, none⟩ }

/-- The state with every lane of the flight at issue changed by `f`. -/
def eachLane (s : State) (f : Lane → Lane) : State := { s with fl := s.fl.mapLanes fun _ l => f l }

/-- Register gI (vI) of every lane holds x. -/
def withG (s : State) (i : BitVec 6) (x : Word) : State := eachLane s fun l => l.setG i x
def withV (s : State) (i : BitVec 5) (x : VWord) : State := eachLane s fun l => l.setV i x

/-- g1 and g2 of every lane hold a and b. -/
def two (a b : Word) : State := withG (withG base 1 a) 2 b

/-- A header with W, and one without. -/
def hw : Hdr := ⟨false, false, 0, true⟩
def h0 : Hdr := ⟨false, false, 0, false⟩

/-- Operands of format A: destination and three sources. -/
def opA (d : Dst) (a : Src) (b : Src := .g 0) (c : Src := .g 0) : OpsA := ⟨d, a, b, c, .fp64, 0, 0, false, false, 0⟩

/-- Operands of format M: destination, address, second source, SZ, SP and DISP. -/
def opM (d : Dst) (a : Src) (sz : BitVec 3) (sp : BitVec 3) (disp : BitVec 10 := 0) (b : Src := .g 0) : OpsM :=
  ⟨d, a, b, sz, 0, sp, 0, disp⟩

/-- Operands of format X: destination, SA, SB, LVL. -/
def opX (d : Dst) (a : Src) (b : Src := .g 0) (lvl : BitVec 4 := 0) : OpsX := ⟨d, a, b, lvl, 0, 0, 0, false, 0, false⟩

/-- Of the next state, if there is one, what `f` says of it. -/
def gives (r : Res) (f : State → Bool) : Bool :=
  match r with
  | .next t => f t
  | _ => false

/-- A vector register reads as it stands in lanes without a faulting granule. -/
theorem readsV_reg {s : State} (h : Hdr) (t : Ty) (i : BitVec 5) (hf : ∀ k, (s.fl.lane k).faulty = []) :
    ReadsV s h t (.v i) fun k => (s.fl.lane k).getV i := fun k _ => ⟨rfl, by simp [Lane.granules, hf]⟩

/-- Words at addresses of main memory. -/
def withWords (s : State) (l : List (Nat × Word)) : State := l.foldl (fun s p => writeWord s (mainKey p.1) p.2) s

/-- Context 0 live, with a buffer table at 0x8000, a pool of four slots in buffer 2, and a page table at 0x1000: it maps the first GiB to the
second one of main memory, page 0x40000000 to frame 0x8000 of one stack, and page 0x40010000 to frame 5 of the module cellar. Buffers 0
and 2 are local, buffer 1 is in package 1, buffer 3 on the one stack, and buffer 4 on no page. -/
def mapped : State :=
  let c : Context := { Context.blank with
    live := true, desc := Vector.ofFn fun i => [0x8000000000001000, 0x8000, 0x10000, 0x0020000000000004, 0x20000].getD i.val 0 }
  { withWords (setCtx base 0 c) [(0x1000, 0x8000000000002000), (0x2000, 0xC000000040000000), (0x2008, 0x8000000000003000),
      (0x3000, 0x8000000000004000), (0x4000, 0xC200000080000000), (0x4008, 0xE000000000050000), (0x8000, 0xF000000000000000),
      (0x8008, 0x100000), (0x8020, 0xF800000000000000), (0x8028, 0x1000), (0x8030, 0x4300500000), (0x8040, 0xF000000000100000),
      (0x8048, 0x1000), (0x8080, 0xF000000080000000), (0x8088, 0x1000), (0x8060, 0xF300000040000000), (0x8068, 0x10000)] with
    group := [(0, 0x8000000000000000), (1, 0x8000000000000000)] }

/-- The flight at issue with its fields changed. -/
def onFl (f : Flight → Flight) (s : State) : State := { s with fl := f s.fl }

end Sys2Proof.Tests
end

