-- ==== Sys2Proof/Tests/Slice0.lean ====
section
/-! SUPPORT. Tests of the model: every word decodes as its encoding is written in the spec, the well-formedness checks refuse what they
should, and single steps give the values that the rules give. -/

namespace Sys2Proof.Tests

set_option Elab.async false

open Sys2Proof Sys2Proof.Machine

/-- Each word decodes to the instruction beside it, and that instruction is encoded as the word. -/
def agrees (l : List (Word × Instr)) : Bool :=
  l.all fun p => decide (decode p.1 = .ok p.2) && decide (encode p.2 = some p.1)

/-! The decode tests: each word is written out from the field places of R34 to R54 and the opcode table. -/

theorem test_decode_integer1 : agrees [
    (0x810B8501FC000008, .add ⟨true, true, 3, true⟩ ⟨.g 5, .g 1, .imm 124, .g 0, .fp64, 0, 0, false, true, 0⟩),
    (0x812B8601FC000008, .sub ⟨true, true, 3, true⟩ ⟨.g 6, .g 1, .imm 124, .g 0, .fp64, 0, 0, false, true, 0⟩),
    (0x814B8701FC000008, .mul ⟨true, true, 3, true⟩ ⟨.g 7, .g 1, .imm 124, .g 0, .fp64, 0, 0, false, true, 0⟩),
    (0x0130897A00000008, .neg ⟨false, false, 0, true⟩ ⟨.g 9, .latch 2, .g 0, .g 0, .fp64, 0, 0, false, true, 0⟩),
    (0x01F0897A00000008, .abs ⟨false, false, 0, true⟩ ⟨.g 9, .latch 2, .g 0, .g 0, .fp64, 0, 0, false, true, 0⟩),
    (0x0157A13EBF000000, .mulh ⟨false, false, 7, true⟩ ⟨.g 33, .g 62, .imm 63, .g 0, .fp64, 0, 0, false, false, 0⟩),
    (0x0167A13EBF000000, .mulhu ⟨false, false, 7, true⟩ ⟨.g 33, .g 62, .imm 63, .g 0, .fp64, 0, 0, false, false, 0⟩),
    (0x0177A13EBF000000, .div ⟨false, false, 7, true⟩ ⟨.g 33, .g 62, .imm 63, .g 0, .fp64, 0, 0, false, false, 0⟩)] = true := by decide

theorem test_decode_integer2 : agrees [
    (0x0187A13EBF000000, .divu ⟨false, false, 7, true⟩ ⟨.g 33, .g 62, .imm 63, .g 0, .fp64, 0, 0, false, false, 0⟩),
    (0x0197A13EBF000000, .rem ⟨false, false, 7, true⟩ ⟨.g 33, .g 62, .imm 63, .g 0, .fp64, 0, 0, false, false, 0⟩),
    (0x01A7A13EBF000000, .remu ⟨false, false, 7, true⟩ ⟨.g 33, .g 62, .imm 63, .g 0, .fp64, 0, 0, false, false, 0⟩),
    (0x01B7A13EBF000000, .min ⟨false, false, 7, true⟩ ⟨.g 33, .g 62, .imm 63, .g 0, .fp64, 0, 0, false, false, 0⟩),
    (0x01C7A13EBF000000, .max ⟨false, false, 7, true⟩ ⟨.g 33, .g 62, .imm 63, .g 0, .fp64, 0, 0, false, false, 0⟩),
    (0x01D7A13EBF000000, .minu ⟨false, false, 7, true⟩ ⟨.g 33, .g 62, .imm 63, .g 0, .fp64, 0, 0, false, false, 0⟩),
    (0x01E7A13EBF000000, .maxu ⟨false, false, 7, true⟩ ⟨.g 33, .g 62, .imm 63, .g 0, .fp64, 0, 0, false, false, 0⟩),
    (0x0110830400FFFFFE, .addi ⟨false, false, 0, true⟩ ⟨.g 3, .g 4, 0, 16777214⟩)] = true := by decide

theorem test_decode_bits1 : agrees [
    (0x0207A13EBF000000, .and ⟨false, false, 7, true⟩ ⟨.g 33, .g 62, .imm 63, .g 0, .fp64, 0, 0, false, false, 0⟩),
    (0x0227A13EBF000000, .or ⟨false, false, 7, true⟩ ⟨.g 33, .g 62, .imm 63, .g 0, .fp64, 0, 0, false, false, 0⟩),
    (0x0247A13EBF000000, .xor ⟨false, false, 7, true⟩ ⟨.g 33, .g 62, .imm 63, .g 0, .fp64, 0, 0, false, false, 0⟩),
    (0x0267A13EBF000000, .andn ⟨false, false, 7, true⟩ ⟨.g 33, .g 62, .imm 63, .g 0, .fp64, 0, 0, false, false, 0⟩),
    (0x0287A13EBF000000, .shl ⟨false, false, 7, true⟩ ⟨.g 33, .g 62, .imm 63, .g 0, .fp64, 0, 0, false, false, 0⟩),
    (0x02A7A13EBF000000, .shr ⟨false, false, 7, true⟩ ⟨.g 33, .g 62, .imm 63, .g 0, .fp64, 0, 0, false, false, 0⟩),
    (0x02C7A13EBF000000, .sar ⟨false, false, 7, true⟩ ⟨.g 33, .g 62, .imm 63, .g 0, .fp64, 0, 0, false, false, 0⟩),
    (0x02E7A13EBF000000, .rol ⟨false, false, 7, true⟩ ⟨.g 33, .g 62, .imm 63, .g 0, .fp64, 0, 0, false, false, 0⟩)] = true := by decide

theorem test_decode_bits2 : agrees [
    (0x02F7A13EBF000000, .ror ⟨false, false, 7, true⟩ ⟨.g 33, .g 62, .imm 63, .g 0, .fp64, 0, 0, false, false, 0⟩),
    (0x827008C000000000, .not ⟨true, false, 0, false⟩ ⟨.g 8, .imm 64, .g 0, .g 0, .fp64, 0, 0, false, false, 0⟩),
    (0x830008C000000000, .clz ⟨true, false, 0, false⟩ ⟨.g 8, .imm 64, .g 0, .g 0, .fp64, 0, 0, false, false, 0⟩),
    (0x831008C000000000, .ctz ⟨true, false, 0, false⟩ ⟨.g 8, .imm 64, .g 0, .g 0, .fp64, 0, 0, false, false, 0⟩),
    (0x832008C000000000, .popc ⟨true, false, 0, false⟩ ⟨.g 8, .imm 64, .g 0, .g 0, .fp64, 0, 0, false, false, 0⟩),
    (0x833008C000000000, .brev ⟨true, false, 0, false⟩ ⟨.g 8, .imm 64, .g 0, .g 0, .fp64, 0, 0, false, false, 0⟩),
    (0x834008C000000000, .bswap ⟨true, false, 0, false⟩ ⟨.g 8, .imm 64, .g 0, .g 0, .fp64, 0, 0, false, false, 0⟩),
    (0x0350840583790000, .bfx ⟨false, false, 0, true⟩ ⟨.g 4, .g 5, .imm 3, .latch 1, .fp64, 0, 0, false, false, 0⟩)] = true := by decide

theorem test_decode_bits3 : agrees [
    (0x0360840583790000, .bfxs ⟨false, false, 0, true⟩ ⟨.g 4, .g 5, .imm 3, .latch 1, .fp64, 0, 0, false, false, 0⟩),
    (0x0370840583790000, .bfi ⟨false, false, 0, true⟩ ⟨.g 4, .g 5, .imm 3, .latch 1, .fp64, 0, 0, false, false, 0⟩),
    (0x0210830400FFFFFE, .andi ⟨false, false, 0, true⟩ ⟨.g 3, .g 4, 0, 16777214⟩),
    (0x0230830400FFFFFE, .ori ⟨false, false, 0, true⟩ ⟨.g 3, .g 4, 0, 16777214⟩),
    (0x0250830400FFFFFE, .xori ⟨false, false, 0, true⟩ ⟨.g 3, .g 4, 0, 16777214⟩),
    (0x0290837B0000003F, .shli ⟨false, false, 0, true⟩ ⟨.g 3, .latch 3, 0, 63⟩),
    (0x02B0837B0000003F, .shri ⟨false, false, 0, true⟩ ⟨.g 3, .latch 3, 0, 63⟩),
    (0x02D0837B0000003F, .sari ⟨false, false, 0, true⟩ ⟨.g 3, .latch 3, 0, 63⟩)] = true := by decide

theorem test_decode_moves1 : agrees [
    (0x03B0820381640000, .sel ⟨false, false, 0, true⟩ ⟨.g 2, .g 3, .imm 1, .p 4, .fp64, 0, 0, false, false, 0⟩),
    (0x03C0820378000005, .lea ⟨false, false, 0, true⟩ ⟨.g 2, .g 3, .latch 0, .g 0, .fp64, 0, 0, false, false, 5⟩),
    (0x0380F60300000000, .mov ⟨false, false, 0, true⟩ ⟨.j 6, .g 3, .g 0, .g 0, .fp64, 0, 0, false, false, 0⟩),
    (0x8380837600000000, .mov ⟨true, false, 0, true⟩ ⟨.g 3, .j 6, .g 0, .g 0, .fp64, 0, 0, false, false, 0⟩),
    (0x03908C0089ABCDEF, .movi ⟨false, false, 0, true⟩ ⟨.g 12, .g 0, 2309737967⟩),
    (0x03AA8C0001234567, .movhi ⟨false, true, 2, true⟩ ⟨.g 12, .g 0, 19088743⟩)] = true := by decide

theorem test_decode_queues1 : agrees [
    (0x0380ED8900000000, .movQueueMarker ⟨false, false, 0, true⟩ ⟨.q 5, .imm 9, .g 0, .g 0, .fp64, 0, 0, false, false, 0⟩),
    (0x8380896900000000, .movQueuePop ⟨true, false, 0, true⟩ ⟨.g 9, .q 1, .g 0, .g 0, .fp64, 0, 0, false, false, 0⟩),
    (0x2000000081300200, .qbind ⟨false, false, 0, false⟩ ⟨.g 0, .g 0, .imm 1, 3, 0, 0, 1, false, 0, false⟩),
    (0x2010830000000E00, .qtry ⟨false, false, 0, true⟩ ⟨.g 3, .g 0, .g 0, 0, 0, 0, 7, false, 0, false⟩),
    (0x20208A0000000400, .qcnt ⟨false, false, 0, true⟩ ⟨.g 10, .g 0, .g 0, 0, 0, 0, 2, false, 0, false⟩),
    (0x2030E31480012201, .copy ⟨false, false, 0, true⟩ ⟨.p 3, .g 20, .imm 0, 0, 4, 2, 1, false, 0, true⟩),
    (0x2040E31480012201, .mcast ⟨false, false, 0, true⟩ ⟨.p 3, .g 20, .imm 0, 0, 4, 2, 1, false, 0, true⟩),
    (0x2050E31480012201, .reduce ⟨false, false, 0, true⟩ ⟨.p 3, .g 20, .imm 0, 0, 4, 2, 1, false, 0, true⟩)] = true := by decide

theorem test_decode_queues2 : agrees [
    (0x2060E31480012201, .gemv ⟨false, false, 0, true⟩ ⟨.p 3, .g 20, .imm 0, 0, 4, 2, 1, false, 0, true⟩),
    (0x2080E31480012201, .migr ⟨false, false, 0, true⟩ ⟨.p 3, .g 20, .imm 0, 0, 4, 2, 1, false, 0, true⟩),
    (0x2070000900000800, .foot ⟨false, false, 0, false⟩ ⟨.g 0, .g 9, .g 0, 0, 0, 0, 4, false, 0, false⟩)] = true := by decide

theorem test_decode_compares1 : agrees [
    (0x0400E21617000200, .cmp ⟨false, false, 0, true⟩ ⟨.p 2, .g 22, .g 23, .g 0, .fp64, 2, 0, false, false, 0⟩),
    (0x0410E78117000500, .cmpu ⟨false, false, 0, true⟩ ⟨.p 7, .imm 1, .g 23, .g 0, .fp64, 5, 0, false, false, 0⟩),
    (0x0420E202047FFFFF, .cmpi ⟨false, false, 0, true⟩ ⟨.p 2, .g 2, 4, 8388607⟩),
    (0x0430E1627B000000, .pand ⟨false, false, 0, true⟩ ⟨.p 1, .p 2, .latch 3, .g 0, .fp64, 0, 0, false, false, 0⟩),
    (0x0440E1627B000000, .por ⟨false, false, 0, true⟩ ⟨.p 1, .p 2, .latch 3, .g 0, .fp64, 0, 0, false, false, 0⟩),
    (0x0450E1627B000000, .pxor ⟨false, false, 0, true⟩ ⟨.p 1, .p 2, .latch 3, .g 0, .fp64, 0, 0, false, false, 0⟩),
    (0x0460E56600000000, .pnot ⟨false, false, 0, true⟩ ⟨.p 5, .p 6, .g 0, .g 0, .fp64, 0, 0, false, false, 0⟩),
    (0x0470E56600000000, .pmov ⟨false, false, 0, true⟩ ⟨.p 5, .p 6, .g 0, .g 0, .fp64, 0, 0, false, false, 0⟩)] = true := by decide

theorem test_decode_control1 : agrees [
    (0x85020000FFFFFFFD, .bra ⟨true, false, 2, false⟩ ⟨.g 0, .g 0, 4294967293⟩),
    (0x8510000800000000, .brx ⟨true, false, 0, false⟩ ⟨.g 0, .g 8, .g 0, .g 0, .fp64, 0, 0, false, false, 0⟩),
    (0x85209F0000000002, .call ⟨true, false, 0, true⟩ ⟨.g 31, .g 0, 2⟩),
    (0x85309F8800000000, .callx ⟨true, false, 0, true⟩ ⟨.g 31, .imm 8, .g 0, .g 0, .fp64, 0, 0, false, false, 0⟩),
    (0x8540001F00000000, .ret ⟨true, false, 0, false⟩ ⟨.g 0, .g 31, .g 0, .g 0, .fp64, 0, 0, false, false, 0⟩),
    (0x855084000001FFF8, .jf ⟨true, false, 0, true⟩ ⟨.g 4, .g 0, 131064⟩),
    (0x8570000000000000, .exit ⟨true, false, 0, false⟩ ⟨.g 0, .g 0, .g 0, .g 0, .fp64, 0, 0, false, false, 0⟩),
    (0x0580000000000000, .nop ⟨false, false, 0, false⟩ ⟨.g 0, .g 0, .g 0, .g 0, .fp64, 0, 0, false, false, 0⟩)] = true := by decide

theorem test_decode_control2 : agrees [
    (0x0590000000000303, .rep ⟨false, false, 0, false⟩ ⟨.g 0, .g 0, 0, 771⟩),
    (0x0560E2040600013F, .cfetch ⟨false, false, 0, true⟩ ⟨.p 2, .g 4, .g 6, 0, 0, 0, 0, true, 31, true⟩),
    (0x0A00007100000000, .rje ⟨false, false, 0, false⟩ ⟨.g 0, .j 1, .g 0, .g 0, .fp64, 0, 0, false, false, 0⟩),
    (0x0A10007100000000, .rjw ⟨false, false, 0, false⟩ ⟨.g 0, .j 1, .g 0, .g 0, .fp64, 0, 0, false, false, 0⟩),
    (0x0A20007100000000, .rjx ⟨false, false, 0, false⟩ ⟨.g 0, .j 1, .g 0, .g 0, .fp64, 0, 0, false, false, 0⟩)] = true := by decide

theorem test_decode_system1 : agrees [
    (0x0600860000000081, .mfs ⟨false, false, 0, true⟩ ⟨.g 6, .g 0, 0, 129⟩),
    (0x0610001400000046, .mts ⟨false, false, 0, false⟩ ⟨.g 0, .g 20, 0, 70⟩),
    (0x0620000000000FFF, .trap ⟨false, false, 0, false⟩ ⟨.g 0, .g 0, 0, 4095⟩)] = true := by decide

theorem test_decode_floating1 : agrees [
    (0x08008402830010A0, .fadd ⟨false, false, 0, true⟩ ⟨.g 4, .g 2, .imm 3, .g 0, .fp32, 0, 5, false, false, 0⟩),
    (0x08108402830010A0, .fsub ⟨false, false, 0, true⟩ ⟨.g 4, .g 2, .imm 3, .g 0, .fp32, 0, 5, false, false, 0⟩),
    (0x08208402830010A0, .fmul ⟨false, false, 0, true⟩ ⟨.g 4, .g 2, .imm 3, .g 0, .fp32, 0, 5, false, false, 0⟩),
    (0x08408402830010A0, .fdiv ⟨false, false, 0, true⟩ ⟨.g 4, .g 2, .imm 3, .g 0, .fp32, 0, 5, false, false, 0⟩),
    (0x09208402830010A0, .fscale ⟨false, false, 0, true⟩ ⟨.g 4, .g 2, .imm 3, .g 0, .fp32, 0, 5, false, false, 0⟩),
    (0x0830840203073080, .ffma ⟨false, false, 0, true⟩ ⟨.g 4, .g 2, .g 3, .g 7, .bf16, 0, 4, false, false, 0⟩),
    (0x0850840200002000, .fsqrt ⟨false, false, 0, true⟩ ⟨.g 4, .g 2, .g 0, .g 0, .fp16, 0, 0, false, false, 0⟩),
    (0x0860840203000000, .fmin ⟨false, false, 0, true⟩ ⟨.g 4, .g 2, .g 3, .g 0, .fp64, 0, 0, false, false, 0⟩)] = true := by decide

theorem test_decode_floating2 : agrees [
    (0x0870840203000000, .fmax ⟨false, false, 0, true⟩ ⟨.g 4, .g 2, .g 3, .g 0, .fp64, 0, 0, false, false, 0⟩),
    (0x0880840200003000, .fabs ⟨false, false, 0, true⟩ ⟨.g 4, .g 2, .g 0, .g 0, .bf16, 0, 0, false, false, 0⟩),
    (0x0890840200003000, .fneg ⟨false, false, 0, true⟩ ⟨.g 4, .g 2, .g 0, .g 0, .bf16, 0, 0, false, false, 0⟩),
    (0x08A0E40203001700, .fcmp ⟨false, false, 0, true⟩ ⟨.p 4, .g 2, .g 3, .g 0, .fp32, 7, 0, false, false, 0⟩),
    (0x08B0840200009007, .fclass ⟨false, false, 0, true⟩ ⟨.g 4, .g 2, .g 0, .g 0, .b8uf, 0, 0, false, false, 7⟩),
    (0x08C08402000010B0, .frnd ⟨false, false, 0, true⟩ ⟨.g 4, .g 2, .g 0, .g 0, .fp32, 0, 5, true, false, 0⟩)] = true := by decide

theorem test_decode_conversions1 : agrees [
    (0x08D0840200001350, .fcvt ⟨false, false, 0, true⟩ ⟨.g 4, .g 2, .g 0, .g 0, .fp32, 3, 2, true, false, 0⟩),
    (0x08E084020000F220, .fcvti ⟨false, false, 0, true⟩ ⟨.g 4, .g 2, .g 0, .g 0, .uint64, 2, 1, false, false, 0⟩),
    (0x08F0820600001C00, .icvtf ⟨false, false, 0, true⟩ ⟨.g 2, .g 6, .g 0, .g 0, .fp32, 12, 0, false, false, 0⟩),
    (0x09008502000061B3, .cvt8 ⟨false, false, 0, true⟩ ⟨.g 5, .g 2, .g 0, .g 0, .b8s, 1, 5, true, false, 3⟩),
    (0x0910850281001861, .cvt8x ⟨false, false, 0, true⟩ ⟨.g 5, .g 2, .imm 1, .g 0, .fp32, 8, 3, false, false, 1⟩),
    (0x0930850200007102, .sclx ⟨false, false, 0, true⟩ ⟨.g 5, .g 2, .g 0, .g 0, .b8sf, 1, 0, false, false, 2⟩)] = true := by decide

theorem test_decode_vector1 : agrees [
    (0x1000C341FF00A008, .vadd ⟨false, false, 0, true⟩ ⟨.v 3, .v 1, .imm 127, .g 0, .int16, 0, 0, false, true, 0⟩),
    (0x1010C341FF00A008, .vsub ⟨false, false, 0, true⟩ ⟨.v 3, .v 1, .imm 127, .g 0, .int16, 0, 0, false, true, 0⟩),
    (0x1020C341FF00A008, .vmul ⟨false, false, 0, true⟩ ⟨.v 3, .v 1, .imm 127, .g 0, .int16, 0, 0, false, true, 0⟩),
    (0x1030C341425F1340, .vfma ⟨false, false, 0, true⟩ ⟨.v 3, .v 1, .v 2, .v 31, .fp32, 3, 2, false, false, 0⟩),
    (0x1040C3417A0010A0, .vdiv ⟨false, false, 0, true⟩ ⟨.v 3, .v 1, .latch 2, .g 0, .fp32, 0, 5, false, false, 0⟩),
    (0x1050C34100000000, .vsqrt ⟨false, false, 0, true⟩ ⟨.v 3, .v 1, .g 0, .g 0, .fp64, 0, 0, false, false, 0⟩),
    (0x1060C34142004000, .vmin ⟨false, false, 0, true⟩ ⟨.v 3, .v 1, .v 2, .g 0, .int8, 0, 0, false, false, 0⟩),
    (0x1070C34142004000, .vmax ⟨false, false, 0, true⟩ ⟨.v 3, .v 1, .v 2, .g 0, .int8, 0, 0, false, false, 0⟩)] = true := by decide

theorem test_decode_vector2 : agrees [
    (0x1080C3418500E000, .vand ⟨false, false, 0, true⟩ ⟨.v 3, .v 1, .imm 5, .g 0, .uint32, 0, 0, false, false, 0⟩),
    (0x1090C3418500E000, .vor ⟨false, false, 0, true⟩ ⟨.v 3, .v 1, .imm 5, .g 0, .uint32, 0, 0, false, false, 0⟩),
    (0x10A0C3418500E000, .vxor ⟨false, false, 0, true⟩ ⟨.v 3, .v 1, .imm 5, .g 0, .uint32, 0, 0, false, false, 0⟩),
    (0x10B0C3418500E000, .vshl ⟨false, false, 0, true⟩ ⟨.v 3, .v 1, .imm 5, .g 0, .uint32, 0, 0, false, false, 0⟩),
    (0x10C0C3418500E000, .vshr ⟨false, false, 0, true⟩ ⟨.v 3, .v 1, .imm 5, .g 0, .uint32, 0, 0, false, false, 0⟩),
    (0x10D0C3418500E000, .vsar ⟨false, false, 0, true⟩ ⟨.v 3, .v 1, .imm 5, .g 0, .uint32, 0, 0, false, false, 0⟩),
    (0x10E0D65055001600, .vcmp ⟨false, false, 0, true⟩ ⟨.v 22, .v 16, .v 21, .g 0, .fp32, 6, 0, false, false, 0⟩),
    (0x10F0C44546470000, .vsel ⟨false, false, 0, true⟩ ⟨.v 4, .v 5, .v 6, .v 7, .fp64, 0, 0, false, false, 0⟩)] = true := by decide

theorem test_decode_vector3 : agrees [
    (0x1100C05200000C00, .vcvt ⟨false, false, 0, true⟩ ⟨.v 0, .v 18, .g 0, .g 0, .fp64, 12, 0, false, false, 0⟩),
    (0x1110C14203836104, .vcvt8 ⟨false, false, 0, true⟩ ⟨.v 1, .v 2, .g 3, .imm 3, .b8s, 1, 0, false, false, 4⟩),
    (0x1120C1020000C000, .vsplat ⟨false, false, 0, true⟩ ⟨.v 1, .g 2, .g 0, .g 0, .int64, 0, 0, false, false, 0⟩),
    (0x113081428300C000, .vext ⟨false, false, 0, true⟩ ⟨.g 1, .v 2, .imm 3, .g 0, .int64, 0, 0, false, false, 0⟩),
    (0x1140C1028300C000, .vins ⟨false, false, 0, true⟩ ⟨.v 1, .g 2, .imm 3, .g 0, .int64, 0, 0, false, false, 0⟩),
    (0x1150C1420000F000, .vmov ⟨false, false, 0, true⟩ ⟨.v 1, .v 2, .g 0, .g 0, .uint64, 0, 0, false, false, 0⟩)] = true := by decide

theorem test_decode_lanes1 : agrees [
    (0x1200C14281000004, .vshfl ⟨false, false, 0, true⟩ ⟨.v 1, .v 2, .imm 1, .g 0, .fp64, 0, 0, false, false, 4⟩),
    (0x1210810203000002, .gshfl ⟨false, false, 0, true⟩ ⟨.g 1, .g 2, .g 3, .g 0, .fp64, 0, 0, false, false, 2⟩),
    (0x12218504FF000000, .ballot ⟨false, false, 1, true⟩ ⟨.g 5, .g 4, .imm 127, .g 0, .fp64, 0, 0, false, false, 0⟩),
    (0x1230C24100001000, .vred ⟨false, false, 0, true⟩ ⟨.v 2, .v 1, .g 0, .g 0, .fp32, 0, 0, false, false, 0⟩),
    (0x1240C2410000C304, .vreds ⟨false, false, 0, true⟩ ⟨.v 2, .v 1, .g 0, .g 0, .int64, 3, 0, false, false, 4⟩),
    (0x125084040A900004, .vbfly ⟨false, false, 0, true⟩ ⟨.g 4, .g 4, .g 10, .imm 16, .fp64, 0, 0, false, false, 4⟩),
    (0x9260C54148000FF1, .vtbl ⟨true, false, 0, true⟩ ⟨.v 5, .v 1, .v 8, .g 0, .fp64, 255, false, false, 1⟩),
    (0x1270C3499F000000, .vbcast ⟨false, false, 0, true⟩ ⟨.v 3, .v 9, .imm 31, .g 0, .fp64, 0, 0, false, false, 0⟩)] = true := by decide

theorem test_decode_matrix1 : agrees [
    (0x9400000000000001, .mmodeOn ⟨true, false, 0, false⟩ ⟨.g 0, .g 0, .g 0, .g 0, .fp64, 0, 0, false, false, 1⟩),
    (0x9400000000000000, .mmodeOff ⟨true, false, 0, false⟩ ⟨.g 0, .g 0, .g 0, .g 0, .fp64, 0, 0, false, false, 0⟩),
    (0x1410D840480AB805, .mma ⟨false, false, 0, true⟩ ⟨.v 24, .v 0, .v 8, .g 10, 23, 0, false, 5⟩),
    (0x1420D841480A0081, .mmai ⟨false, false, 0, true⟩ ⟨.v 24, .v 1, .v 8, .g 10, 0, 8, false, 1⟩),
    (0x1430D80000000002, .mzero ⟨false, false, 0, true⟩ ⟨.v 24, .g 0, .g 0, .g 0, .fp64, 0, 0, false, false, 2⟩),
    (0x9440000000000010, .mdrain ⟨true, false, 0, false⟩ ⟨.g 0, .g 0, .g 0, .g 0, .fp64, 0, 0, true, false, 0⟩),
    (0x1450870000000000, .mstat ⟨false, false, 0, true⟩ ⟨.g 7, .g 0, .g 0, .g 0, .fp64, 0, 0, false, false, 0⟩)] = true := by decide

theorem test_decode_scalarmem1 : agrees [
    (0x0630840700C80BFF, .ldh ⟨false, false, 0, true⟩ ⟨.g 4, .g 7, .g 0, 6, 1, 0, 2, 1023⟩),
    (0x06400579007011FF, .sth ⟨false, false, 0, false⟩ ⟨.g 5, .latch 1, .g 0, 3, 2, 0, 4, 511⟩),
    (0x1800840700C90BFF, .ldg ⟨false, false, 0, true⟩ ⟨.g 4, .g 7, .g 0, 6, 1, 1, 2, 1023⟩),
    (0x18100579007111FF, .stg ⟨false, false, 0, false⟩ ⟨.g 5, .latch 1, .g 0, 3, 2, 1, 4, 511⟩),
    (0x1820840700CA0BFF, .ldz ⟨false, false, 0, true⟩ ⟨.g 4, .g 7, .g 0, 6, 1, 2, 2, 1023⟩),
    (0x18300579007211FF, .stz ⟨false, false, 0, false⟩ ⟨.g 5, .latch 1, .g 0, 3, 2, 2, 4, 511⟩),
    (0x1840840700CB0BFF, .ldm ⟨false, false, 0, true⟩ ⟨.g 4, .g 7, .g 0, 6, 1, 3, 2, 1023⟩),
    (0x18500579007311FF, .stm ⟨false, false, 0, false⟩ ⟨.g 5, .latch 1, .g 0, 3, 2, 3, 4, 511⟩)] = true := by decide

theorem test_decode_scalarmem2 : agrees [
    (0x1860840700CC0BFF, .ldx ⟨false, false, 0, true⟩ ⟨.g 4, .g 7, .g 0, 6, 1, 4, 2, 1023⟩),
    (0x18700579007411FF, .stx ⟨false, false, 0, false⟩ ⟨.g 5, .latch 1, .g 0, 3, 2, 4, 4, 511⟩)] = true := by decide

theorem test_decode_vectormem1 : agrees [
    (0x1300C41400E00002, .vldh ⟨false, false, 0, true⟩ ⟨.v 4, .g 20, .g 0, 7, 0, 0, 0, 2⟩),
    (0x1310441400F00C00, .vsth ⟨false, false, 0, false⟩ ⟨.v 4, .g 20, .g 0, 7, 2, 0, 3, 0⟩),
    (0x1880C41400E10002, .vldg ⟨false, false, 0, true⟩ ⟨.v 4, .g 20, .g 0, 7, 0, 1, 0, 2⟩),
    (0x1890441400F10C00, .vstg ⟨false, false, 0, false⟩ ⟨.v 4, .g 20, .g 0, 7, 2, 1, 3, 0⟩),
    (0x18A0C41400E20002, .vldz ⟨false, false, 0, true⟩ ⟨.v 4, .g 20, .g 0, 7, 0, 2, 0, 2⟩),
    (0x18B0441400F20C00, .vstz ⟨false, false, 0, false⟩ ⟨.v 4, .g 20, .g 0, 7, 2, 2, 3, 0⟩),
    (0x18C0C41400E30002, .vldm ⟨false, false, 0, true⟩ ⟨.v 4, .g 20, .g 0, 7, 0, 3, 0, 2⟩),
    (0x18D0441400F30C00, .vstm ⟨false, false, 0, false⟩ ⟨.v 4, .g 20, .g 0, 7, 2, 3, 3, 0⟩)] = true := by decide

theorem test_decode_vectormem2 : agrees [
    (0x1900C41400E40002, .vldx ⟨false, false, 0, true⟩ ⟨.v 4, .g 20, .g 0, 7, 0, 4, 0, 2⟩),
    (0x1910441400F40C00, .vstx ⟨false, false, 0, false⟩ ⟨.v 4, .g 20, .g 0, 7, 2, 4, 3, 0⟩),
    (0x1320C41443400000, .vldhx ⟨false, false, 0, true⟩ ⟨.v 4, .g 20, .v 3, 2, 0, 0, 0, 0⟩),
    (0x1330441443600000, .vsthx ⟨false, false, 0, false⟩ ⟨.v 4, .g 20, .v 3, 3, 0, 0, 0, 0⟩),
    (0x18E0C41443430000, .vldmx ⟨false, false, 0, true⟩ ⟨.v 4, .g 20, .v 3, 2, 0, 3, 0, 0⟩),
    (0x18F0441443630000, .vstmx ⟨false, false, 0, false⟩ ⟨.v 4, .g 20, .v 3, 3, 0, 3, 0, 0⟩)] = true := by decide

theorem test_decode_lines1 : agrees [
    (0x1980840500E10000, .pprobe ⟨false, false, 0, true⟩ ⟨.g 4, .g 5, .g 0, 7, 0, 1, 0, 0⟩),
    (0x1990000500E00000, .prel ⟨false, false, 0, false⟩ ⟨.g 0, .g 5, .g 0, 7, 0, 0, 0, 0⟩),
    (0x19A0000500F10800, .pclr ⟨false, false, 0, false⟩ ⟨.g 0, .g 5, .g 0, 7, 2, 1, 2, 0⟩),
    (0x9C00E20000017000, .fence ⟨true, false, 0, true⟩ ⟨.p 2, .g 0, .g 0, 0, 5, 3, 0, false, 0, false⟩)] = true := by decide

theorem test_decode_atomics1 : agrees [
    (0x1C10851406400000, .aadd ⟨false, false, 0, true⟩ ⟨.g 5, .g 20, .g 6, 2, 0, 0, 0, 0⟩),
    (0x1C208514866913FF, .amin ⟨false, false, 0, true⟩ ⟨.g 5, .g 20, .imm 6, 3, 1, 1, 4, 1023⟩),
    (0x1C308514065213FE, .amax ⟨false, false, 0, true⟩ ⟨.g 5, .g 20, .g 6, 2, 2, 2, 4, 1022⟩),
    (0x1C408514867B13FD, .aand ⟨false, false, 0, true⟩ ⟨.g 5, .g 20, .imm 6, 3, 3, 3, 4, 1021⟩),
    (0x1C508514064403FC, .aor ⟨false, false, 0, true⟩ ⟨.g 5, .g 20, .g 6, 2, 0, 4, 0, 1020⟩),
    (0x1C608514866D13FB, .axor ⟨false, false, 0, true⟩ ⟨.g 5, .g 20, .imm 6, 3, 1, 5, 4, 1019⟩),
    (0x1C708514065013FA, .axchg ⟨false, false, 0, true⟩ ⟨.g 5, .g 20, .g 6, 2, 2, 0, 4, 1018⟩),
    (0x1C808514867913F9, .acas ⟨false, false, 0, true⟩ ⟨.g 5, .g 20, .imm 6, 3, 3, 1, 4, 1017⟩)] = true := by decide

theorem test_decode_atomics2 : agrees [
    (0x1C908514064203F8, .afadd ⟨false, false, 0, true⟩ ⟨.g 5, .g 20, .g 6, 2, 0, 2, 0, 1016⟩),
    (0x1CA08514866B13F7, .ainc ⟨false, false, 0, true⟩ ⟨.g 5, .g 20, .imm 6, 3, 1, 3, 4, 1015⟩)] = true := by decide

theorem test_decode_launches1 : agrees [
    (0x2200E42000B00001, .launch ⟨false, false, 0, true⟩ ⟨.p 4, .g 32, .g 0, 11, 0, 0, 0, false, 0, true⟩),
    (0x2210890806070400, .tsplit ⟨false, false, 0, true⟩ ⟨.g 9, .g 8, .g 6, .g 7, .fp64, 4, 0, false, false, 0⟩),
    (0x2220000500000000, .cancel ⟨false, false, 0, false⟩ ⟨.g 0, .g 5, .g 0, 0, 0, 0, 0, false, 0, false⟩)] = true := by decide

theorem test_decode_futures1 : agrees [
    (0x2400861400012000, .finit ⟨false, false, 0, true⟩ ⟨.g 6, .g 20, .g 0, 0, 4, 2, 0, false, 0, false⟩),
    (0x2410861400012000, .fres ⟨false, false, 0, true⟩ ⟨.g 6, .g 20, .g 0, 0, 4, 2, 0, false, 0, false⟩),
    (0x2450861400012000, .ffail ⟨false, false, 0, true⟩ ⟨.g 6, .g 20, .g 0, 0, 4, 2, 0, false, 0, false⟩),
    (0x24309A1400011106, .fwait ⟨false, false, 0, true⟩ ⟨.g 26, .g 20, .g 0, 0, 4, 1, 0, true, 3, false⟩),
    (0x24409A1400011106, .fpoll ⟨false, false, 0, true⟩ ⟨.g 26, .g 20, .g 0, 0, 4, 1, 0, true, 3, false⟩),
    (0x2420001407B12000, .freg ⟨false, false, 0, false⟩ ⟨.g 0, .g 20, .g 7, 11, 4, 2, 0, false, 0, false⟩)] = true := by decide

theorem test_decode_phasers1 : agrees [
    (0x2460810281400000, .phreg ⟨false, false, 0, true⟩ ⟨.g 1, .g 2, .imm 1, 4, 0, 0, 0, false, 0, false⟩),
    (0x2470000200100000, .phdrop ⟨false, false, 0, false⟩ ⟨.g 0, .g 2, .g 0, 1, 0, 0, 0, false, 0, false⟩),
    (0x2480810200202000, .pharr ⟨false, false, 0, true⟩ ⟨.g 1, .g 2, .g 0, 2, 0, 2, 0, false, 0, false⟩),
    (0x2490810203301000, .phwait ⟨false, false, 0, true⟩ ⟨.g 1, .g 2, .g 3, 3, 0, 1, 0, false, 0, false⟩),
    (0x24A08C1E00203000, .phnext ⟨false, false, 0, true⟩ ⟨.g 12, .g 30, .g 0, 2, 0, 3, 0, false, 0, false⟩),
    (0x24B0000283500000, .phset ⟨false, false, 0, false⟩ ⟨.g 0, .g 2, .imm 3, 5, 0, 0, 0, false, 0, false⟩),
    (0x24C0000203100000, .phexp ⟨false, false, 0, false⟩ ⟨.g 0, .g 2, .g 3, 1, 0, 0, 0, false, 0, false⟩),
    (0xA4D0000000803000, .bar ⟨true, false, 0, false⟩ ⟨.g 0, .g 0, .g 0, 8, 0, 3, 0, false, 0, false⟩)] = true := by decide

theorem test_decode_handlers1 : agrees [
    (0xA800000000000000, .rteRetry ⟨true, false, 0, false⟩ ⟨.g 0, .g 0, .g 0, .g 0, .fp64, 0, 0, false, false, 0⟩),
    (0xA800000000000001, .rteSkip ⟨true, false, 0, false⟩ ⟨.g 0, .g 0, .g 0, .g 0, .fp64, 0, 0, false, false, 1⟩),
    (0x281000FF00000000, .tfix ⟨false, false, 0, false⟩ ⟨.g 0, .imm 127, .g 0, .g 0, .fp64, 0, 0, false, false, 0⟩),
    (0x2820001400000000, .ctxsvSave ⟨false, false, 0, false⟩ ⟨.g 0, .g 20, .g 0, 0, 0, 0, 0, false, 0, false⟩),
    (0xAC00880000000000, .errqpop ⟨true, false, 0, true⟩ ⟨.g 8, .g 0, .g 0, 0, 0, 0, 0, false, 0, false⟩)] = true := by decide

theorem test_decode_dual1 : agrees [
    (0xC088406020512140, .dualWord true ⟨.add, 0, true, .g 4, .g 6, 0⟩ ⟨.fadd, 2, true, .g 9, .g 10, 0⟩)] = true := by decide


/-! The well-formedness checks: an ill-formed term for each. -/

/-- None of the instructions is well formed. -/
def refused (l : List Instr) : Bool := l.all fun i => !i.wf

/-- DST: another register class, a result where none is written, W where it is unused, a data register with W, a non-blocking
predicate without NB, a discarded result with a register (R24, R39, R47, R247, R297). -/
theorem test_wf_destination : refused [
    .add hw (opA (.p 1) (.g 1) (.g 2)), .cmp hw (opA (.g 1) (.g 1) (.g 2)), .vadd hw (opA (.g 1) (.v 1) (.v 2)),
    .nop h0 (opA (.g 1) (.g 0)), .nop hw (opA (.g 0) (.g 0)), .sth hw (opM (.g 4) (.g 1) 2 0),
    .vsth h0 (opM (.g 4) (.g 1) 7 0), .launch hw (opX (.p 1) (.g 1)), .finit h0 (opX (.g 4) (.g 1)),
    .errqpop hw (opX (.g 57) (.g 0)), .errqpop h0 (opX (.g 8) (.g 0)), .mstat h0 (opA (.g 1) (.g 0))] = true := by decide

/-- Sources: another register class, a field that the row does not use, an immediate where none may stand (R45 to R47). -/
theorem test_wf_sources : refused [
    .add hw (opA (.g 1) (.v 1) (.g 2)), .add hw (opA (.g 1) (.g 1) (.g 2) (.g 3)), .not hw (opA (.g 1) (.g 1) (.g 2)),
    .vsel hw (opA (.v 1) (.imm 1) (.v 2) (.v 3)), .pand hw (opA (.p 1) (.g 1) (.p 2)), .rje h0 (opA (.g 0) (.g 1)),
    .rep h0 ⟨.g 0, .g 1, 0, 0⟩, .ldm hw (opM (.g 1) (.imm 8) 3 3), .vldhx hw (opM (.v 1) (.g 1) 3 0 0 (.g 2)),
    .copy h0 { opX (.g 0) (.latch 1) with ord := 2 }, .mov hw (opA (.v 1) (.v 2)), .movQueuePop hw (opA (.q 1) (.q 2)),
    .movQueueMarker h0 (opA (.g 1) (.g 2)), .ballot hw (opA (.g 1) (.p 1) (.g 2)), .mma hw ⟨.v 24, .v 0, .v 1, .v 10, 0, 0, false, 0⟩] = true := by
  decide

/-- TY, CC, RM, ADV, SAT and IS outside the row's codes (R36, R77, R99, R116, R149, R160, R162). -/
theorem test_wf_modifiers : refused [
    .add hw { opA (.g 1) (.g 1) (.g 2) with ty := .fp32 }, .cmp hw { opA (.p 1) (.g 1) (.g 2) with cc := 6 },
    .fcmp hw { opA (.p 1) (.g 1) (.g 2) with cc := 8 }, .fadd hw { opA (.g 1) (.g 1) (.g 2) with rm := 6 },
    .fadd hw { opA (.g 1) (.g 1) (.g 2) with adv := true }, .fadd hw { opA (.g 1) (.g 1) (.g 2) with sat := true },
    .fadd hw { opA (.g 1) (.g 1) (.g 2) with ty := .int8 }, .gshfl hw { opA (.g 1) (.g 1) (.g 2) with is := 5 },
    .vred hw { opA (.v 1) (.v 2) with cc := 6 }, .vred hw { opA (.v 1) (.v 2) with cc := 3 },
    .vred hw { opA (.v 1) (.v 2) with rm := 5 }, .vadd hw { opA (.v 1) (.v 2) (.v 3) with sat := true },
    .vadd hw { opA (.v 1) (.v 2) (.v 3) with ty := .int8, rm := 1 }, .vand hw (opA (.v 1) (.v 2) (.v 3)),
    .cvt8 hw { opA (.g 1) (.g 1) with ty := .b8s }, .fclass hw { opA (.g 1) (.g 1) with is := 1 },
    .vcmp hw { opA (.v 1) (.v 2) (.v 3) with ty := .int8, cc := 6 }, .mmodeOn h0 (opA (.g 0) (.g 0)),
    .mzero hw { opA (.v 24) (.g 0) with is := 3 }] = true := by decide

/-- The pairs of types and parts (R151, R155, R156), the bytes of VTBL (R166), the window of an accumulator and the operands
of an MMA (R174, R178, R187). -/
theorem test_wf_types : refused [
    .vfma hw { opA (.v 1) (.v 2) (.v 3) (.v 4) with ty := .fp64, cc := 1 }, .vfma hw { opA (.v 1) (.v 2) (.v 3) (.v 4) with ty := .int32, cc := 11 },
    .vcvt hw { opA (.v 1) (.v 2) with ty := .fp64, cc := 1, is := 2 }, .vcvt hw { opA (.v 1) (.v 2) with sat := true },
    .vcvt8 hw { opA (.v 1) (.v 2) (.g 0) (.imm 8) with ty := .b8s, cc := 0, is := 1 }, .vcvt8 hw { opA (.v 1) (.v 2) (.g 0) (.imm 0) with cc := 1, is := 1 },
    .vtbl hw ⟨.v 1, .v 2, .v 31, .g 0, .fp64, 0, false, false, 1⟩, .vtbl hw ⟨.v 1, .v 2, .v 0, .g 0, .fp64, 0, false, false, 3⟩,
    .mzero hw { opA (.v 23) (.g 0) with is := 0 }, .mzero hw { opA (.v 25) (.g 0) with is := 1 },
    .mma hw ⟨.v 23, .v 0, .v 1, .g 10, 0, 0, false, 0⟩, .mma hw ⟨.v 24, .v 24, .v 1, .g 10, 0, 0, false, 0⟩,
    .mma hw ⟨.v 24, .v 0, .v 1, .g 62, 0, 0, false, 0⟩, .mma hw ⟨.v 24, .v 0, .v 1, .g 10, 0, 1, false, 0⟩] = true := by decide

/-- Immediates, E, and the numbers of special registers (R10, R11, R73, R80, R82, R83, R87, R91). -/
theorem test_wf_immediates : refused [
    .shli hw ⟨.g 1, .g 1, 0, 64⟩, .addi hw ⟨.g 1, .g 1, 1, 0⟩, .cmpi hw ⟨.p 1, .g 1, 6, 0⟩, .bra h0 ⟨.g 0, .g 0, 1⟩,
    .jf ⟨true, false, 0, false⟩ ⟨.g 0, .g 0, 4⟩, .jf ⟨true, false, 0, false⟩ ⟨.g 0, .g 0, 0x20000⟩, .exit h0 (opA (.g 0) (.g 0)),
    .rep ⟨true, false, 0, false⟩ ⟨.g 0, .g 0, 0, 1⟩, .rep h0 ⟨.g 0, .g 0, 0, 1024⟩, .mfs hw ⟨.g 1, .g 0, 0, 0x009⟩,
    .mts h0 ⟨.g 0, .g 1, 0, 0x000⟩, .trap h0 ⟨.g 0, .g 0, 0, 4096⟩] = true := by decide

/-- SZ, SP, ORD, SCOPE and DISP of format M (R39 to R44, R210, R233). -/
theorem test_wf_accesses : refused [
    .ldh hw (opM (.g 1) (.g 2) 7 0), .sth h0 (opM (.g 1) (.g 2) 4 0), .ldh hw (opM (.g 1) (.g 2) 3 1), .vldh hw (opM (.v 1) (.g 2) 3 0),
    .vldhx hw (opM (.v 1) (.g 2) 3 0 1 (.v 2)), .ldm hw { opM (.g 1) (.g 2) 3 3 with ord := 2 }, .stm h0 { opM (.g 1) (.g 2) 3 3 with ord := 1 },
    .ldm hw { opM (.g 1) (.g 2) 3 3 with scope := 4 }, .ldm hw { opM (.g 1) (.g 2) 3 3 with ord := 1, scope := 6 },
    .aadd hw (opM (.g 1) (.g 2) 1 3), .aadd hw (opM (.g 1) (.g 2) 3 6), .pprobe hw (opM (.g 1) (.g 2) 7 2)] = true := by decide

/-- LVL, NB, QN, LS, LANE, ORD and the groups of format X, and the words that may not be predicated (R43, R44, R176, R229, R317,
R331). -/
theorem test_wf_commands : refused [
    .qbind h0 (opX (.g 0) (.g 0) (.imm 1) 6), .qtry hw { opX (.g 1) (.g 0) with nb := true }, .finit h0 { opX (.g 0) (.g 1) with qn := 1 },
    .qtry hw { opX (.g 1) (.g 0) with ls := true, lane := 32 }, .qtry hw { opX (.g 1) (.g 0) with lane := 1 },
    .copy h0 (opX (.g 0) (.g 20)),
    .freg h0 { opX (.g 0) (.g 20) (.g 1) with ord := 2, scope := 5 }, .fence h0 { opX (.g 0) (.g 0) with ord := 0 },
    .fence h0 { opX (.g 0) (.g 0) with ord := 2, scope := 6 }, .bar h0 { opX (.g 0) (.g 0) with ord := 2 }, .phwait hw { opX (.g 1) (.g 1) with ord := 2 },
    .bar ⟨false, false, 1, false⟩ (opX (.g 0) (.g 0)), .rteRetry ⟨true, false, 1, false⟩ (opA (.g 0) (.g 0)),
    .mmodeOff ⟨false, true, 0, false⟩ (opA (.g 0) (.g 0))] = true := by decide

/-- The dual word: a slot's own fields and classes, and the pairing rules (R49, R50). -/
theorem test_wf_dual : refused [
    .dualWord false ⟨.add, 0, true, .v 1, .g 1, 0⟩ ⟨.nop, 0, false, .g 0, .g 0, 0⟩,
    .dualWord false ⟨.add, 0, true, .g 1, .g 2, 1⟩ ⟨.nop, 0, false, .g 0, .g 0, 0⟩,
    .dualWord false ⟨.nop, 1, false, .g 0, .g 0, 0⟩ ⟨.nop, 0, false, .g 0, .g 0, 0⟩,
    .dualWord false ⟨.add, 0, true, .g 1, .g 2, 0⟩ ⟨.sub, 0, true, .g 1, .g 3, 0⟩,
    .dualWord false ⟨.vadd, 0, true, .v 1, .v 2, 0⟩ ⟨.fadd, 0, true, .g 1, .g 3, 0⟩] = true := by decide

/-! Single steps, with the values that the rules give. -/

/-- ADD wraps, and clamps with SAT (R64): 2^63 − 1 + 1. -/
theorem test_add_wraps : gives (exec (.add hw (opA (.g 3) (.g 1) (.g 2))) (two 0x7FFFFFFFFFFFFFFF 1)) (fun t =>
    (t.fl.lane 1).getG 3 == 0x8000000000000000 && (t.fl.lane 1).istat == 0) = true := by decide
theorem test_add_clamps : gives (exec (.add hw { opA (.g 3) (.g 1) (.g 2) with sat := true }) (two 0x7FFFFFFFFFFFFFFF 1)) (fun t =>
    (t.fl.lane 1).getG 3 == 0x7FFFFFFFFFFFFFFF && (t.fl.lane 1).istat == 4) = true := by decide

/-- g0 discards its write, and the latch still takes the result (R7, R22). -/
theorem test_g0_stays_zero : gives (exec (.add hw (opA (.g 0) (.g 1) (.g 2))) (two 5 7)) (fun t =>
    (t.fl.lane 0).getG 0 == 0 && (t.fl.lane 0).lat.l0 == some (.gen 12)) = true := by decide

/-- REM of −7 by 2 is −1 (R68): the remainder has the sign of the dividend. -/
theorem test_rem_sign : gives (exec (.rem hw (opA (.g 3) (.g 1) (.g 2))) (two 0xFFFFFFFFFFFFFFF9 2)) (fun t =>
    (t.fl.lane 0).getG 3 == 0xFFFFFFFFFFFFFFFF) = true := by decide

/-- SHR by 64 gives 0 and SAR by 64 the sign (R72). -/
theorem test_shr_full : gives (exec (.shr hw (opA (.g 3) (.g 1) (.g 2))) (two 0x8000000000000000 64)) (fun t =>
    (t.fl.lane 0).getG 3 == 0) = true := by decide
theorem test_sar_full : gives (exec (.sar hw (opA (.g 3) (.g 1) (.g 2))) (two 0x8000000000000000 64)) (fun t =>
    (t.fl.lane 0).getG 3 == 0xFFFFFFFFFFFFFFFF) = true := by decide

/-- FDIV of 1.0 by 0.0 in FP64 is +infinity with DZ (R109, R113). -/
theorem test_fdiv_by_zero : gives (exec (.fdiv hw (opA (.g 3) (.g 1) (.g 2))) (two 0x3FF0000000000000 0)) (fun t =>
    (t.fl.lane 0).getG 3 == 0x7FF0000000000000 && (t.fl.lane 0).fpstat == 2) = true := by decide

/-- TRAP 5 outside a handler: HND, TCAUSE, TMASK and TVAL (R91, R325). -/
theorem test_trap : gives (exec (.trap h0 ⟨.g 0, .g 0, 0, 5⟩) base) (fun t =>
    t.fl.hnd && t.fl.tcause == BitVec.setWidth 10 (Cause.code .softwareTrap) && t.fl.tmask == 3 && (t.fl.lane 1).tval == 5) = true := by decide

/-- A store and the line's owner tag: the byte at the lowest address is the least significant (R2, R93, R195). -/
theorem test_sth_order : gives (exec (.sth h0 (opM (.g 2) (.g 1) 2 0)) (two 0x100 0x11223344)) (fun t =>
    readByte t (hallKey 0 0x100) == 0x44 && readByte t (hallKey 0 0x103) == 0x11 &&
      decide ((lineSt t (lineOf (hallKey 0 0x100))).owner = some 0)) = true := by decide

/-- A misaligned hall load traps with its address in TVAL (R93, R325). -/
theorem test_ldh_misaligned : gives (exec (.ldh hw (opM (.g 3) (.g 1) 3 0)) (two 0x101 0)) (fun t =>
    t.fl.hnd && t.fl.tcause == BitVec.setWidth 10 (Cause.code .align) && (t.fl.lane 0).tval == 0x101) = true := by decide

/-- A step fetches the word at the pc and runs it: ADDI g3, g0, 7 placed for the first step after reset. -/
theorem test_step_runs : gives (step (State.reset.withFetchWord 64 0x0110830000000007)) (fun t =>
    (t.fl.lane 0).getG 3 == 7) = true := by decide

end Sys2Proof.Tests
end

