-- ==== Sys2Proof/Tests/WitAgents.lean ====
section
/-! SUPPORT. Witnesses: for the statements about engine commands at work, migration, segment fetches, launches and placement, states and
operands that meet the hypotheses of each, clause by clause. -/

namespace Sys2Proof.Tests

set_option Elab.async false
set_option linter.unusedSimpArgs false
set_option linter.unusedTactic false
set_option linter.unreachableTactic false

open Sys2Proof Sys2Proof.Machine

/-- An accepted command of the flight of lane 0, with its class, level and registers. -/
def cmdOf (cls : BitVec 3) (lvl : BitVec 4) (g : List Word) (started : Bool) : Cmd :=
  { id := 7, cls := cls, flight := ⟨0, 0, 0⟩, ctx := 0, priv := false, ginst := 1, member := none, qn := 1, lvl := lvl, seq := 0, scope := 0,
    fut := 0, regs := g, foots := [], order := 7, started := started, done := [], left := 8, waits := [], open_ := [], got := [], fails := [],
    flg := 0, satf := false, begun := [], landed := [], migr := none, result := none, futWaits := [] }

def withCmd (c : Cmd) : State := { mapped with cmds := [c] }

/-- EngineEvents, the start: a command that nothing precedes, one whose instance is cancelled, and one that an earlier command of its flight
clashes with. -/
theorem witness_EngineEvents_start :
    (let c := cmdOf 1 3 [0, 0x40, 0x2000000000000008] false
     cmdById (withCmd c) 7 = some c ∧ c.started = false ∧ c.result = none ∧ c.cls ≠ 5 ∧ c.ginst ∉ (ctxOf (withCmd c) 0).cancels ∧
       gemvParked (withCmd c) c = false ∧ hazard (withCmd c) c = false) ∧
    (let c := cmdOf 1 3 [0, 0x40, 0x2000000000000008] false
     c.ginst ∈ (ctxOf (setCtx base 0 { Context.blank with cancels := [1] }) 0).cancels) ∧
    let b := { cmdOf 1 3 [0, 0x40, 0x2000000000000008] true with id := 3, order := 3 }
    let c := cmdOf 1 3 [0x40, 0, 0x0400000000000008] false
    b.order < c.order ∧ b.flight.die = c.flight.die ∧ sameTeam b c = true ∧ b.result = none ∧
      hazard { mapped with cmds := [b, c] } c = true := by
  and_intros <;> decide +kernel

/-- A copy from the gallery to the hall; a copy whose source another context owns. -/
def copying : Cmd := cmdOf 1 3 [0, 0x40, 0x0400000000000008] true
def foreign : State := setLine (withCmd copying) (lineOf (galleryKey 0 0x40)) ⟨some 2, true, true⟩

/-- The flat address of a piece's access that is made here, and the cause of one that fails. -/
def hereAt : PieceAt → Option Nat
  | .chip k | .main k _ => some k
  | _ => none
def failOf : PieceAt → Option Cause
  | .fail c => some c
  | _ => none
theorem here_of {a : PieceAt} {k : Nat} (h : hereAt a = some k) : a.Here k := by
  cases a <;> simp_all [hereAt, PieceAt.Here]
theorem fail_of {a : PieceAt} {c : Cause} (h : failOf a = some c) : a = .fail c := by
  cases a <;> simp_all [failOf]

/-- EngineEvents, a piece of a copy: ready, both its places here; and one that fails its check. -/
theorem witness_EngineEvents_copy :
    cmdById (withCmd copying) 7 = some copying ∧ pieceReady (withCmd copying) copying 0 = true ∧ copying.migr = none ∧ copying.cls ∈ [(1 : BitVec 3), 2] ∧
    (∃ x, copyPiece (withCmd copying) copying 0 = some x ∧ (pieceCheck (withCmd copying) copying .rd x.src).Here (galleryKey 0 0x40) ∧
      (pieceCheck (withCmd copying) copying .wr x.dst).Here (hallKey 0 0) ∧ pieceCheck foreign copying .rd x.src = .fail .owner) ∧
    lineOf (hallKey 0 0) ∉ mapped.poison ∧ copying.answer 0 1 = none := by
  refine ⟨by decide +kernel, by decide +kernel, rfl, by decide, ?_, by decide +kernel, by decide +kernel⟩
  have h1 : ((copyPiece (withCmd copying) copying 0).map fun x => hereAt (pieceCheck (withCmd copying) copying .rd x.src)) =
      some (some (galleryKey 0 0x40)) := by decide +kernel
  have h2 : ((copyPiece (withCmd copying) copying 0).map fun x => hereAt (pieceCheck (withCmd copying) copying .wr x.dst)) =
      some (some (hallKey 0 0)) := by decide +kernel
  have h3 : ((copyPiece (withCmd copying) copying 0).map fun x => failOf (pieceCheck foreign copying .rd x.src)) = some (some .owner) := by
    decide +kernel
  cases h : copyPiece (withCmd copying) copying 0 with
  | none => rw [h] at h1; cases h1
  | some x =>
    rw [h] at h1 h2 h3
    exact ⟨x, rfl, here_of (Option.some.inj h1), here_of (Option.some.inj h2), fail_of (Option.some.inj h3)⟩

/-- EngineEvents, a piece of a REDUCE of two halls to the gallery. -/
def reducing : Cmd := cmdOf 3 2 [0, 0x40, 0x0040000000000008] true
theorem witness_EngineEvents_reduce :
    pieceReady (withCmd reducing) reducing 0 = true ∧ (reducing.reads (withCmd reducing)).length = reducing.kids ∧ reducing.kids ≤ 1024 ∧
    reducing.kids = 2 ∧ (∀ i, i < 2 → ∀ r, (reducing.reads (withCmd reducing))[i]? = some r →
      (pieceCheck (withCmd reducing) reducing .rd (r.1, r.2.1, 0, 8)).Here (hallKey i 0x40)) ∧
    (pieceCheck (withCmd reducing) reducing .wr (parentPlace reducing.flight 2, 0, 0, 8)).Here (galleryKey 0 0) ∧ reducing.field 2 48 2 < 3 := by
  have h : ∀ i, i < 2 → ((reducing.reads (withCmd reducing))[i]?.map fun r => hereAt (pieceCheck (withCmd reducing) reducing .rd (r.1, r.2.1, 0, 8))) =
      some (some (hallKey i 0x40)) := by decide +kernel
  refine ⟨by decide +kernel, by decide +kernel, by decide, by decide, ?_, here_of (by decide +kernel), by decide⟩
  intro i hi r hr
  have := h i hi
  rw [hr] at this
  exact here_of (Option.some.inj this)

/-- EngineEvents, a row of a GEMV on the one stack: FP64, eight columns. -/
def gemving : Cmd := cmdOf 4 4 [0x0030000000000000, 0, 0x8000, 0x10000080001, 0, 0, 0] true
theorem witness_EngineEvents_gemv :
    pieceReady (withCmd gemving) gemving 0 = true ∧ (bufEntry (withCmd gemving) 0 (handleBuf (gemving.regs.getD 0 0))).il = 3 ∧
    FormatRow gemving.gFmt 1 8 0 ∧
    (mainRange (withCmd gemving) gemving 0x0030000000000000 0 64).2 = (none, []) ∧ (mainRange (withCmd gemving) gemving 0 0 64).2 = (none, []) ∧
    (pieceCheck (withCmd gemving) gemving .wr (.main, 0x8000, 0, 8)).Here 0x40008000 := by
  refine ⟨by decide +kernel, by decide +kernel, ?_, by decide +kernel, by decide +kernel, here_of (by decide +kernel)⟩
  simp only [FormatRow]; decide

/-- EngineEvents, the end: no failure, and failures with a first one; a guarded line that may begin; a result and the entry it is for. -/
theorem witness_EngineEvents_end :
    (({ reducing with left := 0 }).left = 0 ∧ reducing.result = none ∧ reducing.fails = []) ∧
    (∀ g ∈ ([⟨0, 0, .bounds⟩, ⟨0, 1, .owner⟩] : List PieceFail), 0 < g.off ∨ (0 = g.off ∧ 0 < g.child) ∨ (⟨0, 0, .bounds⟩ : PieceFail) = g) ∧
    (let c := cmdOf 1 3 [0, 0x40, 0x0600000000000008] true
     guardOpen (withCmd c) c (lineOf (hallKey 0 0)) = true) ∧
    let c := { reducing with result := some 5 }
    let s := (onFl (fun f => f.setQueue 1 { Queue.blank with cls := 3, entries := [⟨some 7, 0, 0, none⟩] }) (withCmd c))
    cmdById s 7 = some c ∧ (∀ v ∈ c.futWaits, v.answer ≠ none) ∧ c.fut = 0 ∧ (s.fl.queue 1).entries = [] ++ ⟨some 7, 0, 0, none⟩ :: [] ∧
      flightOf { s with fl := { s.fl with live := false } } c.flight = none := by
  and_intros <;> decide +kernel

/-- A page moves from frame 5 to frame 6 of the module cellar. -/
def migrating : Cmd := cmdOf 5 4 [0x40010000, 0xE000000000060000] false
def moving (dirty : List Nat) (round : Nat) : Migration := ⟨round, dirty, 65536, 0x4008, 0xE000000000050000, 0⟩

theorem migr_apart : (∀ a b, a < 65536 → b < 65536 →
      pageKey 0xE000000000050000 0 a ≠ pageKey 0xE000000000060000 0 b ∧ (pageKey 0xE000000000050000 0 a = pageKey 0xE000000000060000 0 b → a = b)) ∧
    ∀ a, a < 65536 → lineOf (pageKey 0xE000000000050000 0 a) ∉ mapped.poison ∧ lineOf (pageKey 0xE000000000060000 0 a) ∉ mapped.poison := by
  have h5 : ∀ a, pageKey 0xE000000000050000 0 a = 0x5000000000000000 + 65536 * 5 + a := fun a => by
    show cellarKey 0 (65536 * 5 + a) = _
    unfold cellarKey; omega
  have h6 : ∀ a, pageKey 0xE000000000060000 0 a = 0x5000000000000000 + 65536 * 6 + a := fun a => by
    show cellarKey 0 (65536 * 6 + a) = _
    unfold cellarKey; omega
  refine ⟨fun a b ha hb => ?_, fun a _ => ⟨nofun, nofun⟩⟩
  rw [h5, h6]
  omega

/-- Migrations: a start whose walk ends in a leaf that no migration holds; a context that is not live; a walk that fails; a round with many
blocks written; one with few; the last round. -/
theorem witness_Migrations :
    cmdById (withCmd migrating) 7 = some migrating ∧ migrating.cls = 5 ∧ migrating.started = false ∧ migrating.migr = none ∧
    migrating.ginst ∉ (ctxOf (withCmd migrating) 0).cancels ∧ hazard (withCmd migrating) migrating = false ∧
    runningMigr (withCmd migrating) = [] ∧ (ctxOf (withCmd migrating) migrating.pageCtx).live = true ∧ (ctxOf base migrating.pageCtx).live = false ∧
    walkFrom (withCmd migrating) 0 migrating.pageVa (ptRoot (ctxOf (withCmd migrating) 0)) walkLevels = .leaf 4 0x4008 0xE000000000050000 ∧
    walkFrom (withCmd migrating) 0 0x80000000 (ptRoot (ctxOf (withCmd migrating) 0)) walkLevels = .fail 1 ∧
    migrating.pageVa % leafBytes 4 = 0 ∧ pteFrame migrating.newLeaf % leafFrames 4 = 0 ∧
    migrating.newLeaf.getLsbD 57 = (0xE000000000050000#64).getLsbD 57 ∧ pteFrame migrating.newLeaf + 65536 / 65536 ≤ cellarFrames mapped 0 ∧
    migrating.newLeaf.getLsbD 58 = false ∧ portLost mapped 0 = false ∧
    [1].length * (65536 / 1024) ≤ 16384 ∧ ¬(List.range 257).length * (65536 / 1024) ≤ 16384 ∧
    (∀ b ∈ (moving [1] 3).dirty, b < 1024) ∧ 65536 ≤ (moving [1] 3).size ∧ (moving [1] 3).size % 65536 = 0 ∧ (moving [1] 3).leafAt % 8 = 0 ∧
    (moving (List.range 257) 3).round = 3 ∧ (moving (List.range 257) 2).round < 3 := by
  and_intros <;> decide +kernel

/-- Migrations: the leaf does not lie in the new page. -/
theorem witness_Migrations_leaf : ∀ a, a < 65536 → ∀ i, i < 8 → pageKey 0xE000000000060000 0 a ≠ mainKey 0x4008 + i := by
  intro a _ i _
  show cellarKey 0 (65536 * 6 + a) ≠ _
  unfold cellarKey mainKey; omega

/-- SegmentFetches: CFETCH into slot 31 from buffer 0, with and without room at the fetcher. -/
def fetching : State := withG (withG (withG mapped 20 0x40) 21 31) 22 0
def fetchOps : OpsX := ⟨.g 0, .g 20, .g 22, 0, 0, 0, 0, false, 0, false⟩
def aFetch (slot : Nat) (buf : BitVec 12) : Fetch := ⟨slot, ⟨0, buf, 0, none⟩, 0x40, ⟨0, 0, 0⟩, 0, [⟨0, some true⟩], false, 0⟩
theorem witness_SegmentFetches :
    Clear fetching h0 ∧ Takes fetching h0 (.g 0) ∧ IssuesIn fetching h0 false 0 0 ∧ srcG (fetching.fl.lane 0) (.g 20) = .ok 0x40 ∧
    srcG (fetching.fl.lane 0) (.g 21) = .ok 31 ∧ srcG (fetching.fl.lane 0) (.g 22) = .ok 0 ∧ (31#64).toNat < 32 ∧ 32 ≤ (32#64).toNat ∧
    (0x40#64).toNat % 2 ^ 52 % 64 = 0 ∧ (0x48#64).toNat % 2 ^ 52 % 64 ≠ 0 ∧ (4#64).toNat % 2 ^ 52 % 8 ≠ 0 ∧ Settled fetching 0 ∧
    (coreOf fetching 0).fetches.length < 4 ∧
    4 ≤ (coreOf (setCore fetching 0 { Core.blank with fetches := (List.range 4).map fun i => aFetch i 0 }) 0).fetches.length := by
  refine ⟨?_, nofun, ⟨?_, ?_⟩, ?_, ?_, ?_, ?_, ?_, ?_, ?_, ?_, ?_, ?_, ?_⟩ <;> (try simp only [Clear, Acts, Settled]) <;> decide +kernel

/-- SegmentFetches, the completion: a slot that can be filled, and one whose source is no buffer; and a fault record with room. -/
def filling (buf : BitVec 12) : State := setCore mapped 0 { Core.blank with fetches := [aFetch 31 buf] }
theorem witness_SegmentFetches_completion :
    ((coreOf (filling 0) 0).fetches.find? (fun f => decide (f.slot = 31)) = some (aFetch 31 0) ∧ (∀ w ∈ (aFetch 31 0).waits, w.answer = some true) ∧
      (aFetch 31 0).reload = false ∧ (∃ bs, mainBytes (filling 0) 0 (imageHandle (aFetch 31 0).src) 4096 = .ok bs ∧ bs.length = 4096) ∧
      ∃ c, mainBytes (filling 9) 0 (imageHandle (aFetch 31 9).src) 4096 = .fail c) ∧
    let s := { base with faultWait := [List.replicate 8 0], host := { base.host with frbase := 0x0100000000010000 } }
    s.faultWait = List.replicate 8 0 :: [] ∧ s.host.frbase ≠ 0 ∧ (List.replicate 8 (0 : Word)).length = 8 ∧ (s.host.frprod - s.host.frcons).toNat < 2 := by
  refine ⟨⟨by decide +kernel, by decide, rfl, ?_, ?_⟩, by decide +kernel⟩
  · have h : (match mainBytes (filling 0) 0 (imageHandle (aFetch 31 0).src) 4096 with | .ok bs => bs.length == 4096 | _ => false) = true := by
      decide +kernel
    split at h
    · next bs hb => exact ⟨bs, hb, by simpa using h⟩
    · cases h
  · have h : (match mainBytes (filling 9) 0 (imageHandle (aFetch 31 9).src) 4096 with | .fail _ => true | _ => false) = true := by decide +kernel
    split at h
    · next c hb => exact ⟨c, hb⟩
    · cases h

/-- A launch record of one member of 32 lanes, in g20 to g35 of a flight of level 2. -/
def record : List Word := [0x2000000000, 0, 0, 0, 0, 0, 0, 0, 0, 0, 0, 0, 0, 0, 0, 0]
def launching (lvl : BitVec 4) (depth : Nat) (join : Word) : State :=
  onFl (fun f => { f with level := lvl, depth := depth })
    ((List.range 16).foldl (fun s j => withG s (BitVec.ofNat 6 (20 + j)) ((record.set 12 join).getD j 0)) base)

theorem record_good (m : Nat) (hm : m ≤ 5) : ∀ j, ¬RecordBad record m j := by
  intro j h
  simp only [RecordBad] at h
  rcases h with ⟨rfl, h⟩ | ⟨rfl, h⟩ | ⟨rfl, h⟩ | ⟨rfl, h⟩ | ⟨rfl, h⟩ <;> revert h <;> interval_cases m <;> decide

/-- Launches, LAUNCH: a level that resolves, and one that does not; a bad and a misaligned record; the last depth, and the one beyond; room
and none in the queue of launches. -/
theorem witness_Launches :
    Clear (launching 2 9 0) h0 ∧ Takes (launching 2 9 0) h0 (.g 0) ∧ IssuesIn (launching 2 9 0) h0 false 0 0 ∧ record.length = 16 ∧
    (∀ j, j < 16 → srcG ((launching 2 9 0).fl.lane 0) (.g (BitVec.ofNat 6 (20 + j))) = .ok (record.getD j 0)) ∧
    resolveLevel (launching 2 9 0).fl 1 = some 1 ∧ resolveLevel (launching 0 9 0).fl 11 = none ∧ (launching 0 9 0).fl.level.toNat < 1 ∧
    (launching 2 9 0).fl.depth < 10 ∧ (launching 2 10 0).fl.depth = 10 ∧ Settled (launching 2 9 0) 0 ∧ (launching 2 9 0).fl.launches.length < 4 ∧
    RecordBad (record.set 0 0) 1 0 ∧ RecordBad (record.set 15 1) 1 15 ∧ (4#64).toNat % 8 ≠ 0 := by
  refine ⟨?_, nofun, ⟨?_, ?_⟩, ?_, ?_, ?_, ?_, ?_, ?_, ?_, ?_, ?_, ?_, ?_, ?_⟩ <;> (try simp only [Clear, Acts, Settled, RecordBad]) <;> decide +kernel

/-- Launches: TSPLIT's and CANCEL's operands, the last instance number and the first value beyond. -/
theorem witness_Launches_operands : Clear (two 0x1000000000 2) hw ∧ ReadsG (two 0x1000000000 2) hw (.g 1) (fun _ => 0x1000000000) ∧
    ReadsG (two 0x1000000000 2) hw (.g 2) (fun _ => 2) ∧ 2 ^ 32 ≤ (0x100000000#64).toNat ∧ (0xFFFFFFFF#64).toNat < 2 ^ 32 := by
  and_intros <;> (try simp only [Clear, ReadsG, Acts]) <;> decide

/-- The flight with the record in its queue of launches, in a live context; the host's ring with a record at its tail. -/
def launcher : State := onFl (fun f => { f with launches := [record] }) (setCtx base 0 { Context.blank with live := true })

/-- Launches: a token's context and flight, an accepted record of a flight, and a record of the host or of firmware that its checks let
through, with the header of a core. -/
theorem witness_Launches_accept :
    (ctxOf launcher 0).live = true ∧ (allFlights launcher).any (fun f => decide (f.ctx = 0 ∧ f.ginst = 0)) = true ∧
    (flightOf launcher ⟨0, 0, 0⟩).map Flight.launches = some [record] ∧
    (record.getD 13 0).extractLsb' 32 32 ∉ (ctxOf launcher 0).cancels ∧ (record.getD 0 0).getLsbD 63 = false ∧
    (0x0040000000000000#64).extractLsb' 58 6 = 0 ∧ (record.getD 0 0).toNat / 2 ^ 52 % 16 = 0 ∧ ((0x0040000000000000#64).extractLsb' 54 4).toNat = 1 ∧
    unitOk launcher ⟨1, 0⟩ = true ∧ (record.getD 12 0).toNat % 8 = 0 ∧ (ctxOf launcher 0).cancels = [] ∧
    (record.set 13 ((record.getD 13 0) &&& 0xFFFFFFFF0000FFFF)).set 14 ((record.getD 14 0) &&& 0xFF0000000000) = record ∧
    (1#64).setWidth 32 ≠ launcher.lqPos := by
  and_intros <;> decide

/-- A grid of one member of 32 lanes that is to be placed at once in core 0's domain. -/
def gridOne : Grid :=
  { id := 4, words := record, ctx := 0, domain := ⟨1, 0⟩, parent := none, firmware := false, pri := 0, passed := 0, next := 0, redo := [], members := [],
    childFail := [], cause := none, hallDone := [], galDone := [], stopped := false, line := [], home := none, loadFail := none }
def placing : State := { mapped with grids := [gridOne] }

/-- Placements: a grid that the newel chooses and the unit, number and slot that it takes. -/
theorem witness_Placements :
    gridById placing 4 = some gridOne ∧ recInst gridOne.words ∉ (ctxOf placing 0).cancels ∧
    placeTurn placing (newelOf gridOne.domain) = some gridOne ∧ gridOne.stopped = false ∧ gridOne.redo = [] ∧ (gridOne.words.getD 0 0).getLsbD 63 = false ∧
    0 < recMemb gridOne.words ∧ gridOne.next < recTeams gridOne.words * recMemb gridOne.words ∧ chooseUnit placing gridOne 0 = some (⟨0, 0⟩, .core 0) ∧
    freeNum placing 0 = some 1 ∧ freeSlot placing 0 = some 1 ∧ mostFree placing [⟨1, 0⟩, ⟨1, 1⟩] = some ⟨1, 1⟩ := by
  and_intros <;> decide +kernel

/-- The member of that grid, placed: its flight waits for the image, or has exited. -/
def memberOne : Member := ⟨0, 0, ⟨0, 0⟩, some ⟨0, 0, 0⟩, none, false, none⟩
def placed (wait : Bool) : State :=
  { mapped with
    grids := [{ gridOne with next := 1, members := [memberOne], words := record.set 0 0x0400002000000000 }],
    fl := { runner with member := some ⟨4, 0, 0⟩, awaitImage := if wait then some [] else none,
                        lanes := if wait then runner.lanes else Vector.replicate 32 Lane.blank } }
def loaded (w : Word) : State := writeWord (placed true) 0x40000000 w

/-- Placements, IMAGE_LOAD and MEMBER_RETIRE: an image whose map names the slot, one whose map does not, one too long for the hall; a leader that
is live, and one that has exited. -/
theorem witness_Placements_load :
    flightOf (placed true) ⟨0, 0, 0⟩ = some (placed true).fl ∧ (placed true).fl.awaitImage = some [] ∧ (placed true).fl.member = some ⟨4, 0, 0⟩ ∧
    memberOf (placed true) ⟨4, 0, 0⟩ = some memberOne ∧ memberOne.cause = none ∧ memberOne.retired = false ∧ memberOne.leader = some ⟨0, 0, 0⟩ ∧
    (∃ g, gridById (placed true) 4 = some g ∧ ∃ bs, mainBytes (placed true) 0 (imageHandle (imageSrc g 0)) 64 = .ok bs ∧ bs.length = 64) ∧
    (1#64).toNat / 2 ^ 0 % 2 = 1 ∧ (2#64).toNat / 2 ^ 0 % 2 = 0 ∧ 0x60000 < 0x0006000000000040 / 2 ^ 32 % 2 ^ 19 + 0x0006000000000040 % 2 ^ 19 ∧
    (∃ k, ((placed true).fl.lane k).st ≠ .exited) ∧ (∀ k, ((placed false).fl.lane k).st = .exited) ∧ (placed false).fl.launches = [] ∧
    (placed false).cmds = [] ∧ (placed false).fl.held = [] ∧ (placed false).outstanding = [] ∧
    ∀ g ∈ (placed false).grids, g.parent = some ⟨4, 0, 0⟩ → (g.words.getD 0 0).getLsbD 59 = true := by
  refine ⟨?_, ?_, ?_, ?_, ?_, ?_, ?_, ?_, ?_, ?_, ?_, ?_, ?_, ?_, ?_, ?_, ?_, ?_⟩ <;> try decide +kernel
  have h : (match gridById (placed true) 4 with
    | some g => (match mainBytes (placed true) 0 (imageHandle (imageSrc g 0)) 64 with | .ok bs => bs.length == 64 | _ => false) | none => false) = true := by
    decide +kernel
  split at h
  · next g hg =>
    split at h
    · next bs hb => exact ⟨g, hg, bs, hb, by simpa using h⟩
    · cases h
  · cases h

/-- Migrations: current leaves that do not translate: a reserved bit, class 3, a class without the cellar, a frame past the cellar; the
first frame that fits; a command of a cancelled instance. -/
theorem witness_Migrations_miss :
    (0xC001000000050000#64).extractLsb' 48 9 ≠ 0 ∧ pteCl 0xF800000000050000 = 3 ∧ pteCl 0xC800000000050000 = 1 ∧
    (0xC800000000050000#64).getLsbD 61 = false ∧ pteFrame 0xE000000000050000 + leafFrames 4 ≤ cellarFrames mapped 0 ∧
    cellarFrames mapped 0 < pteFrame 0xE000FFFFFFFF0000 + leafFrames 4 ∧ (0xE000000000050001#64).toNat % 65536 ≠ 0 ∧
    migrating.ginst ∈ ({ Context.blank with cancels := [1] } : Context).cancels := by
  and_intros <;> decide +kernel

/-- Launches: the last group and the first that passes g63; a token of an earlier generation and a current one; a gang that the core holds,
and one that it does not. -/
def gangRecord (teams : Nat) : List Word := record.set 0 (BitVec.ofNat 64 (0x8000002000000000 + teams))
theorem witness_Launches_gang :
    (srcReg (.g 48)).toNat ≤ 48 ∧ 48 < (srcReg (.g 49)).toNat ∧ (srcReg (.g 63)).toNat = 63 ∧ (⟨1, 1⟩ : Sender).gen ≠ mapped.podgen ∧
    (⟨1, 0⟩ : Sender).gen = mapped.podgen ∧ ((gangRecord 0).getD 0 0).getLsbD 63 = true ∧
    (let d := launchDomain launcher.fl ((record.getD 0 0).toNat / 2 ^ 52 % 16)
     gangCapacity launcher (gangRecord 0) d false = 64 ∧ ((gangRecord 63).getD 0 0).toNat % 2 ^ 16 + 1 ≤ 64 ∧
       64 < ((gangRecord 64).getD 0 0).toNat % 2 ^ 16 + 1) := by
  and_intros <;> decide +kernel

/-- Placements: a gang; a retirement that another package reports; an image
that an earlier load has failed. -/
theorem witness_Placements_gang :
    (let g := { gridOne with words := gangRecord 1 }
     placeTurn { mapped with grids := [g] } (newelOf g.domain) = some g ∧ g.redo = [] ∧ (g.words.getD 0 0).getLsbD 63 = true) ∧
    (let m : Member := { memberOne with leader := none, peer := some 1 }
     let s := { mapped with grids := [{ gridOne with next := 1, members := [m] }] }
     memberOf s ⟨4, 0, 0⟩ = some m ∧ m.retired = false ∧ m.peer = some (⟨1, 0, some Cause.owner.code⟩ : PeerRetired).pkg ∧
       (⟨1, 0, some Cause.owner.code⟩ : PeerRetired).gen = s.podgen ∧ (⟨1, 7, none⟩ : PeerRetired).gen ≠ s.podgen) ∧
    ({ gridOne with loadFail := some .bounds } : Grid).loadFail = some .bounds := by
  and_intros <;> decide +kernel

/-- Placements: the pod's second package-sized member goes to package 1, where that has room. -/
def podGrid : Grid :=
  { gridOne with words := record.set 0 0x0040002000000001, domain := ⟨5, 0⟩, members := [{ memberOne with unit := ⟨4, 0⟩ }], next := 1 }
def podPlacing : State := { mapped with grids := [podGrid] }
theorem witness_Placements_peer (room : 0 < Config.peerSlots 1 podPlacing.fresh) :
    chooseUnit podPlacing podGrid 1 = some (⟨4, 2⟩, .peer 1) := by
  have hc : childUnits podPlacing podGrid ⟨5, 0⟩ = [⟨4, 0⟩, ⟨4, 2⟩] := by decide +kernel
  have h0 : unitFree podPlacing podGrid 1 ⟨4, 0⟩ = false := by decide +kernel
  have h2 : unitFree podPlacing podGrid 1 ⟨4, 2⟩ = true := by
    have ha : unitClosed podPlacing podGrid.line ⟨4, 2⟩ true = false := by decide +kernel
    have hb : resvAllows podPlacing podGrid ⟨4, 2⟩ true = true := by decide +kernel
    have hm : recLvl podGrid.words = 4 := by decide +kernel
    have hf : freeSlots podPlacing ⟨4, 2⟩ = Config.peerSlots 1 podPlacing.fresh := rfl
    have ht : teamHome podGrid 1 = none := by decide +kernel
    simp [unitFree, hm, ha, hb, hf, ht, room]
  have hm : recLvl podGrid.words = 4 := by decide +kernel
  have hd : descend podPlacing podGrid 1 5 ⟨5, 0⟩ = some ⟨4, 2⟩ := by
    simp [descend, hm, HwUnit.isPeer, hc, h0, h2, canHold, mostFree]
  have hg : podGrid.domain = ⟨5, 0⟩ := rfl
  simp [chooseUnit, hm, hg, hd, leaderSeat, HwUnit.isPeer]

end Sys2Proof.Tests
end

