-- ==== Sys2Proof/Tests/WitEngine.lean ====
section
/-! SUPPORT. Witnesses: for the statements about the grid, the queue registers, the engines and migration, states and operands that meet
the hypotheses of each, clause by clause. -/

namespace Sys2Proof.Tests

set_option Elab.async false
set_option linter.unusedSimpArgs false
set_option linter.unusedTactic false
set_option linter.unreachableTactic false

open Sys2Proof Sys2Proof.Machine

/-- Both lanes parked at an MMODE, and lane 1 alone. -/
def atMmode (on : Bool) : State :=
  onFl (fun f => f.mapLanes fun _ l => if l.st = .ready then { l with st := .parked (.mmode on) } else l) base
def oneAtMmode : State :=
  { base with fl := { base.fl.setLane 1 { base.fl.lane 1 with st := .parked (.mmode true), pc := 0x40 } with
    run := some ⟨1, none⟩ } }

/-- MatrixModes: lanes that may park; one parked at another address; the wrong mode; a gathering; a grid with room. -/
theorem witness_MatrixModes :
    (Clear base h0 ∧ base.fl.hnd = false ∧ base.fl.mm ≠ true ∧ base.fl.mm = false ∧ MayTrap base ∧ (∃ k, Acts base h0 k) ∧
      ∀ j, (base.fl.lane j).st ≠ .parked (.mmode true)) ∧
    (Clear oneAtMmode h0 ∧ (oneAtMmode.fl.lane 1).st = .parked (.mmode true) ∧ (oneAtMmode.fl.lane 1).pc = 0x40 ∧
      (∀ j, (oneAtMmode.fl.lane j).st = .parked (.mmode true) → (oneAtMmode.fl.lane j).pc = 0x40) ∧
      (∀ k, Acts oneAtMmode h0 k → (oneAtMmode.fl.lane k).pc ≠ 0x40) ∧ Acts oneAtMmode h0 0) ∧
    ((atMmode true).fl.live = true ∧ (∃ k, ((atMmode true).fl.lane k).st ≠ .exited) ∧ gridOps (atMmode false) (atMmode false).fl = [] ∧
      ∀ k, ((atMmode true).fl.lane k).st = .exited ∨ ((atMmode true).fl.lane k).st = .parked (.mmode true)) ∧
    (gridOf base base.fl).length < 8 ∧ gridOps base base.fl = [] ∧ (base.fl.queue 1).entries.length < 16 ∧ 24 ≤ (24#5).toNat := by
  and_intros <;> (try simp only [Clear, Acts, MayTrap]) <;> decide +kernel

/-- An operation on v24 and v25 that the flight has queued. -/
def pendOp : GridOp :=
  { flight := ⟨0, 0, 0⟩, slot := 0, pc := 0, zero := true, first := 24, count := 2, act := 3, fmt := 0, kp := 0, sat := false,
    va := Vector.replicate 32 0, vb := Vector.replicate 32 0, vs := Vector.replicate 32 0, ascale := Vector.replicate 32 0,
    bases := Vector.replicate 4 0, regs := (0, 0, 0, 0), bad := [] }
def queued : State := setCore base 0 { Core.blank with grid := Core.blank.grid.set 0 [pendOp] }
theorem witness_MatrixModes_drain : (∃ g ∈ gridOps queued queued.fl, g.first ≤ (25#5).toNat ∧ (25#5).toNat < g.first + g.count) ∧
    gridOps queued queued.fl ≠ [] ∧ (coreOf queued 0).grid.get 0 = [pendOp] ∧ flightOf queued pendOp.flight = some queued.fl ∧
    pendOp.first + pendOp.count ≤ 32 ∧ (∀ k, (queued.fl.lane k).faulty = []) ∧ ({ pendOp with zero := false }).zero = false := by
  and_intros <;> decide +kernel

/-- Matrix mode with the group g10 to g12 in every lane: format, base lane, scale bytes. -/
def mat (w b : Word) : State := onFl (fun f => { f with mm := true }) (withG (withG base 10 w) 11 b)
def mmaOps (kp : BitVec 3) (vs : BitVec 5) (d : BitVec 5) : OpsG := ⟨.v d, .v 0, .v 1, .g 10, vs, 0, false, kp⟩

/-- MatrixWords: FP64 with the last base lane, and one beyond it. -/
theorem witness_MatrixWords_bases (b : Word) (hb : b ∈ ([24, 25] : List Word)) :
    Clear (mat 0 b) hw ∧ (mat 0 b).fl.mm = true ∧ MayTrap (mat 0 b) ∧ Acts (mat 0 b) hw 0 ∧
    ((mat 0 b).fl.lane 0).getG 10 = 0 ∧ ((mat 0 b).fl.lane 1).getG 11 = b ∧ srcG ((mat 0 b).fl.lane 0) (.g 10) = .ok 0 ∧
    srcG ((mat 0 b).fl.lane 1) (.g 11) = .ok b := by
  simp only [List.mem_cons, List.not_mem_nil, or_false] at hb
  rcases hb with rfl | rfl <;> and_intros <;> (try simp only [Clear, Acts, MayTrap]) <;> decide

/-- MatrixWords: rows of the combinations; a word beyond 22 bits; a format that no row lists; KP above the row's most; a register that
starts no tile; scale bytes of a format without them. -/
theorem witness_MatrixWords :
    FormatRow 0 1 8 0 ∧ FormatRow 0x111 1 16 1 ∧ FormatRow 0x122 2 32 3 ∧ 1 < (2#3).toNat ∧ (25#5).toNat % 2 ≠ 0 ∧
    (0x111#64).getLsbD 19 = false ∧ (mmaOps 0 1 24).vs ≠ 0 ∧ 2 ^ 22 ≤ (0x400000#64).toNat ∧ (∀ r c m, ¬FormatRow 0x10 r c m) ∧
    (24#5).toNat + 2 ^ (2#3).toNat ≤ 32 ∧ base.fl.mm = false := by
  refine ⟨?_, ?_, ?_, ?_, ?_, ?_, ?_, ?_, ?_, ?_, ?_⟩
  · simp only [FormatRow]; decide
  · simp only [FormatRow]; decide
  · simp only [FormatRow]; decide
  · decide
  · decide
  · decide
  · decide
  · decide
  · intro r c m h; simp [FormatRow] at h
  · decide
  · decide

/-- Lanes 0 and 8 at issue, the second with base lane 25: of two quarters, one has a legal base. -/
def twoQuarters : State :=
  let f := (mat 0 24).fl
  { mat 0 24 with fl := { f with
    run := some ⟨0x101, none⟩, lanes := tab fun k => if k.val = 0 then f.lane 0 else if k.val = 8 then (f.lane 0).setG 11 25 else f.lane 31 } }
theorem witness_MatrixWords_mixed : Acts twoQuarters hw 0 ∧ Acts twoQuarters hw 8 ∧ (twoQuarters.fl.lane 0).getG 11 = 24 ∧
    (twoQuarters.fl.lane 8).getG 11 = 25 ∧ repeating twoQuarters = none ∧ twoQuarters.fl.slot ≠ none ∧
    ∀ k, (issuing twoQuarters).has k = true → (twoQuarters.fl.lane k).st ≠ .exited := by
  and_intros <;> (try simp only [Acts]) <;> decide +kernel

/-- Queue q1 of the flight at issue. -/
def withQ (q : Queue) : State := (two 0x1000 0x1000000000000008).withQueue 1 q
def entry (i : Nat) (r : Option Word) : QEntry := ⟨some i, BitVec.ofNat 32 i, 0, r⟩
def bound : Queue := { Queue.blank with cls := 1, lvl := 3 }

/-- QueueWords: lane 0 issues; an oldest entry with and without a result; with NR = 1 the oldest marker; an empty queue; a full one; a bound
and an unbound one. -/
theorem witness_QueueWords :
    (Clear (withQ bound) hw ∧ Takes (withQ bound) hw (.g 3) ∧ IssuesIn (withQ bound) hw false 0 0 ∧
      srcG ((withQ bound).fl.lane 0) (.g 1) = .ok 0x1000 ∧ srcG ((withQ bound).fl.lane 0) (.g 2) = .ok 0x1000000000000008) ∧
    Queue.Oldest { bound with entries := [entry 0 (some 5), entry 1 none] } [] (entry 0 (some 5)) [entry 1 none] ∧
    Queue.Oldest { bound with nr := true, entries := [entry 0 none, ⟨none, 1, 7, none⟩] } [entry 0 none] ⟨none, 1, 7, none⟩ [] ∧
    Queue.NonePopped bound ∧ Queue.NonePopped { bound with nr := true, entries := [entry 0 none] } ∧
    ((withQ bound).fl.queue 1).cls ≠ 0 ∧ (base.fl.queue 1).cls = 0 ∧
    16 ≤ (Queue.entries { bound with entries := (List.range 16).map fun i => entry i none }).length := by
  refine ⟨⟨?_, nofun, ⟨?_, ?_⟩, ?_, ?_⟩, ⟨rfl, ?_, ?_⟩, ⟨rfl, ?_, ?_⟩, ⟨?_, ?_⟩, ⟨?_, ?_⟩, ?_, ?_, ?_⟩ <;>
    (try simp only [Clear, Acts]) <;> decide

/-- QueueWords, QBIND and FOOT: the last legal value and the first illegal one, a level that fits the class, a region and an empty one. -/
theorem witness_QueueWords_bind :
    (13#64).toNat < 16 ∧ (13#64).toNat % 8 < 6 ∧ 6 ≤ (14#64).toNat % 8 ∧ 16 ≤ (16#64).toNat ∧ resolveLevel base.fl 4 = some 4 ∧
    resolveLevel base.fl 0 = some 0 ∧ (onFl (fun f => { f with priv := true }) base).fl.priv = true ∧
    (0x8FFF000000000008#64).toNat / 2 ^ 61 = 4 ∧ 4 < (0xA000000000000008#64).toNat / 2 ^ 61 ∧ (0x1000000000000008#64).toNat / 2 ^ 48 % 2 ^ 12 = 0 ∧
    (0x1000000000000008#64).toNat % 2 ^ 48 ≠ 0 ∧ (0x1000000000000000#64).toNat % 2 ^ 48 = 0 ∧ (List.replicate 4 (⟨0, 0, false, 8⟩ : Foot)).length = 4 := by
  decide

/-- The registers of a group in g20 on, with the queue q1 bound to a class; a privileged flight. -/
def withGroup (s : State) (g : List Word) : State := (List.range g.length).foldl (fun s j => withG s (BitVec.ofNat 6 (20 + j)) (g.getD j 0)) s
def cmdState (cls : BitVec 3) (lvl : BitVec 4) (g : List Word) : State :=
  (onFl (fun f => { f with priv := true }) (withGroup mapped g)).withQueue 1 { bound with cls := cls, lvl := lvl }
def cmdOps : OpsX := ⟨.g 0, .g 20, .g 0, 0, 0, 2, 1, false, 0, false⟩
def copyRegs : List Word := [0, 0x40, 0x2000000000000008, 0]
def gemvRegs : List Word := [0x0030000000000000, 0, 0x8000, 0x10000080001, 0, 0, 0]
def migrRegs : List Word := [0x40010000, 0xE000000000060000]

/-- EngineCommands: the common hypotheses, for each class and its group. -/
theorem witness_EngineCommands :
    ∀ p ∈ [(1#3, 3#4, copyRegs), (2#3, 2#4, [0, 0x40, 8]), (3#3, 2#4, [0, 0x40, 8]), (4#3, 4#4, gemvRegs), (5#3, 4#4, migrRegs)],
      let s := cmdState p.1 p.2.1 p.2.2
      Clear s h0 ∧ Takes s h0 (.g 0) ∧ IssuesIn s h0 false 0 0 ∧ scopeCheck s s.fl cmdOps.scope = .ok () ∧ (∀ c ∈ s.cmds, c.id ≠ s.uid) ∧
      srcG (s.fl.lane 0) cmdOps.sb = .ok 0 ∧ (∀ j, j < p.2.2.length → srcG (s.fl.lane 0) (.g (BitVec.ofNat 6 (20 + j))) = .ok (p.2.2.getD j 0)) ∧
      (s.fl.queue 1).cls = p.1 ∧ (s.fl.queue 1).entries.length < 16 ∧ s.fl.priv = true ∧ ∀ j, Acts s h0 j → Settled s j := by
  have ht : ∀ s, Takes s h0 (.g 0) := fun s p hp => nomatch hp
  intro p hp
  simp only [List.mem_cons, List.not_mem_nil, or_false] at hp
  rcases hp with rfl | rfl | rfl | rfl | rfl <;> refine ⟨?_, ht _, ⟨?_, ?_⟩, ?_, ?_, ?_, ?_, ?_, ?_, ?_, ?_⟩ <;>
    (try simp only [Clear, Acts, Settled]) <;> decide +kernel

/-- A queue without entries is steady. -/
theorem witness_EngineCommands_steady : Queue.Steady bound := by
  intro pre x post h; simp [bound, Queue.blank] at h

/-- The groups above break no check of their class. -/
theorem witness_EngineCommands_groups : (∀ i, ¬CopyBad copyRegs i) ∧ (∀ i, ¬McastBad mapped 2 [0, 0x40, 8] i) ∧
    (∀ i, ¬ReduceBad mapped 2 [0, 0x40, 8] i) ∧ (∀ i, ¬GemvBad gemvRegs i) ∧ ∀ i, ¬MigrBad mapped migrRegs i := by
  refine ⟨?_, ?_, ?_, ?_, ?_⟩
  · rintro i (⟨-, h⟩ | ⟨-, h⟩) <;> revert h <;> decide
  · rintro i ⟨-, h⟩; revert h; decide +kernel
  · rintro i ⟨-, h⟩; revert h; decide +kernel
  · have hf : FormatLegal ((gemvRegs.getD 4 0)) := ⟨by decide, 1, 8, 0, by simp only [FormatRow]; decide⟩
    rintro i (⟨-, h⟩ | ⟨-, h⟩ | ⟨-, h⟩ | ⟨-, h⟩)
    · rcases h with h | h | ⟨-, h⟩ <;> revert h <;> decide
    · exact h hf
    all_goals revert h; decide
  · have hw : walkFrom mapped 0 0x40010000 (ptRoot (ctxOf mapped 0)) walkLevels = .leaf 4 0x4008 0xE000000000050000 := by decide +kernel
    have hx : ∀ {lvl at_ cur}, walkFrom mapped 0 0x40010000 (ptRoot (ctxOf mapped 0)) walkLevels = .leaf lvl at_ cur →
        lvl = 4 ∧ cur = 0xE000000000050000 := fun h => by
      have h2 : Walk.leaf 4 0x4008 0xE000000000050000#64 = .leaf _ _ _ := hw.symm.trans h
      cases h2; exact ⟨rfl, rfl⟩
    rintro i (⟨-, h⟩ | ⟨-, h⟩)
    · rcases h with h | h | h | ⟨lvl, key, cur, h, hp⟩
      · revert h; decide
      · revert h; decide
      · revert h; decide +kernel
      · obtain ⟨rfl, rfl⟩ := hx h
        revert hp; decide
    · rcases h with h | h | h | h | h | h | h | ⟨lvl, key, cur, h, hp⟩
      rotate_right
      · obtain ⟨rfl, rfl⟩ := hx h
        revert hp; decide
      all_goals revert h; decide +kernel

/-- MatrixWords: the last BASE that decodes (R178), and the first that does not; an MMA outside matrix mode. -/
theorem witness_MatrixWords_base :
    decode 0x1420d841480a0181 = .ok (.mmai hw ⟨.v 24, .v 1, .v 8, .g 10, 0, 24, false, 1⟩) ∧
    (match decode 0x1420d841480a0191 with | .ok _ => false | .error _ => true) = true ∧
    base.fl.run ≠ none ∧ (∀ k, (base.fl.lane k).fail = none) ∧ base.fl.pendTrap = none := by decide

/-- QueueWords: LANE names a lane that is not in Active. -/
theorem witness_QueueWords_lane : ∀ k, Acts base h0 k → k.val ≠ (31 : BitVec 7).toNat := by simp only [Acts]; decide

/-- EngineCommands: a group past g63, one that ends there; a register that offends in each class, the lowest; a misaligned address; a
full queue. -/
theorem witness_EngineCommands_bad :
    64 < 61 + 4 ∧ 60 + 4 ≤ 64 ∧ CopyBad [0, 0x40, 0, 0] 2 ∧ McastBad mapped 2 [0, 0x40, 0] 2 ∧ ReduceBad mapped 2 [0, 0x40, 0] 2 ∧
    GemvBad [0x0030000000000000, 0, 0x8000, 0, 0, 0, 0] 3 ∧ MigrBad mapped [0x40010001, 0xE000000000060000] 0 ∧
    (0x44#64).toNat % 8 ≠ 0 ∧ 16 ≤ ((List.range 16).map fun i => entry i none).length ∧
    (0x1F#6).toNat < 32 ∧ resolveLevel base.fl 15 = none ∧ (scopeEntry mapped 0 32).getD 0 0 ≠ 0x8000000000000000 ∧ base.fl.priv = false ∧
    MayTrap base := by
  refine ⟨by decide, by decide, .inl ⟨rfl, by decide⟩, ⟨rfl, by decide⟩, ⟨rfl, by decide⟩, .inl ⟨rfl, .inl (by decide)⟩, .inl ⟨rfl, .inr (.inl (by decide))⟩,
    by decide, by decide, by decide, by decide, by decide +kernel, by decide, ?_⟩
  simp only [MayTrap]; decide

/-- EngineEvents: a command at work, one of a cancelled instance, and one that a GEMV's parked stack keeps from starting; a command whose
flight has gone. -/
theorem witness_EngineEvents_cancelled :
    let c := (ctxOf mapped 0)
    (0 : BitVec 32) ∈ ({ c with cancels := [0] } : Context).cancels ∧ flightOf mapped ⟨3, 0, 0⟩ = none := by decide

end Sys2Proof.Tests
end

