-- ==== Sys2Proof/Tests/WitFlights.lean ====
section
/-! SUPPORT. Witnesses: for the statements about futures, continuations, phasers, barriers, handlers, images and residency, states and
operands that meet the hypotheses of each, clause by clause. -/

namespace Sys2Proof.Tests

set_option Elab.async false
set_option linter.unusedSimpArgs false
set_option linter.unusedTactic false
set_option linter.unreachableTactic false

open Sys2Proof Sys2Proof.Machine

/-- A future's address and descriptor in g20 and g21. -/
def future (s : State) (addr desc : Word) : State := withG (withG s 20 addr) 21 desc

/-- Futures: a hall future that is reached, one that is misaligned, one in main memory, and one whose page is on no frame; descriptors with
and without what each instruction asks for. -/
theorem witness_Futures :
    Clear (future base 0x100 0x10000) hw ∧ Takes (future base 0x100 0x10000) hw (.g 3) ∧
    scopeCheck (future base 0x100 0x10000) (future base 0x100 0x10000).fl 0 = .ok () ∧ IssuesIn (future base 0x100 0x10000) hw false 0 0 ∧
    (future base 0x100 0x10000).fl.live = true ∧ srcG ((future base 0x100 0x10000).fl.lane 0) (.g 20) = .ok 0x100 ∧
    srcG ((future base 0x100 0x10000).fl.lane 0) (.g 21) = .ok 0x10000 ∧ descSpace 0x10000 = .h ∧ descSpace 3 = .m ∧
    (0x10000#64).extractLsb' 16 13 ≠ 0 ∧ (0x1FFF0003#64).extractLsb' 29 3 = 0 ∧ (0x20000000#64).extractLsb' 29 3 ≠ 0 ∧
    Reaches base base.fl (futAcc .h 0x100 true (.g 3) true) false (fun _ => hallKey 0 0x100) ∧
    Reaches mapped mapped.fl (futAcc .m 0 true (.g 3) true) false (fun _ => 0x40000000) ∧
    (probes base base.fl (futAcc .h 0x104 true (.g 3) true) false =
      (futAcc .h 0x104 true (.g 3) true).elems.map fun e => (e, .trap .align 0x104)) ∧
    (probes mapped mapped.fl (futAcc .m 0x0040000000000000 true (.g 3) true) false =
      (futAcc .m 0x0040000000000000 true (.g 3) true).elems.map fun e => (e, .fault 1 0x80000000)) ∧
    base.fl.held = [] ∧ base.mem = [] ∧ (∀ j, Acts base hw j → Settled base j) := by
  refine ⟨?_, nofun, ?_, ⟨?_, ?_⟩, ?_, ?_, ?_, ?_, ?_, ?_, ?_, ?_, ?_, ?_, ?_, ?_, ?_, ?_, ?_⟩ <;>
    (try simp only [Clear, Acts, Reaches, Settled]) <;> decide +kernel

/-- Futures: no poison and no lost port. -/
theorem witness_Futures_intact : Intact base ∧ Intact mapped := by
  refine ⟨⟨by decide, fun cl => ?_⟩, ⟨by decide, fun cl => ?_⟩⟩ <;> unfold portLost <;> split <;> decide

/-- Futures, the table: a word that each column of R299 takes, an overresolution, and the reserved states' first. -/
theorem witness_Futures_table :
    futTable .res 0 true = none ∧ (futTable .res 0x2001000000000000 true).isSome = true ∧ (0x8000000000000000#64).toNat / 2 ^ 61 = 4 ∧
    (0x6000000000000000#64).toNat / 2 ^ 61 = 3 ∧ (0x2000000000000000#64).toNat / 2 ^ 61 < 2 := by decide

/-- A flight whose lanes 0 and 1 wait on a future of the hall, owned by their context. -/
def awaiting : Park := .future .h 0x100 (.g 3) true 3 0 []
def waiting : State :=
  setLine (onFl (fun f => f.mapLanes fun _ l => if l.st = .ready then { l with st := .parked awaiting } else l) base) (lineOf (hallKey 0 0x100))
    ⟨some 0, true, true⟩
theorem witness_Futures_resume :
    (waiting.fl.lane 0).st = .parked awaiting ∧ waiting.fl.live = true ∧ MSpace.h ∈ [MSpace.h, .g, .z, .m] ∧
    Reaches waiting waiting.fl (futAcc .h 0x100 false (.g 3) true) false (fun _ => hallKey 0 0x100) ∧ waiting.fl.held = [] ∧
    (lineSt waiting (lineOf (hallKey 0 0x100))).owner ≠ none ∧ (readWord waiting (hallKey 0 0x100)).toNat / 2 ^ 61 < 2 ∧
    (readWord (writeWord waiting (hallKey 0 0x100) 0x4000000000000000) (hallKey 0 0x100)).toNat / 2 ^ 61 = 2 := by
  and_intros <;> (try simp only [Reaches]) <;> decide +kernel

/-- FREG's group in g20 to g22 and the record's slot in g7, for the future at the start of buffer 0, whose word is `old`. -/
def freg (old desc link rec_ : Word) (depth : Nat) : State :=
  onFl (fun f => { f with level := 2, depth := depth })
    (withG (withG (withG (withG (writeWord mapped 0x40000000 old) 20 0) 21 desc) 22 link) 7 rec_)
def okKey (r : Except Cause Nat) : Option Nat :=
  match r with
  | .ok k => some k
  | .error _ => none
theorem ok_of {r : Except Cause Nat} {k : Nat} (h : okKey r = some k) : r = .ok k := by
  cases r <;> simp_all [okKey]

/-- Continuations, FREG: slots at the ends of the pool, a future that is pending and one that has ended, the last depth and the one beyond. -/
theorem witness_Continuations :
    Clear (freg 0x2001000000000000 3 2 3 9) hw ∧ Takes (freg 0x2001000000000000 3 2 3 9) hw (.g 4) ∧
    scopeCheck (freg 0x2001000000000000 3 2 3 9) (freg 0x2001000000000000 3 2 3 9).fl 4 = .ok () ∧
    IssuesIn (freg 0x2001000000000000 3 2 3 9) hw false 0 0 ∧ (20#6).toNat < 62 ∧
    (∀ p ∈ [((0 : Nat), (0 : Word)), (1, 3), (2, 2)], srcG ((freg 0x2001000000000000 3 2 3 9).fl.lane 0) (.g (BitVec.ofNat 6 (20 + p.1))) = .ok p.2) ∧
    srcG ((freg 0x2001000000000000 3 2 3 9).fl.lane 0) (.g 7) = .ok 3 ∧
    ((ctxOf (freg 0x2001000000000000 3 2 3 9) 0).word 3).toNat % 2 ^ 32 = 4 ∧ (3#64).toNat < 4 ∧ ¬(4#64).toNat < 4 ∧
    resolveLevel (freg 0x2001000000000000 3 2 3 9).fl 1 = some 1 ∧ (freg 0x2001000000000000 3 2 3 9).fl.depth < 10 ∧
    (freg 0x2001000000000000 3 2 3 10).fl.depth = 10 ∧
    Reaches (freg 0x2001000000000000 3 2 3 9) (freg 0x2001000000000000 3 2 3 9).fl (futAcc .m 0 true (.g 4) true) false (fun _ => 0x40000000) ∧
    (readWord (freg 0x2001000000000000 3 2 3 9) 0x40000000).toNat / 2 ^ 61 = 1 ∧ (readWord (freg 0x4000000000000000 3 2 3 9) 0x40000000).toNat / 2 ^ 61 = 2 ∧
    (readWord (freg 0 3 2 3 9) 0x40000000).toNat / 2 ^ 61 = 0 := by
  refine ⟨?_, nofun, ?_, ⟨?_, ?_⟩, ?_, ?_, ?_, ?_, ?_, ?_, ?_, ?_, ?_, ?_, ?_, ?_, ?_⟩ <;>
    (try simp only [Clear, Acts, Reaches]) <;> decide +kernel

/-- Continuations: the places in the pool, which do not overlap; a record with one condition left, with two and with none. -/
theorem witness_Continuations_pool :
    poolAccess mapped 0 3 0 64 .rd true = .ok 1074791488 ∧ poolAccess mapped 0 3 64 64 .rd true = .ok 1074792000 ∧
    poolAccess mapped 0 3 0 8 .wr true = .ok 1074791488 ∧ poolAccess mapped 0 3 104 8 .wr true = .ok 1074792040 ∧
    poolAccess mapped 0 2 0 16 .wr true = .ok 1074790464 ∧ poolAccess mapped 0 3 112 8 .rd true = .ok 1074792048 ∧
    poolAccess mapped 0 3 112 8 .wr true = .ok 1074792048 ∧ 1074791488 + 8 ≤ 1074792040 ∧ 0x40000000 + 8 ≤ 1074790464 ∧
    (∀ x ∈ [1074791488, 1074792040], x + 8 ≤ 1074790464 ∨ 1074790464 + 16 ≤ x) ∧
    (∀ x ∈ [1074791488, 1074792040], lineOf x = lineOf (x + 7)) ∧
    ((readWord (writeWord mapped 1074792048 0x0001000000000000) 1074792048).toNat / 2 ^ 48 = 1) ∧
    (readWord mapped 1074792048).toNat / 2 ^ 48 = 0 := by
  refine ⟨ok_of ?_, ok_of ?_, ok_of ?_, ok_of ?_, ok_of ?_, ok_of ?_, ok_of ?_, ?_, ?_, ?_, ?_, ?_, ?_⟩ <;> decide +kernel

/-- Continuations: a registered record that launches, its words being all legal. -/
theorem witness_Continuations_launch :
    let c : ContReg := ⟨0, 3, 0, ⟨2, 0⟩, none, [], false⟩
    let s := { mapped with conts := [c] }
    s.conts.find? (fun x => decide (x.ctx = 0 ∧ x.slot = 3)) = some c ∧ (0 : BitVec 32) ∉ (ctxOf s 0).cancels ∧ c.dropped = false ∧
    (0x2000000000#64).toNat / 2 ^ 52 % 16 ≤ 5 ∧ (0x2000000000#64).getLsbD 63 = false := by decide +kernel

/-- A phaser operation of level 1, with the reference in g20 and the second source in g7. -/
def phaserRef : PhKey := ⟨1, 0, 63⟩
def phasing (ref v : Word) (p : Phaser) (regs : List PhReg) : State :=
  setPhaser (onFl (fun f => { f with level := 2, phregs := regs }) (withG (withG (withG base 20 ref) 21 4) 7 v)) phaserRef p
def pending : Phaser := { Phaser.blank with owner := some 0, nsig := 2 }
def myReg (mode : BitVec 2) (a : BitVec 32) : PhReg := ⟨phaserRef, mode, a, true, true, false⟩

/-- Phasers: the last phaser of the level and the number beyond it; another context's; registrations of each mode and phase; PHREG's modes;
a phase that has come, and one that has not; PHEXP's counts. -/
theorem witness_Phasers :
    Clear (phasing 63 3 pending [myReg 3 0]) hw ∧ Takes (phasing 63 3 pending [myReg 3 0]) hw (.g 3) ∧
    IssuesIn (phasing 63 3 pending [myReg 3 0]) hw false 0 0 ∧ (phasing 63 3 pending [myReg 3 0]).fl.live = true ∧
    AllReady (phasing 63 3 pending [myReg 3 0]) ∧ srcG ((phasing 63 3 pending [myReg 3 0]).fl.lane 0) (.g 20) = .ok 63 ∧
    srcG ((phasing 63 3 pending [myReg 3 0]).fl.lane 0) (.g 21) = .ok 4 ∧ srcG ((phasing 63 3 pending [myReg 3 0]).fl.lane 0) (.g 7) = .ok 3 ∧
    PhaserAt (phasing 63 3 pending [myReg 3 0]) hw (opX (.g 3) (.g 20) (.g 7) 1) 63 1 phaserRef ∧
    phaserCount 1 ≤ (64#64).toNat ∧ (phaserOf (phasing 63 3 { pending with owner := some 1 } []) phaserRef).owner = some 1 ∧
    (phasing 63 3 pending [myReg 3 0]).fl.regOf phaserRef = some (myReg 3 0) ∧ (phasing 63 3 pending []).fl.regOf phaserRef = none ∧
    (myReg 3 0).a ≠ (phaserOf (phasing 63 3 pending [myReg 3 0]) phaserRef).phase + 1 ∧
    (myReg 3 1).a = (phaserOf (phasing 63 3 pending [myReg 3 1]) phaserRef).phase + 1 ∧ (myReg 2 0).mode.getLsbD 0 = false ∧
    ¬pending.Ends True ∧ (8 : Nat) ≤ (List.replicate 8 (myReg 1 0)).length ∧
    ((0 : BitVec 32) - 0).toNat < 2 ^ 31 ∧ ¬((0 : BitVec 32) - 1).toNat < 2 ^ 31 ∧
    ((3#64).extractLsb' 0 32).signExtend 64 = 3 ∧ (0x100000000#64) ≠ ((0x100000000#64).extractLsb' 0 32).signExtend 64 := by
  refine ⟨?_, nofun, ⟨?_, ?_⟩, ?_, ?_, ?_, ?_, ?_, ⟨?_, ?_, ?_, ?_, nofun⟩, ?_, ?_, ?_, ?_, ?_, ?_, ?_, ?_, ?_, ?_, ?_, ?_, ?_⟩ <;>
    (try simp only [Clear, Acts, AllReady, Phaser.Ends]) <;> decide

/-- BarriersAndPhaserEvents: a pod phaser of the context; a lane parked on a phaser, before and after its phase; BAR at the flight's level with no
other lane at one, with one elsewhere, and gathered, without and with a team. -/
def atBar (m : Option MemberRef) : State :=
  onFl (fun f => { f.mapLanes (fun _ l => if l.st = .ready then { l with st := .parked .bar } else l) with member := m }) base
def oneAtBar : State := { base with fl := { base.fl.setLane 1 { base.fl.lane 1 with st := .parked .bar, pc := 0x40 } with run := some ⟨1, none⟩ } }
theorem witness_BarriersAndPhaserEvents :
    (let s := setPhaser base ⟨4, 0, 4095⟩ { pending with pod := true }
     (phaserOf s ⟨4, 0, (4095#12).toNat⟩).owner = some 0 ∧ (phaserOf s ⟨4, 0, (4095#12).toNat⟩).pod = true) ∧
    (let s := setPhaser (onFl (fun f => f.setLane 0 { f.lane 0 with st := .parked (.phaser phaserRef 0 (.g 3) true 1) }) base) phaserRef pending
     (s.fl.lane 0).st = .parked (.phaser phaserRef 0 (.g 3) true 1) ∧ (phaserOf s phaserRef).owner = some s.fl.ctx ∧
       ((phaserOf s phaserRef).phase - 0).toNat < 2 ^ 31 ∧ ¬((phaserOf s phaserRef).phase - 1).toNat < 2 ^ 31) ∧
    resolveLevel base.fl 8 = some base.fl.level.toNat ∧ resolveLevel base.fl 1 ≠ some base.fl.level.toNat ∧
    (∀ j, (base.fl.lane j).st ≠ .parked .bar) ∧ (oneAtBar.fl.lane 1).st = .parked .bar ∧
    (∀ j, (oneAtBar.fl.lane j).st = .parked .bar → (oneAtBar.fl.lane j).pc = 0x40) ∧
    (∀ k, Acts oneAtBar h0 k → (oneAtBar.fl.lane k).pc ≠ 0x40) ∧
    (∃ j, ((atBar none).fl.lane j).st ≠ .exited) ∧
    (∀ j, ((atBar none).fl.lane j).st = .exited ∨ ((atBar none).fl.lane j).st = .parked .bar) ∧ (atBar none).fl.member = none ∧
    (atBar (some ⟨4, 0, 0⟩)).fl.member = some ⟨4, 0, 0⟩ ∧ (0 : Nat) ∉ assocGet [] (atBar (some ⟨4, 0, 0⟩)).bars ⟨4, 0, 0⟩ := by
  and_intros <;> (try simp only [Acts]) <;> decide +kernel

/-- A trap of both lanes that waits for the grid; TRAP 5. -/
def trapOf (tval : Word) : LTrap := ⟨5, 0, .softwareTrap, tval, 1⟩
def trapSet : TrapInfo := ⟨3, 3, [(0, trapOf 5), (1, trapOf 5)], false, false, 0⟩
def trapping : State := onFl (fun f => { f with pendTrap := some trapSet, run := none }) base
def gridRun : Core :=
  { Core.blank with grid := Core.blank.grid.set 0 ([⟨⟨0, 0, 0⟩, 0, 0, true, 24, 1, 3, 0, 0, false, Vector.replicate 32 0, Vector.replicate 32 0, Vector.replicate 32 0, Vector.replicate 32 0,
      Vector.replicate 4 0, (0, 0, 0, 0), []⟩]) }
def gridBusy : State := setCore base 0 gridRun
theorem witness_TrapsAndHandlers_entry :
    Clear gridBusy h0 ∧ gridOps gridBusy gridBusy.fl ≠ [] ∧ repeating gridBusy = none ∧
    (∀ k, (issuing gridBusy).has k = true → (gridBusy.fl.lane k).st ≠ .exited) ∧ Acts gridBusy h0 0 ∧
    trapping.fl.live = true ∧ trapping.fl.pendTrap = some trapSet ∧ gridOps trapping trapping.fl = [] ∧ trapSet.traps ≠ [] ∧
    (∀ p ∈ trapSet.traps, p.2.cause = .softwareTrap ∧ p.2.tval = 5) ∧
    (∀ k, trapSet.set.has k = true → (trapping.fl.lane k).pc = 0) ∧ base.fl.pendTrap = none := by
  and_intros <;> (try simp only [Clear, Acts]) <;> decide +kernel

/-- A flight held for service after a cause; with a missing slot, whose source is known or not. -/
def held (c : Cause) (tpc : Pc) (tv : Word) : State :=
  onFl (fun f => { f.mapLanes (fun _ l => if l.st = .ready then { l with st := .parked .service, tval := tv, inS := true } else l) with
    service := true, hnd := true, run := none, tcause := 0#2 ++ c.code, tmask := 3, tpc := tpc }) base
theorem witness_TrapsAndHandlers_service :
    (held .illegal 0 0).fl.service = true ∧ (held .illegal 0 0).fl.ending = none ∧ (held .illegal 0 0).fl.member = none ∧
    (held .illegal 0 0).fl.tcause.extractLsb' 0 8 = Cause.illegal.code ∧ Cause.illegal.delegable = none ∧ (held .illegal 0 0).fl.tcause.getLsbD 9 = false ∧
    (held .codeAbsent 0x1F000 0x1F000).fl.tcause.extractLsb' 0 8 = Cause.codeAbsent.code ∧
    (∀ k, (held .codeAbsent 0x1F000 0x1F000).fl.tmask.has k = true → ((held .codeAbsent 0x1F000 0x1F000).fl.lane k).tval.toNat / 4096 = 31) ∧
    (held .codeAbsent 0x1F000 0x1F000).fl.tpc.toNat / 4096 = 31 ∧ (31 : Nat) < 32 ∧ (held .codeAbsent 0x1F000 0x1F000).fl.tmask.has 0 = true ∧
    (coreOf base 0).slots.get 31 = .absent ∧ (coreOf base 0).src.get 31 = none ∧
    (coreOf (setCore base 0 { Core.blank with src := Core.blank.src.set 31 (some ⟨0, 0, 0, none⟩) }) 0).src.get 31 = some ⟨0, 0, 0, none⟩ ∧
    (coreOf (setCore base 0 { Core.blank with slots := Core.blank.slots.set 31 .present }) 0).slots.get 31 = .present ∧
    (coreOf base 0).fetches.length < 4 := by
  and_intros <;> decide +kernel

/-- A handler at work, whose trapped word is `w`, its set having returned or not. -/
def handling (w : Word) : State := onFl (fun f => { f with hnd := true, tinsn := w, tmask := 3 }) (two 3 5)
def returning (skip : Bool) (tpc : Pc) : State :=
  onFl (fun f => { f.mapLanes (fun _ l => if l.st = .ready then { l with st := .parked (.rte skip), inS := true } else l) with
    hnd := true, run := none, tmask := 3, tpc := tpc }) far31'
where far31' : State := setCore base 0 { coreOf base 0 with slots := (coreOf base 0).slots.set 31 .present }
theorem witness_TrapsAndHandlers_return :
    Clear (handling 0) h0 ∧ (handling 0).fl.hnd = true ∧ base.fl.hnd = false ∧ (∀ k, ((handling 0).fl.lane k).st ≠ .parked (.rte true)) ∧
    decode 0x0800840203000000 = .ok (.fadd hw (opA (.g 4) (.g 2) (.g 3))) ∧ decode 0x0800800203000000 = .ok (.fadd hw (opA (.g 0) (.g 2) (.g 3))) ∧
    ReadsG (handling 0x0800840203000000) h0 (.g 1) (fun _ => 3) ∧ (handling 0).fl.tmask.has 1 = true ∧
    (∀ k, Acts (handling 0) h0 k → ((handling 0).fl.lane k).granules (.v 1) = []) ∧
    (returning false 0x1FFF8).fl.live = true ∧ (returning false 0x1FFF8).fl.hnd = true ∧
    (∃ k, ((returning false 0x1FFF8).fl.lane k).inS = true ∧ ((returning false 0x1FFF8).fl.lane k).st ≠ .exited) ∧
    (∀ k, ((returning false 0x1FFF8).fl.lane k).inS = true → ((returning false 0x1FFF8).fl.lane k).st = .parked (.rte false)) ∧
    (returning false 0x1FFF8).fl.tpc.toNat < 0x20000 ∧ (coreOf (returning false 0x1FFF8) 0).slots.get 31 = .present ∧
    ¬(returning true 0x1FFF8).fl.tpc.toNat + 8 < 0x20000 ∧ gridOps (returning true 0x1FFF8) (returning true 0x1FFF8).fl = [] := by
  and_intros <;> (try simp only [Clear, Acts, ReadsG]) <;> decide +kernel

/-- StopsAndImages: a resident flight, one that a requester has asked to stop at cycle 0, before and after 1536 cycles, at rest and in the
middle of a run. -/
def asked (b : StopBy) (run : Option Run) : State := onFl (fun f => { f with preempt := some (0, b), run := run }) base
theorem witness_StopsAndImages :
    base.fl.live = true ∧ base.fl.slot ≠ none ∧ areaFree base 0 ≠ none ∧ base.fl.preempt = none ∧
    (asked .newel none).fl.preempt = some (0, .newel) ∧ (0#64).toNat + 1536 ≤ (1536#64).toNat ∧ ¬(0#64).toNat + 1536 ≤ (1535#64).toNat ∧
    (asked .newel none).fl.pendTrap = none ∧ gridOps (asked .newel none) (asked .newel none).fl = [] ∧ areaFree (asked .newel none) 0 = some 0x8000000 := by
  and_intros <;> decide +kernel
theorem witness_StopsAndImages_stop : MayStop (asked .host none) (asked .host none).fl ∧ ¬MayStop (asked .host (some ⟨3, none⟩)) (asked .host (some ⟨3, none⟩)).fl := by
  refine ⟨⟨nofun, by decide +kernel, by decide +kernel⟩, fun h => ?_⟩
  exact (h.1 ⟨3, none⟩ rfl).1 rfl

/-- CTXSV: privileged, with the operand and the address in g20 and g21, and a second flight of the core, STOPPED. -/
def other : Flight := { runner with id := ⟨0, 0, 63⟩, slot := some 1, run := none, stopped := true, stoppedBy := some .ctxsv }
def saving (v a : Word) : State :=
  { onFl (fun f => { f with priv := true }) (withG (withG base 20 v) 21 a) with flights := [other] }
theorem witness_StopsAndImages_ctxsv :
    Clear (saving 63 0x9D26000) h0 ∧ Takes (saving 63 0x9D26000) h0 (.g 0) ∧ IssuesIn (saving 63 0x9D26000) h0 false 0 0 ∧
    (saving 63 0x9D26000).fl.priv = true ∧ srcG ((saving 63 0x9D26000).fl.lane 0) (.g 20) = .ok 63 ∧
    srcG ((saving 63 0x9D26000).fl.lane 0) (.g 21) = .ok 0x9D26000 ∧ flightOf (saving 63 0x9D26000) ⟨0, 0, 63⟩ = some other ∧
    flightOf (saving 62 0x9D26000) ⟨0, 0, 62⟩ = none ∧ (0x9D26000#64).toNat % 4096 = 0 ∧ 0x8000000 ≤ (0x9D26000#64).toNat ∧
    (0x9D26000#64).toNat + 0x1A000 ≤ 0x9D40000 ∧ ¬(0x9D27000#64).toNat + 0x1A000 ≤ 0x9D40000 ∧ (0x9D26001#64).toNat % 4096 ≠ 0 ∧
    1024 ≤ (1024#64).toNat ∧ (63#64).toNat / 64 % 4 = 0 ∧ (64#64).toNat / 64 % 4 ≠ 0 ∧ other.stopped = true ∧ base.fl.priv = false ∧
    (readWord (writeWord base (mezzKey 0 0x9D26000) 0x2001) (mezzKey 0 0x9D26000)).toNat % 2 ^ 16 = 0x2001 := by
  refine ⟨?_, nofun, ⟨?_, ?_⟩, ?_, ?_, ?_, ?_, ?_, ?_, ?_, ?_, ?_, ?_, ?_, ?_, ?_, ?_, ?_, ?_⟩ <;> (try simp only [Clear, Acts]) <;> decide +kernel

/-- CTXSV's park, for each operation, and the error queue: empty, with room and full. -/
def saveWait (opn : BitVec 2) : State :=
  onFl (fun f => f.setLane 0 { f.lane 0 with st := .parked (.ctxsv opn 63 0x8000000 1) }) (saving 63 0x8000000)
theorem witness_StopsAndImages_resume :
    (∀ opn : BitVec 2, ((saveWait opn).fl.lane 0).st = .parked (.ctxsv opn 63 0x8000000 1)) ∧ (saveWait 0).fl.live = true ∧
    flightOf (saveWait 0) ⟨0, 0, 63⟩ = some other ∧ (⟨0, 0, 63⟩ : FlightId) ≠ ⟨0, 0, 0⟩ ∧ other.held = [] ∧ (saveWait 2).outstanding = [] ∧
    (ctxOf mapped 0).eqCount = 0 ∧ (ctxOf mapped 0).live = true ∧ (ctxOf mapped 0).eqCount.toNat < (ctxOf mapped 0).eqSize ∧
    (ctxOf mapped 0).eqSize ≤ 2 ^ 16 ∧ (ctxOf base 0).live = false := by
  and_intros <;> decide +kernel

/-- Residency: an engine without a run whose flight contends; the flight at issue in the middle of one; distinct flights; a flight that may be
swapped out and one that wants a slot. -/
def idle : State := { onFl (fun f => { f with run := none }) base with flights := [{ runner with id := ⟨0, 0, 1⟩, slot := some 1, run := none }] }
def allParkedAt (c : Park) : State :=
  onFl (fun f => { f.mapLanes (fun _ l => if l.st = .ready then { l with st := .parked c } else l) with run := none }) base
def full : State :=
  { allParkedAt .bar with flights := { runner with id := ⟨0, 0, 63⟩, slot := none, run := none } ::
      ((List.range 7).map (fun i => { runner with id := ⟨0, 0, i + 1⟩, slot := some (i + 1), run := none })) }
theorem witness_Residency :
    (allFlights idle).all (fun x => decide (x.run = none ∧ x.stall = none)) = true ∧ ((allFlights idle).map Flight.id).Nodup ∧
    idle.fl.slot = some 0 ∧ idle.fl.live = true ∧ (idle.fl.lane 0).st = .ready ∧ base.fl.run ≠ none ∧
    (victim full 0).map Flight.id = some ⟨0, 0, 0⟩ ∧ (nextIn full 0).map Flight.id = some ⟨0, 0, 63⟩ ∧ freeSlot full 0 = none ∧
    evictable full full.fl = true ∧ areaFree full 0 = some 0x8000000 ∧
    (nextIn { full with flights := [{ runner with id := ⟨0, 0, 63⟩, slot := none, run := none }] } 0).map Flight.id = some ⟨0, 0, 63⟩ := by
  and_intros <;> decide +kernel
theorem witness_Residency_contends : Contends 0 0 idle.fl := by
  refine ⟨rfl, ⟨0, rfl, rfl⟩, rfl, rfl, rfl, rfl, rfl, rfl, rfl, .inr ⟨0, by decide +kernel, nofun⟩⟩

/-- Continuations, Futures: groups that end at g63 and past it; a level that does not resolve, and one above the flight's; FPOLL's descriptor. -/
theorem witness_Continuations_levels :
    62 ≤ (srcReg (.g 62)).toNat ∧ (srcReg (.g 61)).toNat < 62 ∧ (srcReg (.g 63)).toNat = 63 ∧ (srcReg (.g 62)).toNat < 63 ∧
    resolveLevel base.fl 15 = none ∧ resolveLevel base.fl 3 = some 3 ∧ base.fl.level.toNat < 3 ∧ resolveLevel base.fl 8 = some base.fl.level.toNat := by
  decide

/-- BarriersAndPhaserEvents: messages of an earlier and of the current generation; a member that runs in another package, arrived and not; a
grid that was accepted elsewhere. -/
def peerMem : PeerMember := ⟨1, 0, 4, 0, 1⟩
def podTeam (mems : List Nat) (home : Option (BitVec 10 × Nat)) : State :=
  let m : Member := { team := 0, mem := 1, unit := ⟨4, 2⟩, leader := none, cause := none, retired := false, peer := some 1 }
  let g : Grid :=
    { id := 4, words := List.replicate 16 0, ctx := 0, domain := ⟨5, 0⟩, parent := none, firmware := false, pri := 0, passed := 0, next := 2,
      redo := [], members := [m], childFail := [], cause := none, hallDone := [], galDone := [], stopped := false, line := [], home := home,
      loadFail := none }
  { base with grids := [g], bars := [(⟨4, 0, 0⟩, mems)] }
theorem witness_BarriersAndPhaserEvents_peers :
    (peerMem.gen = base.podgen ∧ (⟨1, 7, 4, 0, 1⟩ : PeerMember).gen ≠ base.podgen) ∧ (gridById (podTeam [] none) 4).isSome = true ∧
    (memberOf (podTeam [] none) ⟨4, 0, 1⟩).any (fun x => x.peer == some 1 && !x.retired) = true ∧
    1 ∉ BarIn (podTeam [] none) ⟨4, 0, 1⟩ ∧ 1 ∈ BarIn (podTeam [1] none) ⟨4, 0, 1⟩ ∧
    homeMember (podTeam [1] (some (1, 4))) peerMem = some ⟨4, 0, 1⟩ ∧
    (gridById (podTeam [] (some (1, 4))) 4).any (fun g => g.home == some (1, 4)) = true ∧
    (∃ f ∈ allFlights (onFl (fun f => { f with member := some ⟨4, 0, 1⟩ }) (podTeam [1] (some (1, 4)))), f.member = some ⟨4, 0, 1⟩) := by
  and_intros <;> decide +kernel

theorem fixType_fadd (h : Hdr) (o : OpsA) : FixType (.fadd h o) none 0 := by
  unfold FixType
  refine ⟨?_, ?_, ?_, fun _ _ => ⟨rfl, rfl⟩⟩
  · intro g p hm; simp only [fixElems, List.mem_cons, reduceCtorEq, List.not_mem_nil, or_false] at hm
  · intro g p hm; cases hm
  · intro g p hm; rcases hm with hm | hm <;> cases hm
theorem fixType_vadd (h : Hdr) (o : OpsA) : FixType (.vadd h o) (some o.ty) 0 := by
  unfold FixType
  refine ⟨?_, ?_, ?_, ?_⟩
  · intro g p hm
    simp only [fixElems, List.mem_cons, Instr.vadd.injEq, reduceCtorEq, or_false, List.not_mem_nil] at hm
    exact ⟨by rw [hm.2], rfl⟩
  · intro g p hm; cases hm
  · intro g p hm; rcases hm with hm | hm <;> cases hm
  · intro n; exact absurd (List.mem_cons_self ..) (n h o).1
theorem fixType_vcvt8 (h : Hdr) (o : OpsA) : FixType (.vcvt8 h o) (some o.ty) o.is.toNat := by
  unfold FixType
  refine ⟨?_, ?_, ?_, ?_⟩
  · intro g p hm; simp only [fixElems, List.mem_cons, reduceCtorEq, List.not_mem_nil, or_false] at hm
  · intro g p hm; cases hm; exact ⟨rfl, rfl⟩
  · intro g p hm; rcases hm with hm | hm <;> cases hm
  · intro n; exact absurd rfl (n h o).2
theorem fixType_fcmp (h : Hdr) (o : OpsA) : FixType (.fcmp h o) none 0 := by
  unfold FixType
  refine ⟨?_, ?_, ?_, fun _ _ => ⟨rfl, rfl⟩⟩
  · intro g p hm; simp only [fixElems, List.mem_cons, reduceCtorEq, List.not_mem_nil, or_false] at hm
  · intro g p hm; cases hm
  · intro g p hm; rcases hm with hm | hm <;> cases hm
theorem fixDest_of {w : Word} {i : Instr} {op h o t p} (hd : decode w = .ok i) (hn : noResult i = false) (hp : i.parts = some (.a op h o))
    (ht : FixType i t p) : FixDest (handling w).fl o.dst h.w t p :=
  .inl ⟨i, h, hd, hn, rfl, ht, .inl ⟨op, o, hp, rfl⟩⟩

/-- TrapsAndHandlers: the trapped words FADD g4, FCMP p3, VADD v3 and VCVT8 v3 toward binary8, and the destinations that they give
TFIX. -/
theorem witness_TrapsAndHandlers_fix :
    FixDest (handling 0x0800840203000000).fl (.g 4) true none 0 ∧ FixDest (handling 0x08A0E30102000000).fl (.p 3) true none 0 ∧
    FixDest (handling 0x1000C34142000000).fl (.v 3) true (some .fp64) 0 ∧ FixDest (handling 0x1110C34100806003).fl (.v 3) true (some .b8s) 3 := by
  have a4 : decode 0x0800840203000000 = .ok (.fadd hw (opA (.g 4) (.g 2) (.g 3))) := by decide
  have p3 : decode 0x08A0E30102000000 = .ok (.fcmp hw (opA (.p 3) (.g 1) (.g 2))) := by decide
  have v3 : decode 0x1000C34142000000 = .ok (.vadd hw (opA (.v 3) (.v 1) (.v 2))) := by decide
  have c8 : decode 0x1110C34100806003 = .ok (.vcvt8 hw { opA (.v 3) (.v 1) (.g 0) (.imm 0) with ty := .b8s, is := 3, cc := 0 }) := by decide
  exact ⟨fixDest_of a4 rfl rfl (fixType_fadd _ _), fixDest_of p3 rfl rfl (fixType_fcmp _ _), fixDest_of v3 rfl rfl (fixType_vadd _ _),
    fixDest_of c8 rfl rfl (fixType_vcvt8 _ _)⟩

/-- TrapsAndHandlers: vector sources that TFIX takes: a register, and an immediate; a slot that is there, and that of TPC, which is not. -/
theorem witness_TrapsAndHandlers_takes :
    FixTakes (handling 0) h0 (.v 1) (some .fp64) 0 (fun k => ((handling 0).fl.lane k).getV 1) ∧
    FixTakes (handling 0) h0 (.imm 3) (some .int64) 0 (fun _ => vecOf 64 8 fun _ => immSub .int64 3) ∧
    (let s := held .codeAbsent 0x1F000 0
     s.fl.live = true ∧ s.fl.hnd = true ∧ (∃ k, s.fl.tmask.has k = true) ∧ gridOps s s.fl = [] ∧ s.fl.tcause.getLsbD 9 = false ∧
       (∃ k, (s.fl.lane k).st = .parked .service) ∧ s.fl.tpc.toNat < 0x20000 ∧
       (coreOf s 0).slots.get (Fin.ofNat 32 (s.fl.tpc.toNat / 4096)) ≠ .present) := by
  have h : ∀ k, ((handling 0).fl.lane k).granules (.v 1) = [] ∧ ((handling 0).fl.lane k).granules (.imm 3) = [] := by decide
  exact ⟨fun k _ => ⟨(h k).1, .inl ⟨1, rfl, rfl⟩⟩, fun k _ => ⟨(h k).2, .inr (.inr ⟨3, rfl, rfl⟩)⟩, by decide +kernel⟩

/-- StopsAndImages: room for an image; a group past g63; an image with an error and one without; a saved flight that a command of its own
still keeps. -/
theorem witness_StopsAndImages_images :
    swapRoom base 0 = true ∧ (srcReg (.g 63)).toNat = 63 ∧ base.barOwed = [] ∧
    (∃ n, n < 1664 ∧ lineOf (mezzKey 0 0x8000000) + n ∈ ({ base with poison := [lineOf (mezzKey 0 0x8000000) + 1663] } : State).poison) ∧
    (¬∃ n, n < 1664 ∧ lineOf (mezzKey 0 0x8000000) + n ∈ base.poison) ∧ (∀ j, (other.lane j).inFlight = false) ∧
    (∀ y ∈ (saving 63 0x9D26000).flights, ∀ z ∈ (saving 63 0x9D26000).flights, y.id = z.id → y = z) ∧ base.fl.stall = none ∧
    (onFl (fun f => { f with stall := some .gridFull }) base).fl.stall ≠ none := by
  refine ⟨by decide +kernel, rfl, rfl, ⟨1663, by decide, by simp⟩, ?_, by decide +kernel, ?_, rfl, nofun⟩
  · rintro ⟨n, -, h⟩; cases h
  · intro y hy z hz _
    simp [saving, onFl, withG, eachLane] at hy hz
    rw [hy, hz]

/-- Residency: a swapped-out flight that wants a slot, and one that a core switch took off; one whose image software has written, and one
of which no image is kept. -/
def swappedOne : Flight := { runner with id := ⟨0, 0, 63⟩, slot := none, run := none }
def edited : State := { full with flights := [swappedOne], images := [⟨0, 0x8000000, some ⟨0, 0, 63⟩, false, swappedOne⟩] }
theorem witness_Residency_wants :
    (nextIn edited 0).map Flight.id = some ⟨0, 0, 63⟩ ∧ (areaOf edited ⟨0, 0, 63⟩).map ImageSide.flight = some swappedOne ∧
    AreaWord edited ⟨0, 0x8000000, some ⟨0, 0, 63⟩, false, swappedOne⟩ 0 ≠ imageWord swappedOne 0 ∧
    areaOf { edited with images := [] } ⟨0, 0, 63⟩ = none ∧
    wantsSlot { runner with slot := none } = true ∧ wantsSlot { runner with slot := none, switched := true } = false ∧ swapRoom full 0 = true := by
  decide +kernel

end Sys2Proof.Tests
end

