-- ==== Sys2Proof/Tests/WitHost.lean ====
section
/-! SUPPORT. Witnesses: for the statements about time and errors, die losses, the anneal, rates, contexts, the group, the host's registers,
start-up and the step, states and operands that meet the hypotheses of each, clause by clause. -/

namespace Sys2Proof.Tests

set_option Elab.async false
set_option linter.unusedSimpArgs false
set_option linter.unusedTactic false
set_option linter.unreachableTactic false

open Sys2Proof Sys2Proof.Machine

/-- The first image of die 0's swap area: the newel's for a live flight, or the one that a flight left its core for. -/
def sideOf (f : Option FlightId) (x : Flight) : ImageSide := ⟨0, 0x8000000, f, f.isNone, x⟩
def imaged (f : Option FlightId) (x : Flight) : State := { placed true with images := [sideOf f x] }
def leading : Flight := (placed true).fl
def gone : Flight := { leading with id := ⟨0, 0, 5⟩ }
theorem witness_TimeAndErrors :
    (base.dies.get 0).present = true ∧ (State.reset.dies.get 0).present = false ∧ flightOf base ⟨0, 0, 0⟩ = some base.fl ∧
    (∀ p ∈ [((1 : BitVec 8), 0, 0x40), (0x3F, 0, 0x40), (0x40, 0x3F, 0x60), (0x5F, 0x3F, 0x60), (0x60, 0x5F, 0x68), (0x67, 0x5F, 0x68),
      (0x78, 0x77, 0x7C), (0x7B, 0x77, 0x7C)], p.2.1 < p.1.toNat ∧ p.1.toNat < p.2.2) ∧
    Memory.wf base.mem = true ∧ Sparse.wf LineState.free base.lines = true ∧ Memory.wf waiting.mem = true ∧
    Sparse.wf LineState.free waiting.lines = true ∧ base.images = [] ∧ (lineSt base (hallKey 0 0 / 64)).owner = none ∧
    (lineSt waiting (hallKey 0 (64 * 4) / 64)).owner = some 0 ∧ (∀ f ∈ waiting.flights, f.live = true) ∧
    (allFlights waiting).Pairwise (fun x y => x.id ≠ y.id) ∧ waiting.host.evbase = 0 := by
  and_intros <;> decide +kernel

/-- TimeAndErrors: a line in the swap area that an image holds, at both ends of the image, and one that none holds. -/
theorem witness_TimeAndErrors_image :
    Memory.wf (imaged (some ⟨0, 0, 0⟩) leading).mem = true ∧ Sparse.wf LineState.free (imaged (some ⟨0, 0, 0⟩) leading).lines = true ∧
    (∀ i ∈ (imaged (some ⟨0, 0, 0⟩) leading).images, i.die = 0 ∧ (∀ l ∈ [0x200000, 0x20067F], i.addr < 64 * l + 64 ∧ 64 * l < i.addr + 0x1A000) ∧
      ¬i.addr < 64 * 0x1FFFFF + 64 ∧ ¬64 * 0x200680 < i.addr + 0x1A000) ∧
    flightOf (imaged (some ⟨0, 0, 0⟩) leading) ⟨0, 0, 0⟩ = some leading ∧ leading.ending = none ∧ leading.member = some ⟨4, 0, 0⟩ ∧
    memberOf (imaged (some ⟨0, 0, 0⟩) leading) ⟨4, 0, 0⟩ = some memberOne ∧ memberOne.leader = some ⟨0, 0, 0⟩ ∧ memberOne.cause = none ∧
    (sideOf none gone).swapped = none ∧ (sideOf none gone).freed = true ∧ gone.member = some ⟨4, 0, 0⟩ ∧
    (∀ f ∈ allFlights (imaged none gone), f.id.coreNo = gone.id.coreNo → f.id.fnum ≠ 5) := by
  and_intros <;> decide +kernel

/-- DieLosses: a die that is present and one that is not, with a standby and without; a command, a launch and a member of the die. -/
def holding (replay : Bool) (st : Option Nat) : State :=
  { placed false with
    grids := [{ gridOne with next := 1, members := [memberOne], words := if replay then record.set 0 0x4400002000000000 else record }]
    standby := st, cmds := [cmdOf 1 3 [0, 0x40, 0x0400000000000008] true],
    fl := { runner with launches := [record] } }
theorem witness_DieLosses :
    (base.dies.get 0).present = true ∧ (State.reset.dies.get 0).present = false ∧ (holding true (some 4)).host.evbase = 0 ∧
    ((holding true (some 4)).dies.get 0).present = true ∧ flightOf (holding true (some 4)) ⟨0, 0, 0⟩ = some (holding true (some 4)).fl ∧
    (holding true (some 4)).fl.launches = [record] ∧ (∃ c ∈ (holding true (some 4)).cmds, c.flight = ⟨0, 0, 0⟩ ∧ c.result = none) ∧
    (∀ g ∈ (holding true (some 4)).grids, (∀ x ∈ (holding true (some 4)).grids, x.id = g.id → x = g) ∧ g.parent = none ∧ g.stopped = false ∧
      (∀ x ∈ (holding true (some 4)).grids, x.parent = none) ∧ (g.words.getD 0 0).getLsbD 62 = true ∧ memberOne ∈ g.members ∧
      memberOne.team < recTeams g.words ∧ memberOne.mem < recMemb g.words) ∧
    (∀ g ∈ (holding false none).grids, g.members ≠ [] ∧ (∀ m ∈ g.members, m = memberOne ∧ m.cause = none ∧
        m.team * recMemb g.words + m.mem < recTeams g.words * recMemb g.words) ∧ (g.words.getD 0 0).getLsbD 62 = false ∧ g.redo = [] ∧
      recTeams g.words * recMemb g.words ≤ g.next ∧ g.cause = none ∧ g.childFail = [] ∧
      recInst g.words ∉ (ctxOf (holding false none) g.ctx).cancels) := by
  and_intros <;> decide +kernel
theorem witness_DieLosses_member : LostWith memberOne 0 ∧ ¬OnDie 0 0 ∧ OnDie 0 (mezzKey 0 0) := by
  refine ⟨⟨rfl, .inl ⟨_, rfl, rfl⟩⟩, ?_, .inr (.inr ⟨0, by decide, rfl⟩)⟩
  rintro (⟨u, x, -, ⟨-, h⟩ | ⟨-, h⟩⟩ | ⟨u, x, -, -, h⟩ | ⟨x, -, h⟩) <;> simp only [hallKey, storeKey, galleryKey, mezzKey] at h <;> omega

/-- Anneals: the retirement of a stack requested when idle, while one is in progress, after two, of a stack retired before and of one that
does not exist; a sweep that a GEMV pins to the stack, one that nothing does; lines at the ends of the ranges. -/
def annealing (count : BitVec 2) (act : Bool) (total next : BitVec 32) : State := { base with anneal := ⟨count, 0, 1, act, 3, total, next, 0⟩ }
def pinning : State := { withCmd gemving with anneal := ⟨0, 0, 0, true, (bufEntry mapped 0 3).stk, 0, 0, 0⟩, journal := (0, 1) }
theorem witness_Anneals :
    Clear base hw ∧ (∀ i : BitVec 24, i = 0x060 → i.toNat = 0x060) ∧ actOf 0x0020000000000500 = 2 ∧ namedUnit 0x0020000000000500 = 5 ∧
    namedUnit 0x0020000000000800 = 8 ∧ namedUnit 0x0020000000000000 = (annealing 1 false 0 0).anneal.ret1.toNat ∧
    namedUnit 0x0020000000000100 = (annealing 1 false 0 0).anneal.ret2.toNat ∧ ¬2 ≤ (annealing 1 false 0 0).anneal.count.toNat ∧
    (annealing 2 false 0 0).anneal.count.toNat = 2 ∧ (annealing 0 true 0 0).anneal.act = true ∧ (annealing 1 true 8 7).anneal.next < 8 ∧
    (annealing 0 true 8 8).anneal.total ≤ (annealing 0 true 8 8).anneal.next ∧ (7#32) + 1 = 8 ∧ (6#32) + 1 ≠ 8 ∧
    (∃ c ∈ pinning.cmds, c.started = true ∧ c.result = none ∧ c.cls = 4 ∧ (bufEntry pinning c.ctx (handleBuf (c.regs.getD 0 0))).il = 3 ∧
      (bufEntry pinning c.ctx (handleBuf (c.regs.getD 0 0))).stk = pinning.anneal.stk) ∧
    (annealing 0 true 0 0).cmds = [] ∧ pinning.journal.1 ≠ pinning.journal.2 ∧
    (0 : Nat) < 8 ∧ (0x17FFFFFFF : Nat) < 0x180000000 ∧ (0x29FFFFFF : Nat) < 0x2A000000 ∧ (locate 0 1 2 1).1 ≠ 1 ∧ (locate 0 1 1 1).1 = 1 ∧ 9 % 8 ≠ 0 := by
  refine ⟨?_, fun i h => by rw [h]; rfl, ?_⟩
  · simp only [Clear, Acts]; decide
  · and_intros <;> decide +kernel

/-- RatesAndPorts: requests of each action at the last unit and the first beyond, a pending rate, a sensor that crosses 95 °C, and ports. -/
def ported (pres lost : Bool) (up : Option Word) : State := { base with expanders := Vector.replicate 2 ⟨pres, lost, 0, 4, up, none⟩ }
def rated : State := { base with power := { base.power with pending := [(7, 1, 0), (8, 2, 0x0030000000000802)], temps := [(.stack 2, 94)] } }
def portMove (old new : Word) : Cmd := { cmdOf 5 4 [0x40010000, new] true with migr := some { moving [] 1 with old := old } }
theorem witness_RatesAndPorts :
    actOf 0x0030000000000802 = 3 ∧ namedUnit 0x0030000000000802 = 8 ∧ (0x0030000000000802#64).toNat % 4 = 2 ∧ namedUnit 0x0030000000000900 = 9 ∧
    (0x0030000000000803#64).toNat % 4 = 3 ∧ actOf 0x0040000000000100 = 4 ∧ namedUnit 0x0040000000000100 = 1 ∧ namedUnit 0x0040000000000200 = 2 ∧
    (ported true false none).expanders.get 1 = ⟨true, false, 0, 4, none, none⟩ ∧ (ported true true (some 5)).expanders.get 0 = ⟨true, true, 0, 4, some 5, none⟩ ∧
    (ported false false none).expanders.get 0 = ⟨false, false, 0, 4, none, none⟩ ∧ actOf 0x0010000000000300 = 1 ∧ namedUnit 0x0010000000000300 = 3 ∧
    namedUnit 0x0010000000000400 = 4 ∧ (base.dies.get 3).present = true ∧
    rated.power.pending = [(7, 1, 0)] ++ (8, 2, 0x0030000000000802) :: [] ∧ (∀ p ∈ [((7 : Nat), (1 : BitVec 2), (0 : Word))], p.1 ≠ 8) ∧
    (∀ p ∈ rated.power.pending, p.1 ≠ 6) ∧ assocGet 0 rated.power.temps (.stack 2) = 94 ∧ assocGet 0 rated.power.temps (.die 0) < 95 ∧
    assocGet 0 rated.power.temps .hub < 95 ∧ ((0x4000 : Nat) ≤ 0x4000 ∧ (0x4000 : Nat) < 0x5000) ∧
    ((moving [] 1).old ||| 0x0800000000000000).getLsbD 61 = true ∧ pteCl ((moving [] 1).old ||| 0x0800000000000000) = 1 ∧
    (portMove 0 0xE800000000060000).newLeaf.getLsbD 61 = true ∧ pteCl (portMove 0 0xE800000000060000).newLeaf = 1 ∧
    (0xC000000000050000#64).getLsbD 61 = false ∧ (0xC000000000050000#64).getLsbD 58 = false ∧
    (portMove 0 0xC000000000060000).newLeaf.getLsbD 61 = false ∧ (portMove 0 0xC000000000060000).newLeaf.getLsbD 58 = false := by
  and_intros <;> decide +kernel

/-- The context table at address 0 with a descriptor for context 1; the unit of a page to invalidate. -/
def described (w0 : Word) : State := withWords mapped [(64, w0), (72, 0x9000)]
theorem witness_HostContexts :
    (0x101#64).toNat / 2 ^ 8 % 4 = 1 ∧ (0x101#64).extractLsb' 0 6 = 1 ∧ (0x200#64).toNat / 2 ^ 8 % 4 = 2 ∧ (0x200#64).extractLsb' 0 6 = 0 ∧
    (described 0x8000000000001000).host.ctxtab = 0 ∧ (ctxOf (described 0x8000000000001000) 1).live = false ∧
    lineOf (mainKey 64) ∉ (described 0x8000000000001000).poison ∧
    ((List.range 8).map fun i => readWord (described 0x8000000000001000) (mainKey 64 + 8 * i)) = [0x8000000000001000, 0x9000, 0, 0, 0, 0, 0, 0] ∧
    (readWord (described 0x1000) (mainKey 64)).toNat < 2 ^ 63 ∧ (ctxOf mapped 0).live = true ∧ (ctxOf mapped 1).live = false ∧
    (∀ f ∈ mapped.flights, f.live = true) ∧ (allFlights mapped).Pairwise (fun x y => x.id ≠ y.id) ∧ Memory.wf mapped.mem = true ∧
    Sparse.wf LineState.free mapped.lines = true ∧ (∀ k ∈ [(0 : Nat), 1, 2, 3], (BitVec.ofNat 64 (k * 2 ^ 56)).toNat / 2 ^ 56 % 4 = k) ∧
    mapped.host.invalBusy = false ∧ mapped.host.inval = 0 ∧ mapped.outstanding = [] ∧
    (match walkFrom mapped 0 0 (ptRoot (ctxOf mapped 0)) walkLevels with | .leaf _ _ _ => true | .fail _ => false) = true := by
  and_intros <;> decide +kernel

/-- GroupCommits: a staged group with the own package's bit 63, one without it, one with a bit that no entry has, and one with the number in
force; a request in flight, an access that waits, and a part without a live context. -/
def staged (e : Word) : State := { base with staging := [(0, e), (1023, 0xC000000000000000)] }
def aRequest : Outstanding := ⟨0, .lane ⟨0, 0, 0⟩ 0 0, 0, 0, 0, 1, ⟨0, false, 1, 0, 0, 0, 0, 0, .load 8⟩, 0⟩
theorem witness_GroupCommits :
    (assocGet 0 (staged 0x8000000000000000).staging (staged 0).host.pkgnum.toNat).getLsbD 63 = true ∧ (1#64).extractLsb' 0 32 ≠ (staged 0).podgen ∧
    (0#64).extractLsb' 0 32 = (staged 0).podgen ∧ (assocGet 0 (staged 0).staging (staged 0).host.pkgnum.toNat).getLsbD 63 = false ∧
    (∀ e ∈ (staged 0x8000000000000000).staging, ¬(e.2.toNat % 2 ^ 48 ≠ 0 ∨ e.2.toNat / 2 ^ 56 % 2 ^ 6 ≠ 0)) ∧
    (0x8000000000000001#64).toNat % 2 ^ 48 ≠ 0 ∧ (0x8100000000000000#64).toNat / 2 ^ 56 % 2 ^ 6 ≠ 0 ∧
    (∀ p ∈ (staged 0x8000000000000000).staging, p.1 < 1024 ∧ ∀ q ∈ (staged 0x8000000000000000).staging, p.1 = q.1 → p = q) ∧
    (staged 0).phasers = [] ∧ (staged 0).outstanding = [] ∧ (staged 0).inbound = [] ∧
    (∀ c : Fin 64, ((staged 0).contexts.get c).live = false) ∧ (ctxOf mapped 0).live = true ∧ (staged 0).committed = false ∧
    { base with outstanding := [aRequest] }.outstanding = [aRequest] ∧ aRequest.owner = .lane ⟨0, 0, 0⟩ 0 0 ∧ Clear base hw := by
  and_intros <;> (try simp only [Clear, Acts]) <;> decide +kernel

/-- HostRegisters: events that wait, none, one and as many as a ring has slots; units of levels 1 to 3 that exist and levels 0 and 4; a reserved
member; values of the window; a line beyond the capacity. -/
def eventful (n : Nat) : State := { base with eventWait := List.replicate n (List.replicate 8 5) }
theorem witness_HostRegisters :
    (eventful 0).eventWait = [] ∧ (eventful 1).eventWait = [List.replicate 8 5] ∧ (∀ r ∈ (eventful 2).eventWait, r.length = 8) ∧
    (eventful 2).eventWait.length ≤ slotsOf 0x0100000000001000 ∧
    (∀ p ∈ [((0x1BF0000000000007#64), (⟨1, 191⟩ : HwUnit)), (0x2170000000000007, ⟨2, 23⟩), (0x3030000000000007, ⟨3, 3⟩)],
      p.2 = ⟨p.1.toNat / 2 ^ 60, p.1.toNat / 2 ^ 52 % 2 ^ 8⟩ ∧ unitOk base p.2 = true ∧ 1 ≤ p.2.lvl ∧ p.2.lvl ≤ 3) ∧
    unitOk base ⟨1, 192⟩ = false ∧ unitOk base ⟨2, 24⟩ = false ∧ unitOk base ⟨3, 4⟩ = false ∧ (0#64).toNat / 2 ^ 60 = 0 ∧ (0x4000000000000000#64).toNat / 2 ^ 60 = 4 ∧
    (∃ g ∈ (placed true).grids, recResv g.words ≠ 7 ∧ ∃ m ∈ g.members, m.retired = false ∧ HwUnit.holds ⟨1, 0⟩ m.unit = true) ∧ base.grids = [] ∧
    (0x1000000#64).toNat % 0x1000 = 0 ∧ (0x1000000#64).toNat ≤ 0x1000000 ∧ ¬(0x1001000#64).toNat ≤ 0x1000000 ∧ (0x1001#64).toNat % 0x1000 ≠ 0 ∧
    6 ≤ actOf 0x0060000000000000 ∧ actOf 0 = 0 ∧ 5 ≤ actOf 0x0050000000000000 ∧ base.poison = [] ∧ lineCapacity (retirements base) = 0x180000000 := by
  and_intros <;> decide +kernel

/-- HostFlights, SVCCTL: a flight held for service, an address at which an image fits and one at which none does, an image's first word, and the
trap that no retry may end. -/
def imageReady : State := withWords (held .illegal 0 0) [(0, 0x2001)]
theorem witness_HostFlights :
    (∀ n ∈ [(0 : Nat), 1, 2, 3, 4, 5], actOf (BitVec.ofNat 64 (n * 2 ^ 52)) = n ∧ namedFlight (BitVec.ofNat 64 (n * 2 ^ 52)) = ⟨0, 0, 0⟩) ∧
    flightOf imageReady ⟨0, 0, 0⟩ = some imageReady.fl ∧ imageReady.fl.service = true ∧ imageReady.fl.ending = none ∧ imageReady.fl.member = none ∧
    base.fl.service = false ∧ flightOf base ⟨0, 0, 0⟩ = some base.fl ∧
    imageReady.host.svcaddr.toNat / 4096 % 2 ^ 36 * 4096 + 0x1A000 ≤ 64 * lineCapacity (retirements imageReady) ∧
    ¬(0xFFFFFFFFF000#64).toNat / 4096 % 2 ^ 36 * 4096 + 0x1A000 ≤ 64 * lineCapacity (retirements imageReady) ∧ imageReady.poison = [] ∧
    (readWord imageReady (mainKey 0)).toNat % 2 ^ 16 = 0x2001 ∧ (readWord base (mainKey 0)).toNat % 2 ^ 16 ≠ 0x2001 ∧
    imageReady.fl.tcause.getLsbD 9 = false ∧ (0x200#10).getLsbD 9 = true ∧ imageReady.fl.tcause.extractLsb' 0 8 = Cause.illegal.code ∧
    Memory.wf imageReady.mem = true ∧ Sparse.wf LineState.free imageReady.lines = true ∧
    (∀ f ∈ imageReady.flights, f.live = true) ∧ (allFlights imageReady).Pairwise (fun x y => x.id ≠ y.id) := by
  and_intros <;> decide +kernel

/-- HostFlights, FLTCTL: a flight that runs, one whose pre-emption the newel asked for, one that is STOPPED, none of that number; a core that
exists and one that does not; a swap area with room and one that is full. -/
def crowded : State := { base with images := (List.range 288).map (fun n => ⟨0, 0x8000000 + 0x1A000 * n, none, true, Flight.blank⟩) }
theorem witness_HostFlights_fltctl :
    actOf 0x0010000000000000 = 1 ∧ actOf 0x0040000000000000 = 4 ∧ namedFlight 0x00100001F8000000 = ⟨0, 0, 63⟩ ∧ flightOf base ⟨0, 0, 63⟩ = none ∧
    base.fl.stopped = false ∧ base.fl.preempt = none ∧ (asked .newel none).fl.preempt = some (0, .newel) ∧
    flightOf (saving 63 0) ⟨0, 0, 63⟩ = some other ∧ other.stopped = true ∧
    ((⟨0, 0, 63⟩ : FlightId).die < 4 ∧ (⟨0, 0, 63⟩ : FlightId).core < 48 ∧ (base.dies.get 0).present = true) ∧ ¬(48 : Nat) < 48 ∧ ¬(4 : Nat) < 4 ∧
    (State.reset.dies.get 0).present = false ∧
    areaRoom crowded 0 < ((allFlights crowded).filter fun x => decide (x.id.coreNo = 0) && x.slot.isSome).length ∧
    ((allFlights base).filter fun x => decide (x.id.coreNo = 0) && x.slot.isSome).length ≤ areaRoom base 0 ∧
    (∀ f ∈ base.flights, f.live = true) ∧ (allFlights base).Pairwise (fun x y => x.id ≠ y.id) ∧
    (∃ x ∈ allFlights base, x.id.coreNo = 0 ∧ x.slot ≠ none) ∧ (∀ x ∈ allFlights base, x.stopped = false ∧ x.preempt = none) ∧
    (∀ x ∈ allFlights base, x.id.coreNo = 5 → x.slot = none ∧ x.preempt = none) := by
  and_intros <;> decide +kernel

/-- StartUp: a stage whose digest of the key is the fused one and whose version is not too old, which passes or not as the signature's verdict
goes; no stage; a recorded measurement, the only one of its index, of whole words. -/
def stageOf (d : List Byte) : BootStage := ⟨d, [], Config.fusedKeyDigest, Config.antiRollback⟩
theorem witness_StartUp (d : List Byte) (b : BootImage) (hb : b.stages = [stageOf d]) (hs : Config.signatureValid Config.fusedKeyDigest d [] = true) :
    b.stages ≠ [] ∧ ∀ x ∈ b.stages, x.keyDigest = Config.fusedKeyDigest ∧ Config.signatureValid x.keyDigest x.digest x.signature = true ∧
      Config.antiRollback ≤ x.version := by
  rw [hb]
  refine ⟨nofun, fun x hx => ?_⟩
  obtain rfl := List.mem_singleton.1 hx
  exact ⟨rfl, hs, Nat.le_refl _⟩
theorem witness_StartUp_fails (d : List Byte) (hs : Config.signatureValid Config.fusedKeyDigest d [] = false) :
    ∃ x ∈ [stageOf d], ¬(x.keyDigest = Config.fusedKeyDigest ∧ Config.signatureValid x.keyDigest x.digest x.signature = true ∧
      Config.antiRollback ≤ x.version) := ⟨stageOf d, by simp, fun h => by simp [stageOf, hs] at h⟩
theorem witness_StartUp_measured :
    let m : Nat × List Byte := (3, List.replicate 48 7)
    let ms := [(1, List.replicate 48 1), m]
    (∀ x ∈ ms, x.1 = 3 ↔ x = m) ∧ m ∈ ms ∧ (∃ n, m.2.length = 8 * n) ∧ ms.Nodup := by
  refine ⟨by decide, by decide, ⟨6, rfl⟩, by decide⟩

/-- StepRunsDecoded: after reset with a word placed, nothing is due at once and a flight is in the middle of a run; one whose agenda is not empty;
a lane that came past a slot, and a slot that is ABSENT; a repetition; a word that is no instruction; a full grid queue. -/
def fresh (w : Nat) : State := State.reset.withFetchWord 64 w
def running (st : SlotSt) (crossed : Bool) : State :=
  setCore (onFl (fun f => { f with lanes := f.lanes.map fun l => { l with crossed := crossed } }) base) 0
    { Core.blank with slots := Core.blank.slots.set 0 st }
theorem witness_StepRunsDecoded :
    (fresh 0x8100850102000000).power.shutDown = false ∧ (urgent (fresh 0x8100850102000000)).isNone = true ∧
    futureWake (fresh 0x8100850102000000) = none ∧ (fresh 0x8100850102000000).agenda = [] ∧ canIssue (fresh 0x8100850102000000).fl = true ∧
    (fresh 0x8100850102000000).fl.run.isSome = true ∧
    (coreOf (fresh 0x8100850102000000) 0).slots.get 0 = .present ∧
    (∀ n ∈ List.range 8, readByte (fresh 0x8100850102000000) (storeKey 0 (issuePc (fresh 0x8100850102000000)).toNat + n) =
      (0x8100850102000000#64).extractLsb' (8 * n) 8) ∧
    (decode 0x8100850102000000).toOption.isSome = true ∧ (decode 0).toOption.isSome = false ∧
    (urgent (running .absent false)).isNone = true ∧ futureWake (running .absent false) = none ∧ canIssue (running .absent false).fl = true ∧
    (running .absent false).fl.run = some ⟨3, none⟩ ∧ (⟨3, none⟩ : Run).set.has 0 = true ∧
    (coreOf (running .absent false) 0).slots.get 0 = .absent ∧ ((running .present true).fl.lane 0).crossed = true ∧
    (urgent { base with agenda := [.sweepStart] }).isNone = true ∧ futureWake { base with agenda := [.sweepStart] } = none := by
  and_intros <;> decide +kernel

/-- DecodeEncode: an instruction that is well formed, and is not a later form of CTXSV. InvariantKept: the part right after reset, and a step
that it can take. -/
theorem witness_DecodeEncode : (Instr.add hw (opA (.g 5) (.g 1) (.g 2))).isWord = true ∧ (Instr.add hw (opA (.g 5) (.g 1) (.g 2))).wf = true ∧
    ∀ h o, Instr.add hw (opA (.g 5) (.g 1) (.g 2)) ≠ .ctxsvRestore h o :=
  ⟨by decide, by decide, fun _ _ e => Instr.noConfusion e⟩
theorem witness_InvariantKept : State.reset.Inv ∧ gives (step State.reset) (fun _ => true) = true ∧
    gives (step (fresh 0x8100850102000000)) (fun _ => true) = true :=
  ⟨⟨by decide, by decide⟩, by decide +kernel, by decide +kernel⟩

/-- TimeAndErrors: lanes whose register holds an error in a granule that the source reads, in a register, a predicate, a vector and a latch
entry; one faulty granule outside Active; an image that was saved and not freed. -/
def withFaults (l : List Gran) : State := eachLane base fun x => { x with faulty := l }
theorem witness_TimeAndErrors_faults :
    (∀ k, Acts (withFaults [⟨3, 0⟩]) hw k → GenFaults ((withFaults [⟨3, 0⟩]).fl.lane k) (.g 3)) ∧
    (∀ k, Acts (withFaults [⟨0x60, 0⟩]) hw k → PredFaults ((withFaults [⟨0x60, 0⟩]).fl.lane k) (.p 3)) ∧
    (∀ k, Acts (withFaults [⟨0x43, 5⟩, ⟨0x43, 2⟩]) hw k →
      VecFaults ((withFaults [⟨0x43, 5⟩, ⟨0x43, 2⟩]).fl.lane k) (.v 3) ⟨0x43, 2⟩) ∧
    Clear (withFaults [⟨3, 0⟩]) hw ∧ MayTrap (withFaults [⟨3, 0⟩]) ∧ (∃ k, Acts (withFaults [⟨3, 0⟩]) hw k) := by
  refine ⟨fun k hk => ⟨.inl ⟨3, rfl⟩, ?_⟩, fun k hk => ⟨.inl ⟨3, rfl⟩, ?_⟩, fun k hk => ⟨.inl ⟨3, rfl⟩, ?_⟩, ?_, ?_, ?_⟩
  · revert hk; revert k; simp only [Acts]; decide +kernel
  · revert hk; revert k; simp only [Acts]; decide +kernel
  · revert hk; revert k; simp only [Acts]; decide +kernel
  all_goals (try simp only [Clear, MayTrap, Acts]); decide +kernel
theorem witness_TimeAndErrors_named :
    (let s := onFl (fun f => { f with lanes := f.lanes.set 1 { f.lane 1 with faulty := [⟨0x43, 7⟩] } }) base
     let h : Hdr := ⟨false, true, 0, true⟩
     (issuing s).has 1 = true ∧ ¬Acts s h 1 ∧ (s.fl.lane 1).faulty = [⟨0x43, 7⟩] ∧ (∀ j : LaneId, j ≠ 1 → (s.fl.lane j).faulty = []) ∧
       (⟨0x43, 7⟩ : Gran).sel = (Src.v 3).bits ∧ s.fl.rflat.getLsbD 63 = false) ∧
    (let f : Flight := { leading with id := ⟨0, 0, 0⟩ }
     let i : ImageSide := ⟨0, 0x8000000, none, false, f⟩
     let s : State := { placed true with images := [i] }
     flightOf s i.flight.id = some leading ∧ leading.member = i.flight.member ∧ leading.ending = none) := by
  and_intros <;> (try simp only [Acts]) <;> decide +kernel

/-- DieLosses: a heartbeat that was heard, one that has been missed for fewer than 2^20 cycles of the hub and one for as many; a die lost with
its standby, whose grid is not replay-safe. -/
def unheard (since now : Word) : State :=
  { base with hubcount := now, dies := base.dies.set 0 { base.dies.get 0 with silent := some since } }
theorem witness_DieLosses_heartbeat :
    (base.dies.get 0).silent = none ∧ ((unheard 5 0x100004).dies.get 0).silent = some 5 ∧ (0x100004#64).toNat < (5#64).toNat + 2 ^ 20 ∧
    (5#64).toNat + 2 ^ 20 ≤ (0x100005#64).toNat ∧ (holding false (some 4)).standby ≠ none ∧
    (∀ g ∈ (holding false (some 4)).grids, (g.words.getD 0 0).getLsbD 62 = false ∧ g.line = [] ∧ g.stopped = false ∧ memberOne ∈ g.members) ∧
    (let c : Grid := { gridOne with id := 9, line := [⟨4, 0, 0⟩] }
     let s : State := { holding true (some 4) with grids := (holding true (some 4)).grids ++ [c] }
     c ∈ s.grids ∧ (∀ x ∈ s.grids, x.id = c.id → x = c) ∧ memberOf s ⟨4, 0, 0⟩ = some memberOne) := by
  and_intros <;> decide +kernel

/-- RatesAndPorts: a port whose request has waited for fewer than 2^22 cycles of the hub, and for as many; a reading told twice. -/
theorem witness_RatesAndPorts_waits :
    (let x : Expander := ⟨true, false, 0, 4, none, some 7⟩
     x.waiting = some 7 ∧ x.lost = false ∧ (0x400006#64).toNat < (7#64).toNat + 2 ^ 22 ∧ (7#64).toNat + 2 ^ 22 ≤ (0x400007#64).toNat) ∧
    assocGet 0 rated.power.temps .standby < 95 ∧
    (let rs : List (Nat × Word) := [(0x4000, 1), (0x4008, 2), (0x4FF8, 3)]
     rs = [(0x4000, 1)] ++ (0x4008, 2) :: [(0x4FF8, 3)] ∧ (∀ x ∈ [((0x4FF8 : Nat), (3 : Word))], x.1 ≠ 0x4008) ∧
       (0x4008 : Nat) ∉ [0x4F00, 0x4F08, 0x4F10, 0x4F18, 0x4F20] ∧ ∀ x ∈ rs, x.1 ≠ 0x4010) := by
  and_intros <;> decide +kernel

/-- GroupCommits: a REDUCE at level POD that no piece of has failed, and the package that is alone. -/
theorem witness_GroupCommits_command :
    (let c := cmdOf 3 5 [0, 0x40] true
     c ∈ (withCmd c).cmds ∧ c.result = none ∧ c.lvl = 5 ∧ c.fails = [] ∧ (withCmd c).phasers = []) ∧
    (∀ c ∈ (staged 0).cmds, ¬(c.result = none ∧ (c.cls = 2 ∨ c.cls = 3) ∧ c.lvl = 5)) := by
  and_intros <;> decide +kernel

/-- HostRegisters: the package in recovery and not. -/
theorem witness_HostRegisters_recovery :
    base.host.recovery = false ∧ ({ base with host := { base.host with recovery := true } } : State).host.recovery = true := ⟨rfl, rfl⟩

/-- HostFlights: a flight in a handler whose slot is absent; flights that a core switch takes off, STOPPED and not yet; one action under way. -/
def switching (st : Bool) : State :=
  let s := onFl (fun f => { f with switched := true, stopped := st, stoppedBy := if st then some .coreSwitch else none, run := none }) base
  { s with host := { s.host with fltPending := [plainOf 0x0030000000000000] } }
theorem witness_HostFlights_switch :
    (switching true).host.fltPending = [plainOf 0x0030000000000000] ∧ actOf 0x0030000000000000 = 3 ∧
    namedFlight 0x0030000000000000 = ⟨0, 0, 0⟩ ∧ (∃ x ∈ allFlights (switching true), x.id.coreNo = 0 ∧ x.slot ≠ none ∧ x.switched = true ∧ x.stopped = true) ∧
    swapRoom (switching true) 0 = true ∧ (∀ x ∈ allFlights (switching false), x.stopped = false) ∧
    (∃ x ∈ allFlights (switching false), x.id.coreNo = 0 ∧ x.slot ≠ none ∧ x.switched = true) ∧
    (∀ x ∈ allFlights base, x.switched = false) ∧ (allFlights (switching true)).Pairwise (fun x y => x.id ≠ y.id) ∧
    areaFree (switching true) 0 = some 0x8000000 ∧ (switching true).fl.stoppedBy = some .coreSwitch ∧
    (let s := held .illegal 0x1F000 0
     s.fl.hnd = true ∧ s.fl.live = true ∧ gridOps s s.fl = [] ∧ s.fl.tcause.getLsbD 9 = false ∧ s.fl.tpc.toNat < 0x20000 ∧
       (coreOf s 0).slots.get (Fin.ofNat 32 (s.fl.tpc.toNat / 4096)) ≠ .present ∧ ∃ k, (s.fl.lane k).st = .parked .service) := by
  and_intros <;> decide +kernel

/-- StepRunsDecoded: no message of the package to itself. -/
theorem witness_StepRunsDecoded_idle : loopback base base.outbox = none ∧ loopback (fresh 0x8100850102000000) (fresh 0x8100850102000000).outbox = none := by
  decide +kernel

end Sys2Proof.Tests
end

