-- ==== Sys2Proof/Tests/WitMemory.lean ====
section
/-! SUPPORT. Witnesses: for the statements about accesses, stores, atomics, fences and remote accesses, states and operands that meet
the hypotheses of each, clause by clause. -/

namespace Sys2Proof.Tests

set_option Elab.async false
set_option linter.unusedSimpArgs false
set_option linter.unusedTactic false
set_option linter.unreachableTactic false

open Sys2Proof Sys2Proof.Machine

/-- ChipAccesses: the last aligned word of the hall, one byte past it, a misaligned word, another context's line, an absent line. -/
theorem witness_ChipAccesses :
    let a : Acc := accOf .h hw (opM (.g 3) (.g 1) 3 0) false 0x5FFF8
    a.sp ∈ [MSpace.h, .g, .z] ∧ a.elems = [⟨0, 8, 0x5FFF8, false⟩] ∧ 0x5FFF8 + 8 ≤ 0x60000 ∧ 0x60000 < 0x5FFF9 + 8 ∧
    0x5FFF8 % 8 = 0 ∧ 0x5FFF4 % 8 ≠ 0 ∧
    (lineSt (setLine base (lineOf (hallKey 0 0x5FFF8)) ⟨some 1, true, true⟩) (lineOf (hallKey 0 0x5FFF8))).owner = some 1 ∧
    (1 : BitVec 6) ≠ base.fl.ctx ∧ base.fl.priv = false ∧
    (lineSt (setLine base (lineOf (hallKey 0 0x5FFF8)) ⟨none, false, true⟩) (lineOf (hallKey 0 0x5FFF8))).p = false := by decide

/-- BufferAccesses: an entry that is valid, one that is not, the last word inside, the first outside, a remote buffer, and a walk that
ends in a page and one that fails. -/
theorem witness_BufferAccesses :
    lineOf (bufKey mapped 0 0) ∉ mapped.poison ∧ (bufEntry mapped 0 0).v = true ∧ (bufEntry mapped 0 7).v = false ∧
    (bufEntry mapped 0 0).len = 0x100000 ∧ 0xFFFF8 + 8 ≤ 0x100000 ∧ 0x100000 < 0xFFFF9 + 8 ∧ (bufEntry mapped 0 0).owner = 0 ∧
    (bufEntry mapped 0 0).rem = false ∧ (bufEntry mapped 0 1).rem = true ∧ (bufEntry mapped 0 0).rd = true ∧
    translate mapped 0 (bufEntry mapped 0 0) 0 = .page 0x40000000 false none 0x2000 ∧
    translate mapped 0 (bufEntry mapped 0 0) 0x80000000 = .fail 1 := by
  and_intros <;> decide +kernel

/-- Words of the hall at 0x100 and of buffer 0 at its start. -/
def toHall : State := two 0x100 7
def toMain : State := withG (withG mapped 1 0) 2 7

/-- LoadsAndFailures, the words: a hall access, a main-memory one, and an index vector. -/
theorem witness_LoadsAndFailures :
    (Clear toHall hw ∧ scopeCheck toHall toHall.fl 0 = .ok () ∧ ReadsG toHall hw (.g 1) (fun _ => 0x100) ∧
      ∀ k, Acts toHall hw k → Reaches (noteScope toHall toHall.fl 0) toHall.fl (accOf .h hw (opM (.g 3) (.g 1) 3 0) false 0x100) false
        fun _ => hallKey 0 0x100) ∧
    (Clear toMain hw ∧ scopeCheck toMain toMain.fl 0 = .ok () ∧ ReadsG toMain hw (.g 1) (fun _ => 0) ∧
      ∀ k, Acts toMain hw k → Reaches (noteScope toMain toMain.fl 0) toMain.fl (accOf .m hw (opM (.g 3) (.g 1) 3 3) false 0) false
        fun _ => 0x40000000) ∧
    (3#3).toNat < 4 ∧ (ReadsV toHall hw (idxType 3) (.v 2) fun k => (toHall.fl.lane k).getV 2) ∧
    ∀ k, Acts toHall hw k → Reaches (noteScope toHall toHall.fl 0) toHall.fl (gatherOf .h hw (opM (.v 3) (.g 1) 3 0 0 (.v 2)) 0x100 0) false
      fun _ => hallKey 0 0x100 := by
  refine ⟨?_, ?_, ?_, readsV_reg _ _ _ (by decide), ?_⟩
  · and_intros <;> (try simp only [Clear, ReadsG, Acts, Reaches]) <;> decide
  · and_intros <;> (try simp only [Clear, ReadsG, Acts, Reaches]) <;> decide +kernel
  · decide
  · simp only [Acts, Reaches]; decide +kernel

/-- A load of the hall in which lane 0 is parked. -/
def hallLoad : Acc := accOf .h hw (opM (.g 3) (.g 1) 3 0) false 0x100
def parkedLoad : State := { base with fl := base.fl.setLane 0 { base.fl.lane 0 with st := .parked (.load hallLoad) } }

/-- LoadsAndFailures, LANE_RESUME and the failures: a parked load; a line that is absent; misaligned addresses in every lane. -/
theorem witness_LoadsAndFailures_resume :
    flightOf parkedLoad parkedLoad.fl.id = some parkedLoad.fl ∧ (parkedLoad.fl.lane 0).st = .parked (.load hallLoad) ∧
    hallLoad.kind = .load ∧ Reaches parkedLoad parkedLoad.fl hallLoad false (fun _ => hallKey 0 0x100) ∧ hallLoad.sp ≠ .m := by
  and_intros <;> (try simp only [Reaches]) <;> decide +kernel

theorem witness_LoadsAndFailures_absent :
    let s := setLine toHall (lineOf (hallKey 0 0x100)) ⟨none, false, true⟩
    (∀ k, Acts s hw k → probes (noteScope s s.fl 0) s.fl hallLoad false = hallLoad.elems.map fun e => (e, .absent (lineOf (hallKey 0 0x100)))) ∧
    MayTrap toHall ∧ Acts toHall hw 0 ∧ probes (noteScope toHall toHall.fl 0) toHall.fl (accOf .h hw (opM (.g 3) (.g 1) 3 0) false 0x101) false =
      (accOf .h hw (opM (.g 3) (.g 1) 3 0) false 0x101).elems.map fun e => (e, .trap .align 0x101) := by
  refine ⟨?_, ?_⟩
  · simp only [Acts]; decide
  · and_intros <;> (try simp only [Acts, MayTrap]) <;> decide

/-- Stores: nothing held, a hall place and one in main memory. -/
theorem witness_Stores :
    (Clear toHall h0 ∧ scopeCheck toHall toHall.fl 0 = .ok () ∧ ReadsG toHall h0 (.g 1) (fun _ => 0x100) ∧ ReadsG toHall h0 (.g 2) (fun _ => 7) ∧
      toHall.fl.live = true ∧ toHall.fl.held.length ≤ 16 ∧
      ∀ k, Acts toHall h0 k → Reaches (noteScope toHall toHall.fl 0) toHall.fl (accOf .h h0 (opM (.g 2) (.g 1) 3 0) false 0x100) true
        fun _ => hallKey 0 0x100) ∧
    (Clear toMain h0 ∧ toMain.fl.live = true ∧ (∀ k, Acts toMain h0 k → Settled toMain k) ∧
      (∀ k, Acts toMain h0 k → Reaches (noteScope toMain toMain.fl 0) toMain.fl (accOf .m h0 (opM (.g 2) (.g 1) 3 3) false 0) true
        fun _ => 0x40000000) ∧ lineOf 0x40000000 ∉ toMain.poison) ∧
    ReadsV toHall h0 .uint64 (Dst.asSrc (.v 2)) fun k => (toHall.fl.lane k).getV 2 := by
  refine ⟨?_, ?_, readsV_reg _ _ _ (by decide)⟩
  · and_intros <;> (try simp only [Clear, ReadsG, Acts, Reaches]) <;> decide
  · and_intros <;> (try simp only [Clear, ReadsG, Acts, Reaches, Settled]) <;> decide +kernel

/-- Atomics: the hall, a FREE line that reads zero, and main memory; ACAS reads its comparand. -/
theorem witness_Atomics :
    (Clear toHall hw ∧ scopeCheck toHall toHall.fl 0 = .ok () ∧ ReadsG toHall hw (.g 1) (fun _ => 0x100) ∧ ReadsG toHall hw (.g 2) (fun _ => 7) ∧
      ReadsG toHall hw (Dst.asSrc (.g 2)) (fun _ => 7) ∧ toHall.fl.live = true ∧ (∀ x ∈ toHall.fl.held, ¬Acts toHall hw x.lane) ∧
      (3#3).toNat = 3 ∧ toHall.mem = [] ∧
      ∀ k, Acts toHall hw k → Reaches (noteScope toHall toHall.fl 0) toHall.fl (atomicOf .add hw (opM (.g 3) (.g 1) 3 0 0 (.g 2)) 8 0x100 7 0) false
        fun _ => hallKey 0 0x100) ∧
    ∀ k, Acts toMain hw k → Reaches (noteScope toMain toMain.fl 0) toMain.fl (atomicOf .cas hw (opM (.g 3) (.g 1) 2 3 0 (.g 2)) 4 0 7 0) false
        fun _ => 0x40000000 := by
  refine ⟨?_, ?_⟩
  · and_intros <;> (try simp only [Clear, ReadsG, Acts, Reaches]) <;> decide
  · simp only [Acts, Reaches]; decide +kernel

/-- A lane that is parked on an atomic which has been performed. -/
def hallAtomic : Acc := atomicOf .add hw (opM (.g 3) (.g 1) 3 0 0 (.g 2)) 8 0x100 7 0
theorem witness_Atomics_resume :
    let s := { base with fl := base.fl.setLane 0 { base.fl.lane 0 with st := .parked (.atomic hallAtomic 5) } }
    flightOf s s.fl.id = some s.fl ∧ (s.fl.lane 0).st = .parked (.atomic hallAtomic 5) ∧ hallAtomic.sgn = false := by
  decide +kernel

/-- A store of lane 0 to package 1 that has not been answered, at cycle 0. -/
def openStore : Outstanding :=
  ⟨9, .store ⟨0, 0, 0⟩ 0, 0, 0, 0x0010000000000000, 1, ⟨9, false, 0, 0, 0, 3, 5, 0, .store [1]⟩, 0⟩
def storing : State := { base with outstanding := [openStore] }

/-- LinesAndFences, the line words: a line of the hall; PREL's effect to come, and none. -/
theorem witness_LinesAndFences :
    Clear toHall hw ∧ scopeCheck toHall toHall.fl 0 = .ok () ∧ ReadsG toHall hw (.g 1) (fun _ => 0x100) ∧
    (∀ k, Acts toHall hw k → probeChip (noteScope toHall toHall.fl 0) toHall.fl .h ⟨0, 64, 0x100, false⟩ false = .at_ (hallKey 0 0x100)) ∧
    (∀ k, Acts toHall hw k → Settled toHall k) ∧ ({ base with prels := [⟨.hall, 0, 4⟩] } : State).prels = [⟨.hall, 0, 4⟩] ∧ base.prels = [] := by
  and_intros <;> (try simp only [Clear, ReadsG, Acts, Settled]) <;> decide

/-- LinesAndFences, the fence: with nothing open; with an open store; and 2^24 cycles after it began to wait. -/
theorem witness_LinesAndFences_fence :
    (Clear storing h0 ∧ (∃ k, Acts storing h0 k ∧ ¬Settled storing k) ∧ Takes storing hw (.p 1)) ∧
    (let f : Flight := { runner with stall := some (.order 1 0 true) }
     let s : State := { storing with fl := f, dies := Vector.replicate 4 ⟨true, 0, 0x1000000, 0, 0, false, none⟩ }
     flightOf s f.id = some f ∧ f.stall = some (.order 1 0 true) ∧ LaneSet.has 1 0 = true ∧
       (0#64).toNat + 2 ^ 24 ≤ (ccountOf s f.id.die).toNat ∧ (∃ x ∈ s.outstanding, x.owner = .store f.id 0) ∧
       ∀ x ∈ s.outstanding, ∀ y ∈ s.outstanding, x.id = y.id → x = y) := by
  refine ⟨⟨?_, ⟨0, ?_, ?_⟩, ?_⟩, ?_⟩
  · simp only [Clear, Acts]; decide
  · simp only [Acts]; decide
  · simp only [Settled]; decide
  · intro p hp; cases hp; simp only [TakesP, Acts]; decide
  · decide +kernel

/-- A handle of buffer 1, which is in package 1. -/
def toPeer : State := withG (withG mapped 1 0x0010000000000008) 2 7

/-- RemoteWords: an element that the checks let through to the peer. -/
theorem witness_RemoteWords :
    Clear toPeer hw ∧ scopeCheck toPeer toPeer.fl 0 = .ok () ∧ ReadsG toPeer hw (.g 1) (fun _ => 0x0010000000000008) ∧
    ReadsG toPeer hw (Dst.asSrc (.g 2)) (fun _ => 7) ∧ toPeer.fl.held.length ≤ 16 ∧
    (∀ k, Acts toPeer hw k → ∀ store, probes (noteScope toPeer toPeer.fl 0) toPeer.fl (accOf .x hw (opM (.g 2) (.g 1) 3 4) false 0x0010000000000008) store =
      (accOf .x hw (opM (.g 2) (.g 1) 3 4) false 0x0010000000000008).elems.map fun e => (e, .far 1 3 5 8)) := by
  and_intros <;> (try simp only [Clear, ReadsG, Acts]) <;> decide +kernel

/-- Lane 0 waits for one element from package 1. -/
def farAcc : Acc := accOf .x hw (opM (.g 3) (.g 1) 3 4) false 0x0010000000000008
def openLoad : Outstanding :=
  ⟨9, .lane ⟨0, 0, 0⟩ 0 0, 0, 0, 0x0010000000000008, 1, ⟨9, false, 0, 0, 0, 3, 5, 8, .load 8⟩, 0⟩
def farWait (got : List (Nat × List Byte)) (n : Nat) : State :=
  { mapped with outstanding := [openLoad], fl := mapped.fl.setLane 0 { mapped.fl.lane 0 with st := .parked (.remote farAcc got [] n) } }

/-- RemoteEvents: an open element and its lane; a lane whose elements have all come; the timeout's last cycle. -/
theorem witness_RemoteEvents :
    (farWait [] 1).outstanding.find? (fun x => decide (x.id = openLoad.id)) = some openLoad ∧ openLoad.owner = .lane (farWait [] 1).fl.id 0 0 ∧
    flightOf (farWait [] 1) (farWait [] 1).fl.id = some (farWait [] 1).fl ∧ ((farWait [] 1).fl.lane 0).st = .parked (.remote farAcc [] [] 1) ∧
    (0#64).toNat + 2 ^ 24 ≤ (0x1000000#64).toNat ∧ (groupEntry (farWait [] 1) 1).getLsbD 63 = true ∧
    ((farWait [(0, [1, 2, 3, 4, 5, 6, 7, 8])] 0).fl.lane 0).st = .parked (.remote farAcc [(0, [1, 2, 3, 4, 5, 6, 7, 8])] [] 0) ∧
    farAcc.kind = .load ∧ farAcc.sp = .x ∧ farAcc.sgn = false ∧ farAcc.size ∈ [1, 2, 4, 8, 64] ∧
    ∀ e ∈ farAcc.elems, ([(0, [1, 2, 3, 4, 5, 6, 7, 8])] : List (Nat × List Byte)).lookup e.pos = some [1, 2, 3, 4, 5, 6, 7, 8] ∧
      ([1, 2, 3, 4, 5, 6, 7, 8] : List Byte).length = e.len := by
  and_intros <;> decide +kernel

/-- RemoteEvents, the peer's side: a request that its checks let through, one of an earlier generation, a store that waits 2^22 hub
cycles, and an engine's or a load's request 2^20 after its last keep-alive. -/
def inReq (op : RemOp) : RemRequest := ⟨4, false, 1, 0, 0, 0, 0, 16, op⟩
theorem witness_RemoteEvents_peer :
    ((inReq (.load 8)).gen = mapped.podgen ∧ (ctxOf mapped (inReq (.load 8)).pctx).live = true ∧
      probeMain mapped 0 (reqRight (inReq (.load 8))) ⟨0, reqLen (inReq (.load 8)), reqHandle (inReq (.load 8)), false⟩ true = .at_ 0x40000010 ∧
      lineOf 0x40000010 ∉ mapped.poison ∧ (reqRight (inReq (.store [1]))) = .wr) ∧
    (let x : Inbound := ⟨4, inReq (.store [1]), [], 0, 0, []⟩
     ([x] : List Inbound).find? (fun y => decide (y.id = x.id)) = some x ∧ x.arrived.toNat + 2 ^ 22 ≤ (0x400000#64).toNat) ∧
    let x : Inbound := ⟨4, inReq (.load 8), [], 0, 0, []⟩
    x.kept.toNat + 2 ^ 20 ≤ (0x100000#64).toNat := by
  and_intros <;> decide +kernel

/-- BufferAccesses, the walk: to the leaf of level 4 for address 0x40000000; the last frame of the tier and the first beyond; a
pinned buffer's leaf above level 4, and one of another stack. -/
theorem witness_BufferAccesses_walk :
    (WalkTo mapped 0 0x40000000 4 (fun l => [0, 0x1000, 0x2008, 0x3000, 0x4000].getD l 0)
      fun l => [0, 0x8000000000002000, 0x8000000000003000, 0x8000000000004000, 0xC200000080000000].getD l 0) ∧
    (0x4000 / 64 < lineCapacity (retirements mapped) ∧ lineOf 0x4000 ∉ mapped.poison ∧ (0xC200000080000000#64).getLsbD 63 = true ∧
      (0xC200000080000000#64).getLsbD 62 = true) ∧
    LeafKind mapped (bufEntry mapped 0 0) 4 0xC000005FFFFF0000 6291456 6 ∧
    (∀ n, ¬LeafKind mapped (bufEntry mapped 0 0) 4 0xC000000080000000 6291455 n) ∧
    LeafKind mapped (bufEntry mapped 0 3) 3 0xC200000080000000 0 3 ∧ LeafKind mapped (bufEntry mapped 0 3) 4 0xC200000000010000 0 4 ∧
    LeafKind mapped (bufEntry mapped 0 0) 4 0xD800000080000000 0 2 := by
  refine ⟨⟨?_, ?_, ?_⟩, ?_, ?_, ?_, ?_, ?_, ?_⟩
  · decide +kernel
  · intro l h1 h2; interval_cases l <;> decide +kernel
  · intro l h1 h2; interval_cases l <;> (simp only [pteClean]; decide +kernel)
  · decide +kernel
  · simp only [LeafKind, pteClean]; decide +kernel
  · intro n
    have h : pteClean 0xC000000080000000 := by simp only [pteClean]; decide
    have h3 : (bufEntry mapped 0 0).il = 0 := by decide +kernel
    have h6 : lineCapacity (retirements mapped) / 1024 = 6291456 := by decide +kernel
    simp only [LeafKind, h, h3, h6]
    simp [pteAddr, pteFrame, leafFrames]
  all_goals simp only [LeafKind, pteClean]; decide +kernel

/-- Buffer 4 lies on no page: a load of it misses, and parks with one record. -/
def noPage : State := withG (withG mapped 1 0x0040000000000000) 2 7
def missAcc : Acc := accOf .m hw (opM (.g 3) (.g 1) 3 3) false 0x0040000000000000
def missWait (answer : Option Bool) : State :=
  { noPage with fl := noPage.fl.setLane 0 { noPage.fl.lane 0 with st := .parked (.fault missAcc [⟨0x8000, answer⟩]) } }

/-- LoadsAndFailures: a page fault; its park answered, not answered, and refused; a poisoned line; a failed park. -/
theorem witness_LoadsAndFailures_miss :
    (∀ k, Acts noPage hw k → Misses (noteScope noPage noPage.fl 0) noPage.fl missAcc false (fun _ => some (1, 0x80000000)) fun _ => 0) ∧
    (∀ a : Option Bool, flightOf (missWait a) (missWait a).fl.id = some (missWait a).fl ∧
      ((missWait a).fl.lane 0).st = .parked (.fault missAcc [⟨0x8000, a⟩])) ∧ missAcc.sp = .m ∧ missAcc.kind = .load ∧
    Misses (missWait (some true)) (missWait (some true)).fl missAcc false (fun _ => some (1, 0x80000000)) (fun _ => 0) ∧
    RefusedAt (missWait (some false)) (missWait (some false)).fl missAcc [⟨0x8000, some false⟩] (fun e => some (.pageFault, e.addr)) fun _ => 0 := by
  refine ⟨?_, ?_, rfl, rfl, ?_, fun _ => .fault 1 0x80000000, ?_, fun e _ => ⟨nofun, fun _ _ _ => rfl, nofun⟩⟩
  · simp only [Acts, Misses]; decide +kernel
  · decide +kernel
  · simp only [Misses]; decide +kernel
  · decide +kernel

def poisoned : State := { toMain with poison := [lineOf 0x40000000] }
def mainAcc : Acc := accOf .m hw (opM (.g 3) (.g 1) 3 3) false 0
theorem witness_LoadsAndFailures_poison :
    MayTrap poisoned ∧ (∀ cl, portLost poisoned cl = false) ∧
    (∀ k, Acts poisoned hw k → Fails (noteScope poisoned poisoned.fl 0) poisoned.fl mainAcc false (fun _ => some (.memPoison, 0)) (fun _ => 0) ∧
      probe (noteScope poisoned poisoned.fl 0) poisoned.fl mainAcc false ⟨0, 8, 0, false⟩ = .at_ 0x40000000) ∧
    TrapFor mainAcc false (fun _ => some (.memPoison, 0)) ⟨5, 0, .memPoison, 0, 1⟩ ∧ Acts poisoned hw 0 ∧
    let s := eachLane base fun l => { l with fail := some (⟨5, 0, .pageFault, 8, 1⟩, 0) }
    s.fl.run ≠ none ∧ MayTrap s ∧ ∀ k, (s.fl.lane k).fail = some (⟨5, 0, .pageFault, 8, 1⟩, 0) := by
  refine ⟨?_, ?_, ?_, ⟨rfl, rfl, rfl, ⟨0, 8, 0, false⟩, ?_, rfl, ?_⟩, ?_, ?_⟩
  · simp only [MayTrap]; decide +kernel
  · rintro (_ | _ | _ | _) <;> first | rfl | decide +kernel
  · simp only [Acts, Fails]; decide +kernel
  · decide +kernel
  · intro y hy c hc
    cases hc
    exact .inr ⟨rfl, Nat.zero_le _⟩
  · simp only [Acts]; decide +kernel
  · simp only [MayTrap]; decide +kernel

/-- Only lane 0 of the flight at issue is live. -/
def lane0 (s : State) : State :=
  onFl (fun f => { f with run := some { set := 1, rep := none }, lanes := tab fun k => if k.val < 1 then f.lane k else Lane.blank }) s

/-- Stores: one that misses and one that fails its checks; an aligned 64 bytes of a poisoned line, and 8 of them; a held store whose
translation came, and one refused. -/
theorem witness_Stores_held :
    (noPage.fl.live = true ∧ (∀ k, Acts noPage h0 k → Settled noPage k) ∧ ∀ k, Acts noPage h0 k →
      Misses (noteScope noPage noPage.fl 0) noPage.fl missAcc true (fun _ => some (1, 0x80000000)) fun _ => 0) ∧
    (∀ k, Acts toHall h0 k → Fails (noteScope toHall toHall.fl 0) toHall.fl (accOf .h h0 (opM (.g 2) (.g 1) 3 0) false 0x5FFFC) true
      (fun _ => some (.bounds, 0x60000)) fun _ => 0) ∧ MayTrap toHall ∧
    TrapFor (accOf .h h0 (opM (.g 2) (.g 1) 3 0) false 0x5FFFC) true (fun _ => some (.bounds, 0x60000)) ⟨5, 0, .bounds, 0x60000, 1⟩ ∧
    ((∀ j, Acts (lane0 poisoned) h0 j ↔ j = 0) ∧
      Reaches (noteScope (lane0 poisoned) (lane0 poisoned).fl 0) (lane0 poisoned).fl mainAcc true (fun _ => 0x40000000) ∧
      lineOf 0x40000000 ∈ poisoned.poison ∧ mainAcc.elems = [⟨0, 8, 0, false⟩] ∧
      (accOf .m h0 (opM (.v 2) (.g 1) 3 3) true 0).elems = [⟨0, 64, 0, false⟩]) ∧
    ∀ a ∈ [true, false],
      let f := { mapped.fl with held := [⟨0, 0, [⟨0, [1, 2], []⟩], [⟨0, some a⟩]⟩] }
      let s := { mapped with fl := f }
      (nextHeld s).isSome = true ∧ s.power.shutDown = false ∧ s.dues.all (fun d => !d.ready) = true ∧ flightOf s f.id = some f ∧ f.live = true ∧
        probeMain s f.ctx .wr ⟨0, 2, 0, false⟩ true = .at_ 0x40000000 := by
  refine ⟨⟨rfl, ?_, ?_⟩, ?_, ?_, ⟨rfl, rfl, rfl, ⟨0, 8, 0x5FFFC, false⟩, ?_, rfl, fun y hy c hc => ?_⟩, ⟨?_, ?_, ?_, ?_, ?_⟩, ?_⟩
  · simp only [Acts, Settled]; decide +kernel
  · simp only [Acts, Misses]; decide +kernel
  · simp only [Acts, Fails]; decide +kernel
  · simp only [MayTrap]; decide
  · decide
  · have : y = ⟨0, 8, 0x5FFFC, false⟩ := by
      have h : (accOf .h h0 (opM (.g 2) (.g 1) 3 0) false 0x5FFFC).elems = [⟨0, 8, 0x5FFFC, false⟩] := by decide
      rw [h] at hy; simpa using hy
    subst this; simp
  · simp only [Acts]; decide +kernel
  · simp only [Reaches]; decide +kernel
  all_goals decide +kernel

/-- Atomics: one of a lane parked on a page that has come; a cellar page whose port lacks the class; one of the peer. -/
def casAcc : Acc := atomicOf .cas hw (opM (.g 3) (.g 1) 3 3 0 (.g 2)) 8 0 7 0
def cellarAcc : Acc := atomicOf .fadd hw (opM (.g 3) (.g 1) 3 3 0 (.g 2)) 8 0x0030000000010000 7 0
theorem witness_Atomics_more :
    (let s := { mapped with fl := mapped.fl.setLane 0 { mapped.fl.lane 0 with st := .parked (.fault casAcc [⟨0, some true⟩]) } }
     flightOf s s.fl.id = some s.fl ∧ s.fl.live = true ∧ s.fl.held = [] ∧ s.inbound = [] ∧
       (s.fl.lane 0).st = .parked (.fault casAcc [⟨0, some true⟩]) ∧ casAcc.size = 8 ∧ casAcc.elems = [⟨0, 8, 0, false⟩] ∧
       Reaches s s.fl casAcc false fun _ => 0x40000000) ∧
    (cellarKey 1 0 ≤ cellarKey 1 8 ∧ cellarKey 1 8 < cellarKey 2 0 ∧ cellarKey 2 0 ≤ cellarKey 2 0) ∧
    (∀ k, Acts toPeer hw k → probes (noteScope toPeer toPeer.fl 0) toPeer.fl (atomicOf .add hw (opM (.g 3) (.g 1) 3 4 0 (.g 2)) 8 0x0010000000000008 7 0)
      false = (atomicOf .add hw (opM (.g 3) (.g 1) 3 4 0 (.g 2)) 8 0x0010000000000008 7 0).elems.map fun e => (e, .far 1 3 5 8)) ∧
    ∀ k, Acts noPage hw k → Misses (noteScope noPage noPage.fl 0) noPage.fl (atomicOf .add hw (opM (.g 3) (.g 1) 3 3 0 (.g 2)) 8 0x0040000000000000 7 0)
      false (fun _ => some (1, 0x80000000)) fun _ => 0 := by
  refine ⟨?_, ?_, ?_, ?_⟩
  · simp only [Reaches]; decide +kernel
  · decide +kernel
  · simp only [Acts]; decide +kernel
  · simp only [Acts, Misses]; decide +kernel

/-- RemoteWords: a peer that is not reachable. -/
def lostPeer : State := lane0 { toPeer with group := [(0, 0x8000000000000000), (1, 0xC000000000000000)] }
theorem witness_RemoteWords_lost :
    (∀ j, Acts lostPeer h0 j ↔ j = 0) ∧ lostPeer.fl.live = true ∧ farAcc.elems = [⟨0, 8, 0x0010000000000008, false⟩] ∧
    ∀ store, probes (noteScope lostPeer lostPeer.fl 0) lostPeer.fl farAcc store =
      [(⟨0, 8, 0x0010000000000008, false⟩, .trap .peerUnreachable 0x0010000000000008)] := by
  refine ⟨?_, ?_, ?_, ?_⟩
  · simp only [Acts]; decide +kernel
  all_goals decide +kernel

/-- RemoteEvents: a lane all of whose elements are answered, one with a failure; at the peer a request that a check refuses, one that
misses, one of a poisoned line, and one of a context that is not live. -/
def failedWait : State :=
  { mapped with fl := mapped.fl.setLane 0 { mapped.fl.lane 0 with st := .parked (.remote farAcc [] [(0, .peerUnreachable, 8)] 0) } }
theorem witness_RemoteEvents_more :
    (flightOf failedWait failedWait.fl.id = some failedWait.fl ∧
      (failedWait.fl.lane 0).st = .parked (.remote farAcc [] [(0, .peerUnreachable, 8)] 0) ∧
      (⟨0, 8, 0x0010000000000008, false⟩ : Elem) ∈ farAcc.elems ∧ farAcc.kind = .load) ∧
    (probeMain mapped 0 .rd ⟨0, 8, 0x0070000000000000, false⟩ true = .trap .bounds 0x0070000000000000) ∧
    (probeMain mapped 0 .rd ⟨0, 8, 0x0040000000000000, false⟩ true = .fault 1 0x80000000) ∧ (ctxOf mapped 5).live = false ∧
    lineOf 0x40000010 ∈ poisoned.poison ∧ (0x40000010 : Nat) < cellarKey 1 0 := by
  and_intros <;> decide +kernel

end Sys2Proof.Tests
end

