-- ==== Sys2Proof/Tests/WitWords.lean ====
section
/-! SUPPORT. Witnesses: for the statements about scalar, floating-point and vector words, states and operands that meet the
hypotheses of each, clause by clause, at the boundary values of the clauses. -/

namespace Sys2Proof.Tests

set_option Elab.async false
set_option linter.unusedSimpArgs false
set_option linter.unusedTactic false
set_option linter.unreachableTactic false

open Sys2Proof Sys2Proof.Machine

/-- ScalarArithmetic, ScalarBits: a word whose sources read as the boundary values, in both lanes. -/
theorem witness_ScalarArithmetic :
    Clear (two 0x8000000000000000 0xFFFFFFFFFFFFFFFF) hw ∧
    ReadsG (two 0x8000000000000000 0xFFFFFFFFFFFFFFFF) hw (.g 1) (fun _ => 0x8000000000000000) ∧
    ReadsG (two 0x8000000000000000 0xFFFFFFFFFFFFFFFF) hw (.g 2) (fun _ => 0xFFFFFFFFFFFFFFFF) ∧
    Acts (two 0x8000000000000000 0xFFFFFFFFFFFFFFFF) hw 1 := by
  and_intros <;> (try simp only [Clear, ReadsG, ReadsP, ReadsV, TakesP, Acts, MayTrap, AllReady, TargetOk]) <;> decide

/-- ScalarBits: counts 64 and beyond, and a third source. -/
theorem witness_ScalarBits : Clear (withG (two 1 64) 4 0x80) hw ∧ ReadsG (withG (two 1 64) 4 0x80) hw (.g 1) (fun _ => 1) ∧
    ReadsG (withG (two 1 64) 4 0x80) hw (.g 2) (fun _ => 64) ∧ ReadsG (withG (two 1 64) 4 0x80) hw (.g 4) (fun _ => 0x80) ∧
    ReadsG (withG (two 1 64) 4 0x80) hw (Dst.asSrc (.g 3)) (fun _ => 0) ∧ ReadsG base hw (.imm 127) (fun _ => 0xFFFFFFFFFFFFFFFF) := by
  and_intros <;> (try simp only [Clear, ReadsG, ReadsP, ReadsV, TakesP, Acts, MayTrap, AllReady, TargetOk]) <;> decide

/-- MovesAndCompares: general and predicate operands, and predicate destinations that take a result; p0 reads true. -/
theorem witness_MovesAndCompares : Clear (two 3 5) hw ∧ ReadsG (two 3 5) hw (.g 1) (fun _ => 3) ∧ ReadsG (two 3 5) hw (.g 2) (fun _ => 5) ∧
    TakesP (two 3 5) hw (.p 7) ∧ TakesP (two 3 5) hw (.p 0) ∧ ReadsP (two 3 5) hw (.p 0) (fun _ => true) ∧
    ReadsP (two 3 5) hw (.p 7) (fun _ => false) ∧ ReadsG (two 3 5) hw (Dst.asSrc (.g 1)) (fun _ => 3) ∧
    (∀ j : BitVec 3, (opA (.g 3) (.j 7)).dst ≠ .j j) := by
  and_intros <;> (try simp only [Clear, ReadsG, ReadsP, ReadsV, TakesP, Acts, MayTrap, AllReady, TargetOk]) <;> decide

/-- As `two`, with the conditions of ICTL enabled, or those of FPCTL. -/
def trapOn (i : BitVec 2) (a b : Word) : State := onFl (fun f => { f with ictl := i }) (two a b)
def fpOn (i : BitVec 8) (a b : Word) : State := onFl (fun f => { f with fpctl := i }) (two a b)

/-- Divisions: no enabled condition; an enabled zero divisor; an enabled overflow. -/
theorem witness_Divisions :
    (Clear (two 7 0) hw ∧ ReadsG (two 7 0) hw (.g 1) (fun _ => 7) ∧ ReadsG (two 7 0) hw (.g 2) (fun _ => 0) ∧
      (two 7 0).fl.ictl = 0) ∧
    (Clear (trapOn 1 7 0) hw ∧ ReadsG (trapOn 1 7 0) hw (.g 1) (fun _ => 7) ∧ ReadsG (trapOn 1 7 0) hw (.g 2) (fun _ => 0) ∧
      MayTrap (trapOn 1 7 0) ∧ Acts (trapOn 1 7 0) hw 0 ∧ (trapOn 1 7 0).fl.ictl.getLsbD 0 = true) ∧
    (Clear (trapOn 2 0x8000000000000000 0xFFFFFFFFFFFFFFFF) hw ∧
      ReadsG (trapOn 2 0x8000000000000000 0xFFFFFFFFFFFFFFFF) hw (.g 1) (fun _ => 0x8000000000000000) ∧
      ReadsG (trapOn 2 0x8000000000000000 0xFFFFFFFFFFFFFFFF) hw (.g 2) (fun _ => 0xFFFFFFFFFFFFFFFF) ∧
      MayTrap (trapOn 2 0x8000000000000000 0xFFFFFFFFFFFFFFFF) ∧ Acts (trapOn 2 0x8000000000000000 0xFFFFFFFFFFFFFFFF) hw 0 ∧
      (trapOn 2 0x8000000000000000 0xFFFFFFFFFFFFFFFF).fl.ictl.getLsbD 1 = true) ∧ (0x8000000000000000#64).toInt = -9223372036854775808 ∧ (0xFFFFFFFFFFFFFFFF#64).toInt = -1 := by
  and_intros <;> (try simp only [Clear, ReadsG, ReadsP, ReadsV, TakesP, Acts, MayTrap, AllReady, TargetOk]) <;> decide

/-- The part with slot 31 of core 0 PRESENT. -/
def far31 : State := setCore base 0 { coreOf base 0 with slots := (coreOf base 0).slots.set 31 .present }

/-- Branches: the last word of the branch's slot is a near target, a word further is not; a PRESENT slot's last word is a far one,
and the end of the store is not; a misaligned target. -/
theorem witness_Branches : Clear far31 hw ∧ MayTrap far31 ∧ (∃ k, Acts far31 hw k) ∧
    (∀ k, Acts far31 hw k → TargetOk far31 k 0xFF8 true) ∧ (∀ k, Acts far31 hw k → ¬TargetOk far31 k 0x1000 true) ∧
    (∀ k, Acts far31 hw k → TargetOk far31 k 0x1FFF8 false) ∧ (∀ k, Acts far31 hw k → ¬TargetOk far31 k 0x20000 false) ∧
    (∀ k, Acts far31 hw k → ¬TargetOk far31 k 4 true) ∧ (4#64).toNat % 8 ≠ 0 ∧ (0x1000#64).toNat % 8 = 0 ∧
    ReadsG (withG far31 1 0x1FFF8) hw (.g 1) (fun _ => 0x1FFF8) := by
  and_intros <;> (try simp only [Clear, ReadsG, ReadsP, ReadsV, TakesP, Acts, MayTrap, AllReady, TargetOk]) <;> decide

/-- SystemRegisters: the highest lane of Active supplies what the flight holds; the values at the ends of what each register allows;
a user and a privileged flight. -/
theorem witness_SystemRegisters :
    (Clear base hw ∧ MayTrap base ∧ base.fl.priv = false ∧ (issuing base).has 1 = true ∧ Acts base hw 1 ∧ ∀ j, Acts base hw j → j ≤ 1) ∧
    Clear (two 31 32) h0 ∧ (ReadsG (two 31 32) h0 (.g 1) fun _ => 31) ∧ (ReadsG (two 31 32) h0 (.g 2) fun _ => 32) ∧
    (ReadsG (two 0xFC 0xFD) h0 (.g 1) fun _ => 0xFC) ∧ (ReadsG (two 0xFC 0xFD) h0 (.g 2) fun _ => 0xFD) ∧
    (ReadsG (two 0xFFFF0001FFF9 0x1FFF8) h0 (.g 1) fun _ => 0xFFFF0001FFF9) ∧ (ReadsG (two 0xFFFF0001FFF9 0x1FFF8) h0 (.g 2) fun _ => 0x1FFF8) ∧
    (0xFC#64).toNat < 2 ^ 8 ∧ (0xFC#64).toNat % 8 ≤ 4 ∧ ¬(0xFD#64).toNat % 8 ≤ 4 ∧
    (0xFFFF0001FFF9#64).extractLsb' 17 15 = 0 ∧ (0xFFFF0001FFF9#64).extractLsb' 1 2 = 0 ∧ (0x1FFF8#64).toNat < 2 ^ 17 ∧
    (onFl (fun f => { f with priv := true }) base).fl.priv = true ∧ Clear (onFl (fun f => { f with priv := true }) base) h0 := by
  and_intros <;> (try simp only [Clear, ReadsG, ReadsP, ReadsV, TakesP, Acts, MayTrap, AllReady, TargetOk]) <;> decide

/-- ExitsAndTraps: a word that acts in both live lanes, every other lane having exited. -/
theorem witness_ExitsAndTraps : Clear base h0 ∧ MayTrap base ∧ Acts base h0 0 ∧
    (∀ k, Acts base h0 k ∨ (base.fl.lane k).st = .exited) := by
  and_intros <;> (try simp only [Clear, ReadsG, ReadsP, ReadsV, TakesP, Acts, MayTrap, AllReady, TargetOk]) <;> decide

/-- REP as the word at pc 0, with ADD g5, g1, g2 in the next slot. -/
def repTarget : State := writeWord base (storeKey 0 8) 0x0100850102000000

/-- A repetition of three repeats in progress at repeat i. -/
def repAt (i : Nat) : State :=
  onFl (fun f => { f with run := some ⟨3, some { i := i, last := 3, word := 0, step := 0, lanes := 3 }⟩ }) base

/-- Repetitions: a target that may be repeated, with every field stepped to its last register and no further; REP as the 24th word; a
repetition in progress at its last and at an earlier repeat. -/
theorem witness_Repetitions :
    Clear repTarget h0 ∧ repeating repTarget = none ∧ (issuePc repTarget + 8).toNat % 4096 ≠ 0 ∧ MayTrap repTarget ∧
    (issuing repTarget).has 0 = true ∧
    decode (codeWord repTarget repTarget.fl.id.coreNo (issuePc repTarget + 8)) = .ok (.add hw (opA (.g 5) (.g 1) (.g 2))) ∧
    Instr.repOk (.add hw (opA (.g 5) (.g 1) (.g 2))) = true ∧
    stepsOk 0x0100850102000000 0xE (Instr.selectors (.add hw (opA (.g 5) (.g 1) (.g 2)))) 59 = true ∧
    stepsOk 0x0100850102000000 0xE (Instr.selectors (.add hw (opA (.g 5) (.g 1) (.g 2)))) 60 = false ∧
    (∀ k, (issuing repTarget).has k = true → (repTarget.fl.lane k).remain = 0 ∧ (repTarget.fl.lane k).repCont = false ∧
      (repTarget.fl.lane k).repFin = false ∧ (repTarget.fl.lane k).pos < 23) ∧
    ((eachLane repTarget fun l => { l with pos := 23 }).fl.lane 0).pos = 23 ∧
    (∀ i ∈ [0, 2], Clear (repAt i) h0) ∧ (∀ i ∈ [0, 2], (repeating (repAt i)).isSome = true) := by
  and_intros <;> (try simp only [Clear, ReadsG, ReadsP, ReadsV, TakesP, Acts, MayTrap, AllReady, TargetOk]) <;> decide

/-- RejoinMasks: READY lanes, a mask operand, and a value for a mask from the highest lane; an inactive word. -/
theorem witness_RejoinMasks : Clear base hw ∧ AllReady base ∧ (opA (.j 7) (.g 1)).dst = .j 7 ∧ ReadsG base hw (.g 1) (fun _ => 0) ∧
    Acts base hw 1 ∧ (∀ i, Acts base hw i → i ≤ 1) ∧ active base hw = 3 ∧ active base ⟨false, false, 5, true⟩ = 0 ∧
    Clear base ⟨false, false, 5, true⟩ := by
  and_intros <;> (try simp only [Clear, ReadsG, ReadsP, ReadsV, TakesP, Acts, MayTrap, AllReady, TargetOk]) <;> decide

/-- Rounding, NumberFormats: the ends of the precisions, thresholds and codes. -/
theorem witness_Rounding : (∀ ty ∈ [Ty.fp64, .b8uf], ty ∈ [Ty.fp64, .fp32, .fp16, .bf16, .b8s, .b8sf, .b8u, .b8uf]) ∧
    (∀ p ∈ [1, 7], 1 ≤ p ∧ p ≤ 7) ∧ (∀ t ∈ [0, 63], t < 64) ∧ 0 < 1 ∧ (∀ c ∈ [0, 0x80, 255], c < 256) := by decide

/-- ExactResults: values that meet each premise: a nonzero and a zero quotient, a positive and a negative root. -/
theorem witness_ExactResults :
    (Machine.Num.fin false 3 0).rat ≠ 0 ∧ (Machine.Num.fin true 0 5).rat = 0 ∧ 0 < (Machine.Num.fin false 3 0).rat ∧
    (Machine.Num.fin true 3 0).rat < 0 ∧ (Machine.Num.nan true).isNan = true := by
  refine ⟨?_, ?_, ?_, ?_, rfl⟩ <;> simp [Machine.Num.rat]

/-- FpArithmetic, FpOtherWords: operands 1.0 and 0.0, with no flag enabled and with every flag enabled. -/
theorem witness_FpArithmetic :
    (Clear (two 0x3FF0000000000000 0) hw ∧ ReadsG (two 0x3FF0000000000000 0) hw (.g 1) (fun _ => 0x3FF0000000000000) ∧
      ReadsG (two 0x3FF0000000000000 0) hw (.g 2) (fun _ => 0) ∧ TakesP (two 0x3FF0000000000000 0) hw (.p 7) ∧
      (two 0x3FF0000000000000 0).fl.fpctl.extractLsb' 3 5 = 0) ∧
    (Clear (fpOn 0xF8 0x3FF0000000000000 0) hw ∧ MayTrap (fpOn 0xF8 0x3FF0000000000000 0) ∧ Acts (fpOn 0xF8 0x3FF0000000000000 0) hw 0 ∧
      (flDZ &&& (fpOn 0xF8 0x3FF0000000000000 0).fl.fpctl.extractLsb' 3 5) = 2) := by
  and_intros <;> (try simp only [Clear, ReadsG, ReadsP, ReadsV, TakesP, Acts, MayTrap, AllReady, TargetOk]) <;> decide

theorem witness_FpOtherWords : Clear (two 0x7FF0000000000001 0) hw ∧
    ReadsG (two 0x7FF0000000000001 0) hw (.g 1) (fun _ => 0x7FF0000000000001) ∧ Ty.fp64 ∈ [Ty.fp64, .fp32, .fp16, .bf16] ∧
    TakesP (two 0x7FF0000000000001 0) hw (.p 1) ∧ (7#4).toNat < 8 ∧ Ty.b8uf ∈ [Ty.b8s, .b8sf, .b8u, .b8uf] ∧ 0 < (1#3).toNat := by
  and_intros <;> (try simp only [Clear, ReadsG, ReadsP, ReadsV, TakesP, Acts, MayTrap, AllReady, TargetOk]) <;> decide

/-- v1, v2 and v3 hold these in every lane. -/
def vecs : State := withV (withV (withV base 1 0x3FF0000000000000) 2 0) 3 7

theorem vecs_faulty : ∀ k, (vecs.fl.lane k).faulty = [] := by decide

/-- The vector words: registers of no faulty granule, whatever the element type; the two element classes. -/
theorem witness_VectorArithmetic : Clear vecs hw ∧ (ReadsV vecs hw .fp64 (.v 1) fun k => (vecs.fl.lane k).getV 1) ∧
    (ReadsV vecs hw .int64 (.v 2) fun k => (vecs.fl.lane k).getV 2) ∧ Ty.isFp .int8 = false ∧ Acts vecs hw 1 ∧ MayTrap vecs := by
  refine ⟨?_, readsV_reg _ _ _ vecs_faulty, readsV_reg _ _ _ vecs_faulty, rfl, ?_, ?_⟩ <;> (try simp only [Clear, Acts, MayTrap]) <;>
    decide

theorem witness_VectorFma : Clear vecs hw ∧ (ReadsV vecs hw .fp32 (.v 1) fun k => (vecs.fl.lane k).getV 1) ∧
    (ReadsV vecs hw .fp32 (.v 2) fun k => (vecs.fl.lane k).getV 2) ∧ (ReadsV vecs hw .fp32 (.v 3) fun k => (vecs.fl.lane k).getV 3) :=
  ⟨witness_VectorArithmetic.1, readsV_reg _ _ _ vecs_faulty, readsV_reg _ _ _ vecs_faulty, readsV_reg _ _ _ vecs_faulty⟩

theorem witness_VectorLogic : Clear vecs hw ∧ (ReadsV vecs hw .int16 (.v 1) fun k => (vecs.fl.lane k).getV 1) ∧
    (ReadsV vecs hw .int16 (.v 2) fun k => (vecs.fl.lane k).getV 2) ∧ (ReadsV vecs hw .int16 (.v 3) fun k => (vecs.fl.lane k).getV 3) :=
  ⟨witness_VectorArithmetic.1, readsV_reg _ _ _ vecs_faulty, readsV_reg _ _ _ vecs_faulty, readsV_reg _ _ _ vecs_faulty⟩

/-- VectorConversions: the last part of a narrowing; no scale register, and one. -/
theorem witness_VectorConversions : Clear vecs hw ∧ (ReadsV vecs hw .fp64 (.v 1) fun k => (vecs.fl.lane k).getV 1) ∧
    (∀ k, Acts vecs hw k → (vecs.fl.lane k).granules (Dst.asSrc (.v 4)) = []) ∧ (1 + 1) * min Ty.fp32.count Ty.fp64.count ≤ Ty.fp32.count ∧
    (7 + 1) * min Ty.b8s.count Ty.fp64.count ≤ Ty.b8s.count ∧ ReadsG vecs hw (.g 0) (fun _ => 0) ∧ ReadsG (two 3 5) hw (.g 1) (fun _ => 3) := by
  refine ⟨witness_VectorArithmetic.1, readsV_reg _ _ _ vecs_faulty, ?_, ?_, ?_, ?_, ?_⟩ <;> (try simp only [ReadsG, Acts]) <;> decide

/-- VectorMoves: a table that ends at v31. -/
theorem witness_VectorMoves : Clear vecs hw ∧ ReadsG vecs hw (.g 1) (fun _ => 0) ∧
    (ReadsV vecs hw .uint8 (.v 1) fun k => (vecs.fl.lane k).getV 1) ∧ (28#5).toNat + 2 ^ (2#2).toNat ≤ 32 ∧
    (∀ k, Acts vecs hw k → (vecs.fl.lane k).faulty = []) ∧ (∀ k, Acts vecs hw k → (vecs.fl.lane k).granules (Dst.asSrc (.v 4)) = []) := by
  refine ⟨witness_VectorArithmetic.1, ?_, readsV_reg _ _ _ vecs_faulty, ?_, ?_, ?_⟩ <;> (try simp only [ReadsG, Acts]) <;> decide

/-- CrossLaneMoves: the lowest lane of Active, a lane outside it, and the offset modes' end. -/
theorem witness_CrossLaneMoves : Clear vecs hw ∧ (ReadsV vecs hw .uint64 (.v 1) fun k => (vecs.fl.lane k).getV 1) ∧
    ReadsG vecs hw (.g 1) (fun _ => 0) ∧ ReadsP vecs hw (.p 0) (fun _ => true) ∧ (4#3).toNat ≤ 4 ∧ Acts vecs hw 0 ∧
    (∀ j, Acts vecs hw j → 0 ≤ j) ∧ ¬Acts vecs hw 2 ∧ srcG (vecs.fl.lane 0) (.g 1) = .ok 0 := by
  refine ⟨witness_VectorArithmetic.1, readsV_reg _ _ _ vecs_faulty, ?_, ?_, ?_, ?_, ?_, ?_, ?_⟩ <;> (try simp only [ReadsG, ReadsP, Acts]) <;>
    decide

/-- Reductions: a rounding that does not dither, and the one that does. -/
theorem witness_Reductions : Clear vecs hw ∧ (ReadsV vecs hw .fp32 (.v 1) fun k => (vecs.fl.lane k).getV 1) ∧ (5#4).toNat < 6 ∧
    rndOf vecs 0 ≠ .dith ∧ rndOf (onFl (fun f => { f with fpctl := 4 }) vecs) 0 = .dith ∧ MayTrap vecs ∧ (∃ k, Acts vecs hw k) := by
  refine ⟨witness_VectorArithmetic.1, readsV_reg _ _ _ vecs_faulty, ?_, ?_, ?_, witness_VectorArithmetic.2.2.2.2.2, 1,
    witness_VectorArithmetic.2.2.2.2.1⟩ <;> decide

/-- ADD g1, g2 and MOV g3, g2 as slots. -/
def slotA : Slot := ⟨.add, 0, true, .g 1, .g 2, 0⟩
def slotB : Slot := ⟨.mov, 0, true, .g 3, .g 2, 0⟩

/-- DualWords: a pair that the pairing rules admit, both of whose slots complete in their full form. -/
theorem witness_DualWords :
    (Instr.dualWord false slotA slotB).wf = true ∧ (two 3 5).fl.run ≠ none ∧ repeating (two 3 5) = none ∧
    (∀ k, ((two 3 5).fl.lane k).fail = none) ∧ MayTrap (two 3 5) ∧
    gives (exec (slotFull false slotA) ((two 3 5).slotOnly false)) (fun t => decide (t.fl.hnd = false)) = true ∧
    gives (exec (slotFull false slotB) ((two 3 5).slotOnly true)) (fun t => decide (t.fl.hnd = false)) = true := by
  and_intros <;> (try simp only [Clear, ReadsG, ReadsP, ReadsV, TakesP, Acts, MayTrap, AllReady, TargetOk]) <;> decide

/-- DualWords: the hypotheses on the state alone. -/
theorem witness_DualWords_state :
    let s := two 3 5
    (Instr.dualWord false slotA slotB).wf = true ∧ s.fl.run ≠ none ∧ repeating s = none ∧
    (∀ k, (s.fl.lane k).fail = none ∧ (s.fl.lane k).faulty = []) ∧ s.fl.fpctl.extractLsb' 3 5 = 0 := by decide

/-- DualWords: a slot whose full form traps: an enabled FADD exception, infinity minus infinity. -/
theorem witness_DualWords_trap :
    (Instr.dualWord false ⟨.fadd, 0, true, .g 1, .g 2, 0⟩ ⟨.nop, 0, false, .g 0, .g 0, 0⟩).wf = true ∧
    gives (exec (slotFull false ⟨.fadd, 0, true, .g 1, .g 2, 0⟩)
      ((fpOn 8 0x7FF0000000000000 0xFFF0000000000000).slotOnly false)) (fun t => t.fl.hnd) = true := by decide

/-- As `base`, with latch entry k of every lane holding x. -/
def withLatch (k : BitVec 2) (x : LatchVal) : State :=
  eachLane base fun l => { l with lat := match k.toNat with
    | 0 => { l.lat with l0 := some x }
    | 1 => { l.lat with l1 := some x }
    | 2 => { l.lat with l2 := some x }
    | _ => { l.lat with l3 := some x } }

/-- MovesAndCompares: a latch entry of each class; a stale one; one of another class. -/
theorem witness_MovesAndCompares_latch :
    (∀ k : BitVec 2, Clear (withLatch k (.gen 7)) hw ∧ (∀ j, ((withLatch k (.gen 7)).fl.lane j).faulty = []) ∧
      ∀ j, Acts (withLatch k (.gen 7)) hw j → ((withLatch k (.gen 7)).fl.lane j).latch k = some (.gen 7)) ∧
    (∀ j, ((withLatch 3 (.pred true)).fl.lane j).latch 3 = some (.pred true)) ∧
    ((withLatch 0 (.vec 7)).fl.lane 1).latch 0 = some (.vec 7) ∧
    MayTrap base ∧ (∃ k, Acts base hw k) ∧ (∀ k, LatchFails (base.fl.lane k) (.latch 3) IsGen .latchStale 3) ∧
    MayTrap (withLatch 3 (.pred true)) ∧ (∀ k, LatchFails ((withLatch 3 (.pred true)).fl.lane k) (.latch 3) IsGen .illegal 0) ∧
    (∀ k, LatchFails ((withLatch 0 (.gen 7)).fl.lane k) (.latch 0) IsPred .illegal 0) ∧
    ∀ k, LatchFails ((withLatch 0 (.gen 7)).fl.lane k) (.latch 0) IsVec .illegal 0 := by
  refine ⟨?_, by decide, rfl, ?_, ⟨1, ?_⟩, fun k => ⟨3, rfl, .inl ⟨?_, rfl, rfl⟩⟩, ?_,
    fun k => ⟨3, rfl, .inr ⟨.pred true, ?_, nofun, rfl, rfl⟩⟩, fun k => ⟨0, rfl, .inr ⟨.gen 7, ?_, nofun, rfl, rfl⟩⟩,
    fun k => ⟨0, rfl, .inr ⟨.gen 7, ?_, by rintro ⟨_, h⟩; injection h, rfl, rfl⟩⟩⟩
  · simp only [Clear, Acts]; decide
  · simp only [MayTrap]; decide
  · simp only [Acts]; decide
  · revert k; decide
  · simp only [MayTrap]; decide
  all_goals revert k; decide

/-- A state whose flight at issue is privileged. -/
def privileged (s : State) : State := onFl (fun f => { f with priv := true }) s

/-- SystemRegisters: values that MTS takes and refuses, at the ends of what REPCNT, TCAUSE, TMASK, TPC and DPHASE allow. -/
theorem witness_SystemRegisters_values :
    (∃ d r : Nat, (0x3F01#64) = BitVec.ofNat 64 (256 * d + r) ∧ d ≤ 63 ∧ d + r ≤ 64 ∧ (r = 0 → d = 0)) ∧
    (¬∃ d r : Nat, (0x100#64) = BitVec.ofNat 64 (256 * d + r) ∧ d ≤ 63 ∧ d + r ≤ 64 ∧ (r = 0 → d = 0)) ∧
    (∃ c : Cause, c.code.toNat = (0x301#64).toNat % 256) ∧ (0x301#64).toNat < 2 ^ 10 ∧ ¬(0x400#64).toNat < 2 ^ 10 ∧
    (0xFFFFFFFF#64).toNat < 2 ^ 32 ∧ ¬(0x100000000#64).toNat < 2 ^ 32 ∧ ¬((0x1FFFC#64).toNat % 8 = 0) ∧ ¬(0x20000#64).toNat < 2 ^ 17 ∧
    ¬(64#64).toNat < 64 ∧ ¬(4#64).toNat < 4 ∧ ¬(8#64).toNat < 8 ∧ MayTrap (privileged base) ∧
    (∃ k, Acts base h0 k ∧ ∀ j, Acts base h0 j → j ≤ k) := by
  refine ⟨⟨63, 1, by decide, by decide, by decide, by decide⟩, ?_, ⟨.illegal, ?_⟩, ?_, ?_, ?_, ?_, ?_, ?_, ?_, ?_, ?_, ?_, 1, ?_⟩
  · rintro ⟨d, r, h, h1, h2, h3⟩
    have := congrArg BitVec.toNat h
    simp at this
    omega
  all_goals (try simp only [Acts, MayTrap]) <;> decide

/-- Repetitions: a REP whose predicate is false in every lane; a repeat of words of each kind of result; a target with E. -/
theorem witness_Repetitions_kinds :
    Clear repTarget ⟨false, false, 5, false⟩ ∧ (∀ k, ¬Acts repTarget ⟨false, false, 5, false⟩ k) ∧
    (0x0100850102000000#64).getLsbD 63 = false ∧ runPos repTarget.fl (issuing repTarget) + 2 < 24 ∧
    24 ≤ runPos (eachLane repTarget fun l => { l with pos := 22 }).fl 3 + 2 ∧
    (ReadsV (repAt 2) hw .fp64 (.v 1) fun k => ((repAt 2).fl.lane k).getV 1) ∧ ReadsG (repAt 2) hw (.g 1) (fun _ => 0) ∧
    TakesP (repAt 2) hw (.p 7) ∧ Clear (repAt 2) hw := by
  refine ⟨?_, ?_, ?_, ?_, ?_, readsV_reg _ _ _ ?_, ?_, ?_, ?_⟩ <;> (try simp only [Clear, ReadsG, TakesP, Acts]) <;> decide

/-- ExactResults: infinities and NaNs as operands of FSUB, FFMA and FSQRT are as its clauses say; sums that cancel. -/
theorem witness_ExactResults_sums :
    (Machine.Num.fin false 3 0).rat + (Machine.Num.fin true 3 0).rat = 0 ∧
    (Machine.Num.fin false 3 0).rat * (Machine.Num.fin true 1 0).rat + (Machine.Num.fin false 3 0).rat = 0 ∧
    ∃ n m e, (Machine.Num.inf true = .inf n ∧ Machine.Num.fin false 0 5 = .fin m 0 e) := by
  refine ⟨?_, ?_, true, false, 5, rfl, rfl⟩ <;> norm_num [Machine.Num.rat]

end Sys2Proof.Tests
end

section
/-! The results of the scalar integer words in the terms of the specification: R64 to R67 and R71 to R75. -/

namespace Sys2Proof.Machine

/-- A word gives any values that are equal to those it computes. -/
theorem GivesG.congr {i : Instr} {s : State} {h : Hdr} {d : Dst} {v w : LaneId → Word} (hg : GivesG i s h d v)
    (hvw : ∀ k, v k = w k) : GivesG i s h d w :=
  (funext hvw : v = w) ▸ hg

/-- A word whose exact result passes through FitInt64 has any exact result that is equal to its own. -/
theorem GivesFit.congr {i : Instr} {s : State} {h : Hdr} {o : OpsA} {x y : LaneId → Int} (hg : GivesFit i s h o x)
    (hxy : ∀ k, x k = y k) : GivesFit i s h o y :=
  (funext hxy : x = y) ▸ hg

/-! Arithmetic (R65 to R67). -/

theorem add_signExtend_eq_ofInt (a : Word) (imm : BitVec 24) :
    a + imm.signExtend 64 = BitVec.ofInt 64 (a.toInt + imm.toInt) := by
  rw [BitVec.ofInt_add, BitVec.ofInt_toInt]; rfl

/-- Bits [127:64] of an integer in two's complement (R66). -/
theorem highHalf_eq_extractLsb' (x : Int) : highHalf x = (BitVec.ofInt 128 x).extractLsb' 64 64 := by
  apply BitVec.eq_of_toNat_eq
  rw [highHalf, BitVec.toNat_ofInt, BitVec.extractLsb'_toNat, BitVec.toNat_ofInt, Nat.shiftRight_eq_div_pow]
  omega

theorem ite_slt_eq_min (a b : Word) : (if b.slt a then b else a) = BitVec.ofInt 64 (min a.toInt b.toInt) := by
  rw [min_comm, min_def_lt, apply_ite (BitVec.ofInt 64)]
  simp only [BitVec.slt_iff_toInt_lt, BitVec.ofInt_toInt]

theorem ite_slt_eq_max (a b : Word) : (if a.slt b then b else a) = BitVec.ofInt 64 (max a.toInt b.toInt) := by
  rw [max_def_lt, apply_ite (BitVec.ofInt 64)]
  simp only [BitVec.slt_iff_toInt_lt, BitVec.ofInt_toInt]

theorem ite_ult_eq_min (a b : Word) : (if b.ult a then b else a) = BitVec.ofNat 64 (min a.toNat b.toNat) := by
  rw [min_comm, min_def_lt, apply_ite (BitVec.ofNat 64)]
  simp only [BitVec.ult_iff_toNat_lt, BitVec.ofNat_toNat, BitVec.setWidth_eq]

theorem ite_ult_eq_max (a b : Word) : (if a.ult b then b else a) = BitVec.ofNat 64 (max a.toNat b.toNat) := by
  rw [max_def_lt, apply_ite (BitVec.ofNat 64)]
  simp only [BitVec.ult_iff_toNat_lt, BitVec.ofNat_toNat, BitVec.setWidth_eq]

/-! Shifts and rotates (R72, R73). -/

/-- A word is known by its 64 bits. -/
theorem eq_ofFnLE {a : Word} {f : Fin 64 → Bool} (h : ∀ i : Fin 64, a.getLsbD i = f i) : a = BitVec.ofFnLE f := by
  apply BitVec.eq_of_getLsbD_eq
  intro i hi
  rw [BitVec.getLsbD_ofFnLE, dif_pos hi]
  exact h ⟨i, hi⟩

theorem shlWord_eq (a n : Word) : shlWord a n = BitVec.ofNat 64 (a.toNat * 2 ^ n.toNat) := by
  have hshift : shlWord a n = a <<< n.toNat := by
    unfold shlWord
    split
    · exact (BitVec.shiftLeft_eq_zero ‹_›).symm
    · rfl
  apply BitVec.eq_of_toNat_eq
  rw [hshift, BitVec.toNat_shiftLeft, Nat.shiftLeft_eq, BitVec.toNat_ofNat]

theorem shrWord_eq (a n : Word) : shrWord a n = BitVec.ofNat 64 (a.toNat / 2 ^ n.toNat) := by
  have hshift : shrWord a n = a >>> n.toNat := by
    unfold shrWord
    split
    · exact (BitVec.ushiftRight_eq_zero ‹_›).symm
    · rfl
  rw [hshift, ← Nat.shiftRight_eq_div_pow, ← BitVec.toNat_ushiftRight, BitVec.ofNat_toNat, BitVec.setWidth_eq]

/-- A quotient by a power of two beyond the range of the dividend is its sign. -/
theorem ediv_two_pow_eq_sign {x : Int} {n : Nat} (hn : 63 ≤ n) (hl : -2 ^ 63 ≤ x) (hu : x < 2 ^ 63) :
    x / 2 ^ n = if x < 0 then -1 else 0 := by
  have hpow : (2 : Int) ^ 63 ≤ 2 ^ n := pow_le_pow_right₀ (by decide) hn
  split
  · exact Int.ediv_eq_neg_one_of_neg_of_le ‹_› (by omega)
  · exact Int.ediv_eq_zero_of_lt (by omega) (by omega)

theorem sarWord_eq (a n : Word) : sarWord a n = BitVec.ofInt 64 (a.toInt / 2 ^ n.toNat) := by
  have hl : -2 ^ 63 ≤ a.toInt := BitVec.le_toInt a
  have hu : a.toInt < 2 ^ 63 := BitVec.toInt_lt
  have hdiv : a.toInt / 2 ^ min n.toNat 63 = a.toInt / 2 ^ n.toNat := by
    rcases Nat.le_total n.toNat 63 with hn | hn
    · rw [min_eq_left hn]
    · rw [min_eq_right hn, ediv_two_pow_eq_sign le_rfl hl hu, ediv_two_pow_eq_sign hn hl hu]
  calc sarWord a n = BitVec.ofInt 64 (a.toInt >>> min n.toNat 63) := rfl
    _ = BitVec.ofInt 64 (a.toInt / 2 ^ min n.toNat 63) := by rw [Int.shiftRight_eq_div_pow, Nat.cast_pow, Nat.cast_ofNat]
    _ = BitVec.ofInt 64 (a.toInt / 2 ^ n.toNat) := by rw [hdiv]

/-- The count of an immediate shift is IMM24[5:0] (R73). -/
theorem signExtend_and_toNat (imm : BitVec 24) : (imm.signExtend 64 &&& 0x3F).toNat = (imm.extractLsb' 0 6).toNat := by
  have hmask : ((0x3F : Word)).toNat = 2 ^ 6 - 1 := rfl
  rw [BitVec.toNat_and, hmask, Nat.and_two_pow_sub_one_eq_mod, BitVec.extractLsb'_toNat, BitVec.toNat_signExtend]
  split
  · simp
    omega
  · simp

theorem rotateLeft_eq (a : Word) (r : Nat) :
    a.rotateLeft (r % 64) = BitVec.ofFnLE fun i : Fin 64 => a.getLsbD ((i + (64 - r % 64)) % 64) := by
  refine eq_ofFnLE fun i => ?_
  rw [BitVec.getLsbD_rotateLeft, Nat.mod_mod]
  by_cases hi : i.val < r % 64
  · rw [decide_eq_true hi, cond_true]; congr 1; omega
  · rw [decide_eq_false hi, cond_false, decide_eq_true i.isLt, Bool.true_and]; congr 1; omega

theorem rotateRight_eq (a : Word) (r : Nat) :
    a.rotateRight (r % 64) = BitVec.ofFnLE fun i : Fin 64 => a.getLsbD ((i + r % 64) % 64) := by
  refine eq_ofFnLE fun i => ?_
  rw [BitVec.getLsbD_rotateRight, Nat.mod_mod]
  by_cases hi : i.val < 64 - r % 64
  · rw [decide_eq_true hi, cond_true]; congr 1; omega
  · rw [decide_eq_false hi, cond_false, decide_eq_true i.isLt, Bool.true_and]; congr 1; omega

/-! Counts and reversals (R74). -/

theorem clzFrom_le (a : Word) (n : Nat) : clzFrom a n ≤ n := by
  induction n with
  | zero => exact le_rfl
  | succ n ih => unfold clzFrom; split <;> omega

/-- The bits that the count of leading zeros passes over are zero. -/
theorem getLsbD_of_clzFrom_le (a : Word) (n i : Nat) (hi : n - clzFrom a n ≤ i) (hn : i < n) : a.getLsbD i = false := by
  induction n with
  | zero => omega
  | succ n ih =>
    unfold clzFrom at hi
    split at hi
    · omega
    · next hbit =>
      rcases Nat.lt_succ_iff_lt_or_eq.1 hn with hlt | rfl
      · exact ih (by omega) hlt
      · simpa using hbit

/-- The bit at which the count of leading zeros ends is set. -/
theorem getLsbD_clzFrom (a : Word) (n : Nat) (hn : clzFrom a n < n) : a.getLsbD (n - 1 - clzFrom a n) = true := by
  induction n with
  | zero => omega
  | succ n ih =>
    unfold clzFrom at hn ⊢
    split at hn
    · next hbit => rw [if_pos hbit]; exact hbit
    · next hbit =>
      rw [if_neg hbit, show n + 1 - 1 - (1 + clzFrom a n) = n - 1 - clzFrom a n by omega]
      exact ih (by omega)

theorem popFrom_eq (a : Word) (n : Nat) : popFrom a n = ((List.range n).filter fun i => a.getLsbD i).length := by
  induction n with
  | zero => rfl
  | succ n ih =>
    rw [popFrom, ih, List.range_succ, List.filter_append, List.length_append, Nat.add_comm]
    cases hbit : a.getLsbD n <;> simp [hbit]

theorem reverseBits_getLsbD (a : Word) {i : Nat} (hi : i < 64) : (reverseBits a).getLsbD (63 - i) = a.getLsbD i := by
  rw [reverseBits, BitVec.getLsbD_ofFnLE, dif_pos (by omega)]
  congr 1
  simp only
  omega

/-- The count of leading zeros of all 64 bits (R74). -/
theorem clzFrom_64 (a : Word) : clzFrom a 64 ≤ 64 ∧ (∀ i, 64 - clzFrom a 64 ≤ i → a.getLsbD i = false) ∧
    (clzFrom a 64 < 64 → a.getLsbD (63 - clzFrom a 64) = true) := by
  refine ⟨clzFrom_le a 64, fun i hi => ?_, getLsbD_clzFrom a 64⟩
  rcases Nat.lt_or_ge i 64 with hlt | hge
  · exact getLsbD_of_clzFrom_le a 64 i hi hlt
  · exact BitVec.getLsbD_of_ge a i hge

/-- The leading zeros of the reversed word are the trailing zeros of the word (R74). -/
theorem clzFrom_reverseBits (a : Word) : clzFrom (reverseBits a) 64 ≤ 64 ∧
    (∀ i, i < clzFrom (reverseBits a) 64 → a.getLsbD i = false) ∧
    (clzFrom (reverseBits a) 64 < 64 → a.getLsbD (clzFrom (reverseBits a) 64) = true) := by
  obtain ⟨hle, hzero, hone⟩ := clzFrom_64 (reverseBits a)
  refine ⟨hle, fun i hi => ?_, fun hlt => ?_⟩
  · rw [← reverseBits_getLsbD a (by omega)]; exact hzero _ (by omega)
  · rw [← reverseBits_getLsbD a hlt]; exact hone hlt

theorem reverseBytes_extractLsb' (a : Word) {i : Nat} (hi : i < 8) :
    (reverseBytes a).extractLsb' (8 * (7 - i)) 8 = a.extractLsb' (8 * i) 8 := by
  apply BitVec.eq_of_getLsbD_eq
  intro j hj
  rw [BitVec.getLsbD_extractLsb', BitVec.getLsbD_extractLsb', reverseBytes, BitVec.getLsbD_ofFnLE, dif_pos (by omega)]
  congr 2
  simp only
  omega

/-! Bit fields (R75). -/

theorem fieldPos_eq (b : Word) : fieldPos b = b.toNat % 64 := by
  rw [fieldPos, BitVec.extractLsb'_toNat]; rfl

theorem fieldLen_eq (b c : Word) : fieldLen b c = min (c.toNat % 128) (64 - fieldPos b) := by
  rw [fieldLen, BitVec.extractLsb'_toNat]; rfl

/-- A bit field lies within the word. -/
theorem fieldPos_add_fieldLen_le (b c : Word) : fieldPos b + fieldLen b c ≤ 64 := by
  rw [fieldLen_eq, fieldPos_eq]; omega

@[simp] theorem lowMask_getLsbD (n i : Nat) : (lowMask n).getLsbD i = (decide (i < 64) && decide (i < n)) := by
  rw [lowMask, BitVec.getLsbD_ofNat, Nat.testBit_two_pow_sub_one]

theorem bitField_eq (a b c : Word) : bitField a b c = BitVec.ofNat 64 (a.toNat / 2 ^ fieldPos b % 2 ^ fieldLen b c) := by
  apply BitVec.eq_of_getLsbD_eq
  intro i hi
  rw [bitField, BitVec.getLsbD_and, BitVec.getLsbD_ushiftRight, lowMask_getLsbD, BitVec.getLsbD_ofNat, Nat.testBit_mod_two_pow,
    Nat.testBit_div_two_pow, Nat.add_comm, Bool.and_left_comm, Bool.and_comm (BitVec.getLsbD _ _)]
  rfl

theorem bitField_getLsbD (a b c : Word) {i : Nat} (hi : i < 64) :
    (bitField a b c).getLsbD i = (decide (i < fieldLen b c) && a.getLsbD (fieldPos b + i)) := by
  rw [bitField, BitVec.getLsbD_and, BitVec.getLsbD_ushiftRight, lowMask_getLsbD, decide_eq_true hi, Bool.true_and, Bool.and_comm]

/-- A signed bit field repeats its highest bit (R75). -/
theorem bitFieldSigned_getLsbD (a b c : Word) {i : Nat} (hi : i < 64) :
    (bitFieldSigned a b c).getLsbD i =
      (decide (fieldLen b c ≠ 0) && a.getLsbD (fieldPos b + min i (fieldLen b c - 1))) := by
  have hlen := fieldPos_add_fieldLen_le b c
  by_cases h0 : fieldLen b c = 0
  · simp [bitFieldSigned, h0]
  have hbit := bitField_getLsbD a b c hi
  have hsign : (bitField a b c).getLsbD (fieldLen b c - 1) = a.getLsbD (fieldPos b + (fieldLen b c - 1)) := by
    rw [bitField_getLsbD a b c (by omega), decide_eq_true (by omega), Bool.true_and]
  rw [decide_eq_true h0, Bool.true_and]
  simp only [bitFieldSigned, if_neg h0, hsign]
  by_cases hin : i < fieldLen b c
  · rw [decide_eq_true hin, Bool.true_and] at hbit
    rw [min_eq_left (by omega)]
    split
    · rw [BitVec.getLsbD_or, BitVec.getLsbD_not, lowMask_getLsbD, hbit]; simp [hi, hin]
    · exact hbit
  · rw [decide_eq_false hin, Bool.false_and] at hbit
    rw [min_eq_right (by omega)]
    split
    · next hset => rw [BitVec.getLsbD_or, BitVec.getLsbD_not, lowMask_getLsbD, hset]; simp [hi, hin]
    · next hclear => rw [hbit]; simpa using hclear

theorem bitFieldInsert_getLsbD (old a b c : Word) {i : Nat} (hi : i < 64) :
    (bitFieldInsert old a b c).getLsbD i =
      if fieldPos b ≤ i ∧ i < fieldPos b + fieldLen b c then a.getLsbD (i - fieldPos b) else old.getLsbD i := by
  have hmask : (lowMask (fieldLen b c) <<< fieldPos b).getLsbD i =
      decide (fieldPos b ≤ i ∧ i < fieldPos b + fieldLen b c) := by
    rw [BitVec.getLsbD_shiftLeft, lowMask_getLsbD, ← Bool.decide_and, ← decide_not, ← Bool.decide_and, ← Bool.decide_and]
    exact decide_eq_decide.2 (by omega)
  have hfield : ((a &&& lowMask (fieldLen b c)) <<< fieldPos b).getLsbD i =
      (decide (fieldPos b ≤ i ∧ i < fieldPos b + fieldLen b c) && a.getLsbD (i - fieldPos b)) := by
    rw [BitVec.shiftLeft_and_distrib, BitVec.getLsbD_and, Bool.and_comm, hmask, BitVec.getLsbD_shiftLeft]
    by_cases hp : i < fieldPos b
    · simp [hp, Nat.not_le.2 hp]
    · simp [hi, hp]
  rw [bitFieldInsert, BitVec.getLsbD_or, BitVec.getLsbD_and, BitVec.getLsbD_not, hmask, hfield, decide_eq_true hi]
  split
  · next hin => simp [hin]
  · next hout => simp [hout]

/-- BFI reads DST beside its three sources (R75). -/
theorem bfi_givesG {s : State} {h : Hdr} {o : OpsA} {a b c old : LaneId → Word} (hc : Clear s h) (ha : ReadsG s h o.sa a)
    (hb : ReadsG s h o.sb b) (hd : ReadsG s h o.sc c) (hold : ReadsG s h o.dst.asSrc old) :
    GivesG (.bfi h o) s h o.dst fun k => bitFieldInsert (old k) (a k) (b k) (c k) :=
  perLane_givesG hc rfl fun k hk => by simp only [ha k hk, hb k hk, hd k hk, hold k hk]; rfl

end Sys2Proof.Machine
end

section
/-! The results and the frame of the scalar integer words. -/

open Sys2Proof Sys2Proof.Machine

/-- Settles O1: each word is one of the shared scalar words, whose result is restated as the exact one. -/
theorem scalarArithmetic : Obligations.ScalarArithmetic := by
  refine ⟨fun s h o ob a b hc => ⟨fun ha hb => ⟨?_, ?_, ?_, ?_, ?_⟩, fun ha => ?_⟩,
    fun s h o a b hc ha hb => ⟨?_, ?_, ?_, ?_, ?_, ?_⟩⟩
  · exact scalarFit_givesFit (f := fun x y => x + y) rfl hc ha hb
  · exact scalarFit_givesFit (f := fun x y => x - y) rfl hc ha hb
  · exact scalarFit_givesFit (f := fun x y => x * y) rfl hc ha hb
  · exact scalarFit_givesFit (f := fun x _ => -x) rfl hc ha hb
  · exact GivesFit.congr (scalarFit_givesFit rfl hc ha hb) fun k => (Int.abs_eq_natAbs (a k).toInt).symm
  · exact GivesG.congr (scalarImm_givesG rfl hc ha) fun k => add_signExtend_eq_ofInt (a k) ob.imm
  · exact GivesG.congr (scalar2_givesG rfl hc ha hb) fun k => highHalf_eq_extractLsb' _
  · exact GivesG.congr (scalar2_givesG rfl hc ha hb) fun k => highHalf_eq_extractLsb' (((a k).toNat * (b k).toNat : Nat) : Int)
  · exact GivesG.congr (scalar2_givesG rfl hc ha hb) fun k => ite_slt_eq_min (a k) (b k)
  · exact GivesG.congr (scalar2_givesG rfl hc ha hb) fun k => ite_slt_eq_max (a k) (b k)
  · exact GivesG.congr (scalar2_givesG rfl hc ha hb) fun k => ite_ult_eq_min (a k) (b k)
  · exact GivesG.congr (scalar2_givesG rfl hc ha hb) fun k => ite_ult_eq_max (a k) (b k)

/-- Settles O2: each word is one of the shared scalar words, whose result is restated bit by bit or as a number. -/
theorem scalarBits : Obligations.ScalarBits := by
  refine ⟨fun s h o ob a b hc => ⟨fun ha => ⟨?_, fun hb => ⟨?_, ?_, ?_, ?_⟩⟩, fun ha => ⟨?_, ?_, ?_⟩⟩,
    fun s h o ob a b hc => ⟨fun ha hb => ⟨?_, ?_, ?_, ?_, ?_⟩, fun ha => ⟨?_, ?_, ?_⟩⟩,
    fun s h o a hc ha => ⟨?_, ?_, ?_, ?_, ?_⟩, fun s h o a b c hc ha hb hd => ⟨?_, ?_, fun old hold => ?_⟩⟩
  -- logic (R71)
  · exact GivesG.congr (scalar1_givesG rfl hc ha) fun k => eq_ofFnLE fun i => by simp
  · exact GivesG.congr (scalar2_givesG rfl hc ha hb) fun k => eq_ofFnLE fun i => BitVec.getLsbD_and
  · exact GivesG.congr (scalar2_givesG rfl hc ha hb) fun k => eq_ofFnLE fun i => BitVec.getLsbD_or
  · exact GivesG.congr (scalar2_givesG rfl hc ha hb) fun k => eq_ofFnLE fun i => BitVec.getLsbD_xor
  · exact GivesG.congr (scalar2_givesG rfl hc ha hb) fun k => eq_ofFnLE fun i => by simp
  · exact GivesG.congr (scalarImm_givesG rfl hc ha) fun k => eq_ofFnLE fun i => BitVec.getLsbD_and
  · exact GivesG.congr (scalarImm_givesG rfl hc ha) fun k => eq_ofFnLE fun i => BitVec.getLsbD_or
  · exact GivesG.congr (scalarImm_givesG rfl hc ha) fun k => eq_ofFnLE fun i => BitVec.getLsbD_xor
  -- shifts and rotates (R72, R73)
  · exact GivesG.congr (scalar2_givesG rfl hc ha hb) fun k => shlWord_eq (a k) (b k)
  · exact GivesG.congr (scalar2_givesG rfl hc ha hb) fun k => shrWord_eq (a k) (b k)
  · exact GivesG.congr (scalar2_givesG rfl hc ha hb) fun k => sarWord_eq (a k) (b k)
  · exact GivesG.congr (scalar2_givesG rfl hc ha hb) fun k => rotateLeft_eq (a k) (b k).toNat
  · exact GivesG.congr (scalar2_givesG rfl hc ha hb) fun k => rotateRight_eq (a k) (b k).toNat
  · exact GivesG.congr (scalarImm_givesG rfl hc ha) fun k => by rw [shlWord_eq, signExtend_and_toNat]
  · exact GivesG.congr (scalarImm_givesG rfl hc ha) fun k => by rw [shrWord_eq, signExtend_and_toNat]
  · exact GivesG.congr (scalarImm_givesG rfl hc ha) fun k => by rw [sarWord_eq, signExtend_and_toNat]
  -- counts and reversals (R74)
  · exact ⟨_, scalar1_givesG (f := fun x => BitVec.ofNat 64 (clzFrom x 64)) rfl hc ha, fun k => clzFrom_64 (a k)⟩
  · exact ⟨_, scalar1_givesG (f := fun x => BitVec.ofNat 64 (clzFrom (reverseBits x) 64)) rfl hc ha,
      fun k => clzFrom_reverseBits (a k)⟩
  · exact GivesG.congr (scalar1_givesG rfl hc ha) fun k => congrArg (BitVec.ofNat 64) (popFrom_eq (a k) 64)
  · exact ⟨_, scalar1_givesG rfl hc ha, fun k _ hi => reverseBits_getLsbD (a k) hi⟩
  · exact ⟨_, scalar1_givesG rfl hc ha, fun k _ hi => reverseBytes_extractLsb' (a k) hi⟩
  -- bit fields (R75)
  all_goals simp only [← fieldPos_eq, ← fieldLen_eq]
  · exact GivesG.congr (scalar3_givesG rfl hc ha hb hd) fun k => bitField_eq (a k) (b k) (c k)
  · exact ⟨_, scalar3_givesG rfl hc ha hb hd, fun k _ hi => bitFieldSigned_getLsbD (a k) (b k) (c k) hi⟩
  · exact ⟨_, bfi_givesG hc ha hb hd hold, fun k _ hi => bitFieldInsert_getLsbD (old k) (a k) (b k) (c k) hi⟩

end

section
/-! The comparison of floating-point values, and the words that compare: R114 and R116. -/

namespace Sys2Proof.Machine

/-- A magnitude aligned to a lower exponent has the same value. -/
theorem alignedMag_mul_zpow (m : Nat) {e lo : Int} (h : lo ≤ e) :
    ((m * 2 ^ (e - lo).toNat : Nat) : ℚ) * (2 : ℚ) ^ lo = m * (2 : ℚ) ^ e := by
  have hpow : (2 : ℚ) ^ (e - lo).toNat = (2 : ℚ) ^ (e - lo) := by
    rw [← zpow_natCast, Int.toNat_of_nonneg (by omega)]
  rw [Nat.cast_mul, Nat.cast_pow, Nat.cast_ofNat, hpow, mul_assoc, ← zpow_add₀ two_ne_zero, sub_add_cancel]

theorem signedMag_cast (n : Bool) (m : Nat) : ((signedMag n m : Int) : ℚ) = (if n then -1 else 1) * m := by
  cases n <;> simp [signedMag]

/-- The aligned signed integer that a comparison uses, scaled back, is the value. -/
theorem signedMag_mul_zpow (n : Bool) (m : Nat) {e lo : Int} (h : lo ≤ e) :
    ((signedMag n (m * 2 ^ (e - lo).toNat) : Int) : ℚ) * (2 : ℚ) ^ lo = (Num.fin n m e).rat := by
  rw [signedMag_cast, mul_assoc, alignedMag_mul_zpow m h, ← mul_assoc]; rfl

theorem isNan_eq_false_cases {a : Num} (h : a.isNan = false) : (∃ n, a = .inf n) ∨ ∃ n m e, a = .fin n m e := by
  cases a with
  | nan sig => cases h
  | inf n => exact .inl ⟨n, rfl⟩
  | fin n m e => exact .inr ⟨n, m, e, rfl⟩

/-- The order of two finite values is that of their aligned integers. -/
theorem cmp_fin (n1 : Bool) (m1 : Nat) (e1 : Int) (n2 : Bool) (m2 : Nat) (e2 : Int) :
    ((Num.fin n1 m1 e1).cmp (.fin n2 m2 e2)).1 = decide ((Num.fin n1 m1 e1).rat < (Num.fin n2 m2 e2).rat) ∧
    ((Num.fin n1 m1 e1).cmp (.fin n2 m2 e2)).2 = decide ((Num.fin n1 m1 e1).rat = (Num.fin n2 m2 e2).rat) := by
  have hpos : (0 : ℚ) < 2 ^ min e1 e2 := zpow_pos two_pos _
  rw [← signedMag_mul_zpow n1 m1 (min_le_left e1 e2), ← signedMag_mul_zpow n2 m2 (min_le_right e1 e2)]
  constructor
  · refine decide_eq_decide.2 ?_
    rw [mul_lt_mul_iff_left₀ hpos, Int.cast_lt]
  · refine decide_eq_decide.2 ?_
    rw [mul_left_inj' hpos.ne', Int.cast_inj]

/-- The order that a comparison computes is that of the values (R116). -/
theorem cmp_fst_iff {a b : Num} (ha : a.isNan = false) (hb : b.isNan = false) : (a.cmp b).1 = true ↔ a.Less b := by
  obtain ⟨n, rfl⟩ | ⟨n, m, e, rfl⟩ := isNan_eq_false_cases ha <;>
    obtain ⟨n', rfl⟩ | ⟨n', m', e', rfl⟩ := isNan_eq_false_cases hb
  case inr.inr => rw [(cmp_fin ..).1, decide_eq_true_iff]; rfl
  all_goals simp [Num.cmp, Num.Less]

/-- The equality that a comparison computes is that of the values (R116). -/
theorem cmp_snd_iff {a b : Num} (ha : a.isNan = false) (hb : b.isNan = false) : (a.cmp b).2 = true ↔ a.Same b := by
  obtain ⟨n, rfl⟩ | ⟨n, m, e, rfl⟩ := isNan_eq_false_cases ha <;>
    obtain ⟨n', rfl⟩ | ⟨n', m', e', rfl⟩ := isNan_eq_false_cases hb
  case inr.inr => rw [(cmp_fin ..).2, decide_eq_true_iff]; rfl
  all_goals simp [Num.cmp, Num.Same]

theorem less_iff_not_less_same {a b : Num} (ha : a.isNan = false) (hb : b.isNan = false) :
    b.Less a ↔ ¬(a.Less b ∨ a.Same b) := by
  obtain ⟨n, rfl⟩ | ⟨n, m, e, rfl⟩ := isNan_eq_false_cases ha <;>
    obtain ⟨n', rfl⟩ | ⟨n', m', e', rfl⟩ := isNan_eq_false_cases hb
  case inl.inl => revert n n'; simp [Num.Less, Num.Same]
  case inr.inr => simp only [Num.Less, Num.Same, ← le_iff_lt_or_eq, not_le]
  all_goals simp [Num.Less, Num.Same]

theorem less_or_same_iff_not_less {a b : Num} (ha : a.isNan = false) (hb : b.isNan = false) :
    b.Less a ∨ a.Same b ↔ ¬a.Less b := by
  obtain ⟨n, rfl⟩ | ⟨n, m, e, rfl⟩ := isNan_eq_false_cases ha <;>
    obtain ⟨n', rfl⟩ | ⟨n', m', e', rfl⟩ := isNan_eq_false_cases hb
  case inl.inl => revert n n'; simp [Num.Less, Num.Same]
  case inr.inr => simp only [Num.Less, Num.Same, not_lt, le_iff_lt_or_eq, eq_comm]
  all_goals simp [Num.Less, Num.Same]

/-- The order of FMIN and FMAX is the model's (R114). -/
theorem numBelow_iff {a b : Num} (ha : a.isNan = false) (hb : b.isNan = false) : numBelow a b = true ↔ a.Under b := by
  simp only [numBelow, Bool.or_eq_true, Bool.and_eq_true, cmp_fst_iff ha hb, cmp_snd_iff ha hb, Bool.not_eq_true', Num.Under,
    and_assoc]

/-- The value of a code is that of its low bits. -/
theorem decode_mod (f : Fmt) (x : Nat) : f.decode (x % 2 ^ f.w) = f.decode x := by
  simp only [Fmt.decode, Nat.mod_mod]

/-- FMIN and FMAX raise IV for a signaling NaN and nothing else (R114). -/
theorem fpMinMax_flags (f : Fmt) (wantMax : Bool) (a b : Nat) :
    (fpMinMax f wantMax a b).2 = if (f.decode a).isSnan = true ∨ (f.decode b).isSnan = true then flIV else 0 := by
  simp only [fpMinMax, apply_ite Prod.snd, ite_self, Bool.or_eq_true]

/-- FMIN and FMAX give the lesser and the greater of two numbers, and the number of a number and a NaN (R114). -/
theorem fpMinMax_isMinMax (f : Fmt) (a b : Nat) :
    IsMinMax f (a % 2 ^ f.w) (b % 2 ^ f.w) (fpMinMax f false a b).1 (fpMinMax f true a b).1 := by
  unfold IsMinMax
  simp only [decode_mod]
  refine ⟨fun ha hb => ?_, fun ha hb => ?_, fun ha hb => ?_, fun ha hb => ?_⟩
  case' refine_4 => rw [← numBelow_iff ha hb, ← numBelow_iff hb ha]
  all_goals simp +contextual [fpMinMax, ha, hb]

/-- A signaling NaN is a NaN. -/
theorem isNan_of_isSnan {a : Num} (h : a.isSnan = true) : a.isNan = true := by
  cases a with
  | nan sig => rfl
  | inf n => cases h
  | fin n m e => cases h

/-- FCMP decides its condition and raises IV as R116 says. -/
theorem fpCompare_isCompare {cc : BitVec 4} (hcc : cc.toNat < 8) (a b : Num) :
    IsCompare cc a b (fpCompare cc a b).1 (fpCompare cc a b).2 := by
  have hsig : a.isSnan = true ∨ b.isSnan = true → (a.isNan || b.isNan) = true := fun h => by
    rcases h with h | h <;> simp [isNan_of_isSnan h]
  have hcases : cc = 0 ∨ cc = 1 ∨ cc = 2 ∨ cc = 3 ∨ cc = 4 ∨ cc = 5 ∨ cc = 6 ∨ cc = 7 := by bv_omega
  unfold IsCompare
  cases hun : a.isNan || b.isNan
  case true => rcases hcases with rfl | rfl | rfl | rfl | rfl | rfl | rfl | rfl <;> simp [fpCompare, hun]
  case false =>
    obtain ⟨ha, hb⟩ := Bool.or_eq_false_iff.1 hun
    have hq : ¬(a.isSnan = true ∨ b.isSnan = true) := fun h => by simp [hsig h] at hun
    rw [not_or, Bool.not_eq_true, Bool.not_eq_true] at hq
    rw [less_or_same_iff_not_less ha hb, less_iff_not_less_same ha hb, ← cmp_fst_iff ha hb, ← cmp_snd_iff ha hb]
    rcases hcases with rfl | rfl | rfl | rfl | rfl | rfl | rfl | rfl <;> simp [fpCompare, ha, hb, hq]

/-- FCMP (R116). -/
theorem fcmp_raises {s : State} {h : Hdr} {o : OpsA} {a b : LaneId → Word} (hc : Clear s h) (ha : ReadsG s h o.sa a)
    (hb : ReadsG s h o.sb b) (hd : TakesP s h o.dst) :
    let r := fun k => fpCompare o.cc ((tyFmt o).decode (a k).toNat) ((tyFmt o).decode (b k).toNat)
    RaisesFp (.fcmp h o) s h false (fun k => (r k).2)
      (fun k => if h.w then ((s.fl.lane k).withF (r k).2).setP o.dst.pReg (r k).1 else (s.fl.lane k).withF (r k).2)
      fun k => some (.pred (r k).1) := by
  refine raisesFp hc (fun hq => logUnreadBy_clean hq) rfl (fun k hk => ?_) (fun k => ?_)
  · simp only [ha k hk, hb k hk, hd k hk, bind, Except.bind]
    cases fpTrap s.fl (fpCompare o.cc ((tyFmt o).decode (a k).toNat) ((tyFmt o).decode (b k).toNat)).2 <;> rfl
  · split
    · exact setP_same _ _ _
    · exact ⟨rfl, rfl, rfl, rfl, rfl⟩

end Sys2Proof.Machine
end

section
/-! The rounding to an integer that FRND and FCVTI use: R118 and R120, by the roundings of R104 and R105. -/

namespace Sys2Proof.Machine

/-- The fraction scaled by a power of two, as the quotient that the floor is taken of. -/
theorem scaled_eq_div (n d : Nat) (s : Int) :
    (n / d : ℚ) * 2 ^ s =
      ((if 0 ≤ s then n * 2 ^ s.toNat else n : Nat) : ℚ) / ((if 0 ≤ s then d else d * 2 ^ (-s).toNat : Nat) : ℚ) := by
  split
  · next h =>
    have hpow : (2 : ℚ) ^ s = 2 ^ s.toNat := by rw [← zpow_natCast, Int.toNat_of_nonneg h]
    rw [hpow, Nat.cast_mul, Nat.cast_pow, Nat.cast_ofNat, div_mul_eq_mul_div]
  · next h =>
    have hpow : (2 : ℚ) ^ s = (2 ^ (-s).toNat)⁻¹ := by
      rw [← zpow_natCast, Int.toNat_of_nonneg (by omega), zpow_neg, inv_inv]
    rw [hpow, Nat.cast_mul, Nat.cast_pow, Nat.cast_ofNat, ← div_eq_mul_inv, div_div]

/-- A quotient is an integer where the division leaves no remainder. -/
theorem mod_ne_zero_iff_div_ne_floor {a b : Nat} (hb : 0 < b) : a % b ≠ 0 ↔ (a / b : ℚ) ≠ (a / b : Nat) := by
  have hb' : (b : ℚ) ≠ 0 := Nat.cast_ne_zero.2 hb.ne'
  refine not_congr ?_
  rw [div_eq_iff hb', ← Nat.cast_mul, Nat.cast_inj]
  have := Nat.div_add_mod' a b
  omega

/-- The scaled floor of a fraction, and whether it is not exact. -/
theorem scaledFloor_eq {n d : Nat} (hd : 0 < d) (s : Int) :
    scaledFloor n d false s =
      (⌊(n / d : ℚ) * 2 ^ s⌋₊, decide ((n / d : ℚ) * 2 ^ s ≠ (⌊(n / d : ℚ) * 2 ^ s⌋₊ : ℚ))) := by
  have hb : 0 < (if 0 ≤ s then d else d * 2 ^ (-s).toNat) := by split <;> positivity
  rw [scaled_eq_div, Nat.floor_div_eq_div]
  exact Prod.ext rfl (decide_eq_decide.2 (mod_ne_zero_iff_div_ne_floor hb))

/-- A floor and whether it is not exact tell of every integer whether it is below, at or above. -/
theorem natCast_lt_iff_floor {y : ℚ} (hy : 0 ≤ y) (c : Nat) :
    (c : ℚ) < y ↔ c < ⌊y⌋₊ ∨ (⌊y⌋₊ = c ∧ y ≠ (⌊y⌋₊ : ℚ)) := by
  constructor
  · intro h
    rcases (Nat.le_floor h.le).lt_or_eq with hlt | heq
    · exact .inl hlt
    · exact .inr ⟨heq.symm, by rw [← heq]; exact h.ne'⟩
  · rintro (hlt | ⟨heq, hne⟩)
    · exact (Nat.cast_lt.2 hlt).trans_le (Nat.floor_le hy)
    · rw [← heq]; exact lt_of_le_of_ne (Nat.floor_le hy) hne.symm

theorem eq_natCast_iff_floor {y : ℚ} (c : Nat) : y = (c : ℚ) ↔ ⌊y⌋₊ = c ∧ y = (⌊y⌋₊ : ℚ) := by
  constructor
  · intro h
    have hc : ⌊y⌋₊ = c := by rw [h, Nat.floor_natCast]
    exact ⟨hc, by rw [hc]; exact h⟩
  · rintro ⟨hc, h⟩
    rw [hc] at h; exact h

/-- The model's choice between a grid point n and the one above it is that of R101 and R105: it sees the place between them in
128ths, y, by its floor and whether that is exact. -/
theorem roundsUp_iff_goesUp {x y : ℚ} {n : Nat} (hy : 0 ≤ y) (hxy : x = n + y / 128) (rm : Rnd) (neg odd : Bool) {t : Nat}
    (ht : t < 64) :
    roundsUp rm neg ⌊y⌋₊ (decide (y ≠ (⌊y⌋₊ : ℚ))) odd t = true ↔ GoesUp rm neg odd false x n (n + 1) t := by
  cases rm
  case rtz => simp [roundsUp, GoesUp]
  case rdn => rfl
  case rup => simp [roundsUp, GoesUp]
  case rne =>
    have habove : (n + (n + 1) : ℚ) / 2 < x ↔ ((64 : Nat) : ℚ) < y := by
      rw [hxy]; constructor <;> intro h <;> push_cast at h ⊢ <;> linarith
    have hat : (n + (n + 1) : ℚ) / 2 = x ↔ y = ((64 : Nat) : ℚ) := by
      rw [hxy]; constructor <;> intro h <;> push_cast at h ⊢ <;> linarith
    simp only [roundsUp, GoesUp, isAbove, isAt, Bool.false_eq_true, if_false, habove, hat, natCast_lt_iff_floor hy 64,
      eq_natCast_iff_floor 64, Bool.or_eq_true, Bool.and_eq_true, decide_eq_true_eq]
    tauto
  case dith =>
    cases neg
    case false =>
      have hreach : (n : ℚ) + (t + 1 / 2) * (n + 1 - n) / 64 ≤ x ↔ ((2 * t + 1 : Nat) : ℚ) ≤ y := by
        rw [hxy]; constructor <;> intro h <;> push_cast at h ⊢ <;> linarith
      simp only [roundsUp, GoesUp, isAbove, isAt, Bool.false_eq_true, if_false, ← le_iff_lt_or_eq, hreach,
        ← Nat.le_floor_iff hy, decide_eq_true_eq]
    case true =>
      have habove : (n : ℚ) + 1 - (t + 1 / 2) * (n + 1 - n) / 64 < x ↔ ((127 - 2 * t : Nat) : ℚ) < y := by
        rw [hxy, Nat.cast_sub (by omega)]; constructor <;> intro h <;> push_cast at h ⊢ <;> linarith
      simp only [roundsUp, GoesUp, isAbove, Bool.false_eq_true, if_false, if_true, habove, natCast_lt_iff_floor hy,
        Bool.not_eq_true', Bool.or_eq_false_iff, Bool.and_eq_false_iff, decide_eq_false_iff_not, Bool.not_eq_false',
        decide_eq_true_eq]
      by_cases hexact : y = (⌊y⌋₊ : ℚ)
      · simp only [ne_eq, ← hexact, not_true_eq_false, or_false, and_false]; omega
      · simp only [ne_eq, hexact, not_false_eq_true, or_true, and_true]; omega

/-- The place of a magnitude above the integer below it, in 128ths. -/
def intPlace (r : ℚ) : ℚ := 128 * (r - ⌊r⌋₊)

theorem intPlace_nonneg {r : ℚ} (hr : 0 ≤ r) : 0 ≤ intPlace r :=
  mul_nonneg (by norm_num) (sub_nonneg.2 (Nat.floor_le hr))

theorem eq_floor_add_intPlace (r : ℚ) : r = ⌊r⌋₊ + intPlace r / 128 := by unfold intPlace; ring

/-- The floor in 128ths holds the integer below and the floor of the place above it. -/
theorem floor_mul_128 (r : ℚ) : ⌊r * 128⌋₊ / 128 = ⌊r⌋₊ ∧ ⌊r * 128⌋₊ % 128 = ⌊intPlace r⌋₊ := by
  have hdiv : ⌊r * 128⌋₊ / 128 = ⌊r⌋₊ := by
    have h := Nat.floor_div_natCast (r * 128) 128
    rwa [Nat.cast_ofNat, mul_div_cancel_right₀ r (by norm_num), eq_comm] at h
  have hplace : intPlace r = r * 128 - ((128 * ⌊r⌋₊ : Nat) : ℚ) := by unfold intPlace; push_cast; ring
  refine ⟨hdiv, ?_⟩
  rw [hplace, Nat.floor_sub_natCast]
  omega

/-- The 128ths are exact where the place is a whole number of them. -/
theorem mul_128_ne_floor_iff (r : ℚ) : r * 128 ≠ (⌊r * 128⌋₊ : ℚ) ↔ intPlace r ≠ (⌊intPlace r⌋₊ : ℚ) := by
  obtain ⟨hdiv, hmod⟩ := floor_mul_128 r
  have hsum : (⌊r * 128⌋₊ : ℚ) = 128 * ⌊r⌋₊ + (⌊intPlace r⌋₊ : ℚ) := by
    rw [← hmod, ← hdiv]; exact_mod_cast (Nat.div_add_mod ⌊r * 128⌋₊ 128).symm
  rw [hsum, intPlace]
  constructor <;> intro h hc <;> exact h (by linarith)

/-- A magnitude is no integer where its place is not zero. -/
theorem intPlace_ne_zero_iff (r : ℚ) : ⌊intPlace r⌋₊ ≠ 0 ∨ intPlace r ≠ (⌊intPlace r⌋₊ : ℚ) ↔ r ≠ (⌊r⌋₊ : ℚ) := by
  have hzero : intPlace r = ((0 : Nat) : ℚ) ↔ r = (⌊r⌋₊ : ℚ) := by
    rw [intPlace, Nat.cast_zero, mul_eq_zero_iff_left (by norm_num), sub_eq_zero]
  rw [← not_and_or, ← eq_natCast_iff_floor, hzero]

/-- The rounding to an integer in terms of the exact magnitude r. -/
theorem roundInteger_eq {n d : Nat} (hd : 0 < d) {r : ℚ} (hr : r = n / d) (neg : Bool) (rm : Rnd) (t : Nat) :
    roundInteger neg n d rm t =
      (if decide (r ≠ (⌊r⌋₊ : ℚ)) &&
          roundsUp rm neg ⌊intPlace r⌋₊ (decide (intPlace r ≠ (⌊intPlace r⌋₊ : ℚ))) (decide (⌊r⌋₊ % 2 = 1)) t
        then ⌊r⌋₊ + 1 else ⌊r⌋₊, decide (r ≠ (⌊r⌋₊ : ℚ))) := by
  obtain ⟨hdiv, hmod⟩ := floor_mul_128 r
  have hinexact : (decide (⌊intPlace r⌋₊ ≠ 0) || decide (intPlace r ≠ (⌊intPlace r⌋₊ : ℚ))) = decide (r ≠ (⌊r⌋₊ : ℚ)) := by
    rw [← Bool.decide_or]; exact decide_eq_decide.2 (intPlace_ne_zero_iff r)
  unfold roundInteger
  rw [scaledFloor_eq hd, ← hr, show (2 : ℚ) ^ (7 : Int) = 128 by norm_num]
  simp only [hdiv, hmod, decide_eq_decide.2 (mul_128_ne_floor_iff r), hinexact]

/-- A fraction rounded to an integer (R118, R120), and whether it is none. -/
theorem roundInteger_rounds {n d : Nat} (hd : 0 < d) (neg : Bool) (rm : Rnd) {t : Nat} (ht : t < 64) :
    IntRounds rm neg t (n / d : ℚ) (roundInteger neg n d rm t).1 ∧
      (roundInteger neg n d rm t).2 = decide ((n / d : ℚ) ≠ (⌊(n / d : ℚ)⌋₊ : ℚ)) := by
  obtain ⟨r, hr⟩ : ∃ r : ℚ, r = n / d := ⟨_, rfl⟩
  have hnonneg : 0 ≤ r := hr ▸ by positivity
  have hup := roundsUp_iff_goesUp (intPlace_nonneg hnonneg) (eq_floor_add_intPlace r) rm neg (decide (⌊r⌋₊ % 2 = 1)) ht
  rw [← hr, roundInteger_eq hd hr]
  refine ⟨⟨fun hint => ?_, fun hne hgo => ?_, fun hne hgo => ?_⟩, rfl⟩
  · simp [← hint]
  · rw [← hup] at hgo
    rw [decide_eq_true hne, hgo]; rfl
  · rw [← hup, Bool.not_eq_true] at hgo
    rw [decide_eq_true hne, hgo]; rfl

end Sys2Proof.Machine
end

section
/-! The values of codes, and the words that read, bound or keep them: FABS and FNEG (R115), FCLASS (R117), FCVTI (R120) and SCLX
(R125). -/

namespace Sys2Proof.Machine

/-- The rounding of a scalar word is that of its RM, and its dither threshold that of column 0 (R104, R105). -/
theorem laneRounding_eq_rndOf (s : State) (rm : BitVec 3) (k : LaneId) :
    laneRounding s rm k = (rndOf s rm, ditherAt s.fl.dphase k.val 0) :=
  laneRounding_eq s rm k

theorem ditherAt_lt (phase : BitVec 6) (r c : Nat) : ditherAt phase r c < 64 := Nat.mod_lt _ (by decide)

/-- A word gives any results and flags that are equal to those it computes. -/
theorem GivesFp.congr {i : Instr} {s : State} {h : Hdr} {o : OpsA} {r r' : LaneId → Nat × BitVec 5} (hg : GivesFp i s h o r)
    (hr : ∀ k, r k = r' k) : GivesFp i s h o r' :=
  (funext hr : r = r') ▸ hg

/-- FNEG inverts the sign bit (R115). -/
theorem fpNeg_eq {f : Fmt} (hw : 0 < f.w) (a : Nat) : fpNeg f a = (a + 2 ^ (f.w - 1)) % 2 ^ f.w := by
  have hpow : 2 ^ f.w = 2 * 2 ^ (f.w - 1) := (mul_pow_sub_one hw.ne' 2).symm
  have hlow : a % 2 ^ (f.w - 1) = a % 2 ^ f.w % 2 ^ (f.w - 1) := by rw [hpow, Nat.mod_mul_left_mod]
  have hlt : a % 2 ^ f.w < 2 ^ f.w := Nat.mod_lt _ (by positivity)
  rw [fpNeg, hlow, ← Nat.mod_add_mod]
  generalize a % 2 ^ f.w = c at hlt ⊢
  split
  · next hset =>
    rw [Nat.mod_eq_sub_mod hset, Nat.mod_eq_of_lt (by omega), Nat.mod_eq_sub_mod (by omega), Nat.mod_eq_of_lt (by omega)]
    omega
  · rw [Nat.add_comm, Nat.mod_eq_of_lt (by omega)]

/-- The magnitude code within a code. -/
def Fmt.magCode (f : Fmt) (bits : Nat) : Nat := if f.sgn then bits % 2 ^ f.w % 2 ^ (f.w - 1) else bits % 2 ^ f.w

/-- The value of a code by its magnitude code. -/
theorem decode_by_magCode (f : Fmt) (bits : Nat) :
    f.decode bits =
      let neg := f.sgn && decide (2 ^ (f.w - 1) ≤ bits % 2 ^ f.w)
      let code := f.magCode bits
      if f.ieee then
        if f.infCode < code then .nan (decide (code / 2 ^ (f.p - 2) % 2 = 0))
        else if code = f.infCode then .inf neg
        else .fin neg (f.mag code).1 (f.mag code).2
      else if bits % 2 ^ f.w = f.nan then .nan false
      else if f.inf && decide (code = f.infCode) then .inf neg
      else .fin neg (f.mag code).1 (f.mag code).2 :=
  rfl

/-- A finite value is that of its magnitude code; in an IEEE format the code lies below that of infinity. -/
theorem decode_eq_fin {f : Fmt} {bits : Nat} {n : Bool} {m : Nat} {e : Int} (h : f.decode bits = .fin n m e) :
    (m, e) = f.mag (f.magCode bits) ∧ (f.ieee = true → f.magCode bits < f.infCode) := by
  rw [decode_by_magCode] at h
  cases hieee : f.ieee <;> simp only [hieee, Bool.false_eq_true, if_false, if_true] at h <;> split_ifs at h <;> cases h
  · exact ⟨rfl, fun h => nomatch h⟩
  · exact ⟨rfl, fun _ => by omega⟩

theorem at_nonneg (f : Fmt) (code : Nat) : 0 ≤ f.at code := by unfold Fmt.at; positivity

theorem rat_fin_abs (n : Bool) (m : Nat) (e : Int) : |(Num.fin n m e).rat| = m * (2 : ℚ) ^ e := by
  have hpos : (0 : ℚ) ≤ m * 2 ^ e := by positivity
  cases n <;> simp [Num.rat, abs_of_nonneg]

theorem rat_fin_eq_zero {n : Bool} {m : Nat} {e : Int} : (Num.fin n m e).rat = 0 ↔ m = 0 := by
  rw [← abs_eq_zero, rat_fin_abs, mul_eq_zero, Nat.cast_eq_zero, or_iff_left (by positivity)]

/-- The subnormal codes are those whose value lies below the least normal one. -/
theorem at_lt_iff_subnormal (f : Fmt) (bits : Nat) :
    f.at (f.magCode bits) < (2 : ℚ) ^ (1 - f.bias) ↔ f.subnormal bits = true := by
  have hcode : f.subnormal bits = decide (f.magCode bits < 2 ^ (f.p - 1)) := by
    unfold Fmt.subnormal Fmt.magCode
    split
    · rw [Nat.mod_mod_of_dvd _ (pow_dvd_pow 2 (Nat.sub_le ..))]
    · rfl
  rw [hcode, decide_eq_true_iff]
  generalize f.magCode bits = code
  have hscale : (2 : ℚ) ^ (1 - f.bias) = 2 ^ (f.p - 1) * 2 ^ (1 - f.bias - (f.p - 1 : Nat)) := by
    rw [← zpow_natCast, ← zpow_add₀ two_ne_zero]; congr 1; ring
  have hpos : (0 : ℚ) < 2 ^ (1 - f.bias - (f.p - 1 : Nat)) := by positivity
  unfold Fmt.at Fmt.mag
  by_cases hsub : code < 2 ^ (f.p - 1)
  · have hfrac : ((code % 2 ^ (f.p - 1) : Nat) : ℚ) < 2 ^ (f.p - 1) := by exact_mod_cast Nat.mod_lt code (by positivity)
    simp only [Nat.div_eq_of_lt hsub, if_true, hsub, iff_true]
    rw [hscale]
    exact mul_lt_mul_of_pos_right hfrac hpos
  · have hfield : 1 ≤ code / 2 ^ (f.p - 1) := (Nat.one_le_div_iff (by positivity)).2 (not_lt.1 hsub)
    have hexp : (2 : ℚ) ^ (1 - f.bias - (f.p - 1 : Nat)) ≤ 2 ^ ((code / 2 ^ (f.p - 1) : Nat) - f.bias - (f.p - 1 : Nat)) :=
      zpow_le_zpow_right₀ one_le_two (by omega)
    simp only [if_neg (Nat.one_le_iff_ne_zero.1 hfield), hsub, iff_false, not_lt]
    rw [hscale]
    refine mul_le_mul ?_ hexp hpos.le (by positivity)
    push_cast
    exact le_add_of_nonneg_right (by positivity)

/-- The class of a code, as the place of its bit (R117). -/
def fpClassBit (f : Fmt) (bits : Nat) : Nat :=
  match f.decode bits with
  | .nan sig => if sig then 8 else 9
  | .inf neg => if neg then 0 else 7
  | .fin neg m _ =>
    if m = 0 then (if neg then 3 else 4)
    else if f.subnormal bits then (if neg then 2 else 5) else (if neg then 1 else 6)

/-- FCLASS sets one bit (R117). -/
theorem fpClass_eq (f : Fmt) (bits : Nat) : fpClass f bits = 2 ^ fpClassBit f bits := by
  unfold fpClass fpClassBit
  cases f.decode bits <;> simp only [apply_ite (2 ^ · : Nat → Nat)]

theorem fpClassBit_nan {f : Fmt} {bits : Nat} {sig : Bool} (h : f.decode bits = .nan sig) :
    fpClassBit f bits = if sig then 8 else 9 := by rw [fpClassBit, h]

theorem fpClassBit_inf {f : Fmt} {bits : Nat} {n : Bool} (h : f.decode bits = .inf n) :
    fpClassBit f bits = if n then 0 else 7 := by rw [fpClassBit, h]

/-- The class of a finite value is that of its sign and its magnitude (R117). -/
theorem fpClassBit_fin {f : Fmt} {bits : Nat} {n : Bool} {m : Nat} {e : Int} (h : f.decode bits = .fin n m e) :
    if (f.decode bits).rat = 0 then fpClassBit f bits = (if n then 3 else 4)
    else if |(f.decode bits).rat| < (2 : ℚ) ^ (1 - f.bias) then fpClassBit f bits = (if n then 2 else 5)
    else fpClassBit f bits = if n then 1 else 6 := by
  obtain ⟨hmag, -⟩ := decode_eq_fin h
  have hat : (m * (2 : ℚ) ^ e) = f.at (f.magCode bits) := by rw [Fmt.at, ← hmag]
  simp only [fpClassBit, h, rat_fin_eq_zero, rat_fin_abs, hat, at_lt_iff_subnormal]
  split <;> [skip; split] <;> simp_all

theorem fraction_pos (m : Nat) (e : Int) : 0 < (fraction m e).2 := by unfold fraction; split <;> positivity

/-- The fraction of a finite magnitude is its value. -/
theorem fraction_div (m : Nat) (e : Int) : ((fraction m e).1 / (fraction m e).2 : ℚ) = m * 2 ^ e := by
  have h := scaled_eq_div m 1 e
  rw [Nat.cast_one, div_one, one_mul] at h
  rw [h]
  unfold fraction
  split <;> rfl

/-- A conversion to an integer rounds and saturates (R120). -/
theorem fpToInt_isToInt (ty : Ty) (rm : Rnd) {t : Nat} (ht : t < 64) (x : Num) : IsToInt ty x rm t (fpToInt ty (rm, t) x) := by
  refine ⟨fun sig hx => hx ▸ rfl, fun n hx => hx ▸ rfl, fun n m e hx => ?_⟩
  subst hx
  obtain ⟨hq, hinexact⟩ := roundInteger_rounds (fraction_pos m e) n rm ht
  rw [fraction_div, ← rat_fin_abs n] at hq hinexact
  refine ⟨_, hq, ?_⟩
  have hsigned : ∀ q : Nat, signedMag n q = (if n then -1 else 1) * (q : Int) := fun q => by cases n <;> simp [signedMag]
  simp only [fpToInt, hsigned, hinexact, decide_eq_true_eq, ne_eq, ite_not]

/-- A scale fits where the magnitude is at most the greatest finite value so scaled (R125). -/
theorem fitsScale_iff (f : Fmt) (m : Nat) (e : Int) (b : Nat) :
    fitsScale f m e b = true ↔ m * (2 : ℚ) ^ e ≤ f.at f.top * (2 : ℚ) ^ ((b : Int) - 127) := by
  obtain ⟨te, hte⟩ : ∃ te, te = (f.mag f.top).2 + (b : Int) - 127 := ⟨_, rfl⟩
  have hpos : (0 : ℚ) < 2 ^ min e te := by positivity
  have htop : f.at f.top * (2 : ℚ) ^ ((b : Int) - 127) = (f.mag f.top).1 * 2 ^ te := by
    rw [Fmt.at, mul_assoc, ← zpow_add₀ two_ne_zero, hte, add_sub_assoc]
  rw [htop, ← alignedMag_mul_zpow m (min_le_left e te), ← alignedMag_mul_zpow _ (min_le_right e te), mul_le_mul_iff_left₀ hpos,
    Nat.cast_le, hte]
  exact decide_eq_true_iff

/-- A scale that fits is below every greater one that does. -/
theorem fits_mono {x top : ℚ} (htop : 0 ≤ top) {b c : Nat} (hbc : b ≤ c) (h : x ≤ top * (2 : ℚ) ^ ((b : Int) - 127)) :
    x ≤ top * (2 : ℚ) ^ ((c : Int) - 127) :=
  h.trans (mul_le_mul_of_nonneg_left (zpow_le_zpow_right₀ one_le_two (by omega)) htop)

theorem fpScaleByte_nan {g : Fmt} {a : Nat} {sig : Bool} (f : Fmt) (h : g.decode a = .nan sig) :
    fpScaleByte g f a = (255, if sig then flIV else 0) := by rw [fpScaleByte, h]

theorem fpScaleByte_inf {g : Fmt} {a : Nat} {n : Bool} (f : Fmt) (h : g.decode a = .inf n) : fpScaleByte g f a = (255, 0) := by
  rw [fpScaleByte, h]

/-- SCLX finds the least scale that fits, or overflows (R125). -/
theorem fpScaleByte_fin {g : Fmt} {a : Nat} {n : Bool} {m : Nat} {e : Int} (f : Fmt) (h : g.decode a = .fin n m e) :
    let fits := fun (b : Nat) => |(g.decode a).rat| ≤ f.at f.top * (2 : ℚ) ^ ((b : Int) - 127)
    let r := fpScaleByte g f a
    (fits 254 → fits r.1 ∧ r.1 ≤ 254 ∧ (∀ b, b < r.1 → ¬fits b) ∧ r.2 = 0) ∧ (¬fits 254 → r = (254, flOF)) := by
  simp only [fpScaleByte, h, rat_fin_abs]
  simp only [← fitsScale_iff]
  cases hfind : (List.range 255).find? (fitsScale f m e) with
  | none =>
    have hno : ∀ b, b < 255 → fitsScale f m e b ≠ true := by simpa using hfind
    exact ⟨fun h254 => absurd h254 (hno 254 (by decide)), fun _ => rfl⟩
  | some b =>
    obtain ⟨hb, hmem, hlow⟩ := List.find?_range_eq_some.1 hfind
    rw [List.mem_range] at hmem
    refine ⟨fun _ => ⟨hb, Nat.lt_succ_iff.1 hmem, fun c hc => by simpa using hlow c hc, rfl⟩, fun h254 => absurd ?_ h254⟩
    rw [fitsScale_iff] at hb ⊢
    exact fits_mono (at_nonneg f f.top) (by omega) hb

end Sys2Proof.Machine
end

section
/-! FRND (R118): the rounded integer is a value of the format, which RoundTo gives exactly. -/

namespace Sys2Proof.Machine

/-- What the IEEE formats have in common (R95): exponent fields 0 to 2 × bias of finite values, then the code of infinity. -/
structure Fmt.IsIeee (f : Fmt) : Prop where
  sgn : f.sgn = true
  ieee : f.ieee = true
  width : 0 < f.w
  fits : f.infCode < 2 ^ (f.w - 1)
  top : f.top + 1 = f.infCode
  infinity : f.infCode = (2 * f.bias.toNat + 1) * 2 ^ (f.p - 1)
  precision : 1 ≤ f.p
  range : (f.p : Int) ≤ f.bias

theorem fmtOf_isIeee {ty : Ty} (h : ty ∈ [Ty.fp64, .fp32, .fp16, .bf16]) (p : Nat) : (fmtOf ty p).IsIeee := by
  simp only [List.mem_cons, List.not_mem_nil, or_false] at h
  have hprec : fmtOf ty p = fmtOf ty 0 := by rcases h with rfl | rfl | rfl | rfl <;> rfl
  rw [hprec]
  rcases h with rfl | rfl | rfl | rfl <;> constructor <;> decide

/-- The code of a finite magnitude and a sign has that magnitude and sign. -/
theorem decode_encode_ieee {f : Fmt} (hf : f.IsIeee) (neg : Bool) {code : Nat} (hcode : code ≤ f.top) :
    f.decode (f.encode neg code) = .fin neg (f.mag code).1 (f.mag code).2 := by
  have hpow : 2 ^ f.w = 2 * 2 ^ (f.w - 1) := (mul_pow_sub_one hf.width.ne' 2).symm
  have hinf : code < f.infCode := hf.top ▸ Nat.lt_succ_of_le hcode
  have hlt : code < 2 ^ (f.w - 1) := hinf.trans hf.fits
  have henc : f.encode neg code = if neg then 2 ^ (f.w - 1) + code else code := by
    simp [Fmt.encode, hf.sgn, hf.ieee]
  have hmod : f.encode neg code % 2 ^ f.w = f.encode neg code :=
    Nat.mod_eq_of_lt (by rw [henc, hpow]; split <;> omega)
  have hmag : f.magCode (f.encode neg code) = code := by
    rw [Fmt.magCode, if_pos hf.sgn, hmod, henc]
    cases neg
    · exact Nat.mod_eq_of_lt hlt
    · rw [if_pos rfl, Nat.add_mod_left, Nat.mod_eq_of_lt hlt]
  have hneg : decide (2 ^ (f.w - 1) ≤ f.encode neg code) = neg := by
    rw [henc]; cases neg
    · simpa using hlt
    · simp
  rw [decode_by_magCode]
  simp only [hf.ieee, hf.sgn, hmod, hmag, hneg, if_true, Bool.true_and, if_neg hinf.not_gt, if_neg hinf.ne]

/-- The magnitude of a normal code by its field and its significand. -/
theorem mag_normal (f : Fmt) {field sig : Nat} (hlo : 2 ^ (f.p - 1) ≤ sig) (hhi : sig < 2 * 2 ^ (f.p - 1)) :
    f.mag (field * 2 ^ (f.p - 1) + sig) = (sig, (field + 1 : Nat) - f.bias - (f.p - 1 : Nat)) := by
  have hpos : 0 < 2 ^ (f.p - 1) := by positivity
  have hone : sig / 2 ^ (f.p - 1) = 1 := Nat.div_eq_of_lt_le (by omega) (by omega)
  have hdiv : (field * 2 ^ (f.p - 1) + sig) / 2 ^ (f.p - 1) = field + 1 := by
    rw [Nat.add_comm, Nat.add_mul_div_right _ _ hpos, hone, Nat.add_comm]
  have hmod : (field * 2 ^ (f.p - 1) + sig) % 2 ^ (f.p - 1) = sig - 2 ^ (f.p - 1) := by
    rw [Nat.add_comm, Nat.add_mul_mod_self_right, Nat.mod_eq_sub_mod hlo, Nat.mod_eq_of_lt (by omega)]
  rw [Fmt.mag, hdiv, hmod, if_neg (Nat.succ_ne_zero field), Nat.add_sub_cancel' hlo]

/-- A finite value has at most p significant bits, and lies below 2^(bias + 1). -/
theorem mag_bounds {f : Fmt} (hf : f.IsIeee) {code : Nat} (hcode : code < f.infCode) :
    (f.mag code).1 < 2 ^ f.p ∧ (f.mag code).2 ≤ f.bias - (f.p - 1 : Nat) := by
  have hpow : 2 ^ f.p = 2 * 2 ^ (f.p - 1) := (mul_pow_sub_one (Nat.one_le_iff_ne_zero.1 hf.precision) 2).symm
  have hfrac : code % 2 ^ (f.p - 1) < 2 ^ (f.p - 1) := Nat.mod_lt _ (by positivity)
  have hfield : code / 2 ^ (f.p - 1) < 2 * f.bias.toNat + 1 := Nat.div_lt_of_lt_mul (by rw [mul_comm, ← hf.infinity]; exact hcode)
  have hbias : (1 : Int) ≤ f.bias := le_trans (by exact_mod_cast hf.precision) hf.range
  simp only [Fmt.mag]
  split
  · exact ⟨by simp only; omega, by simp only; omega⟩
  · exact ⟨by simp only; omega, by simp only; omega⟩

/-- An integer with at most p significant bits has a significand of exactly p. -/
theorem exists_significand {p c j : Nat} (hp : 1 ≤ p) (hc : c < 2 ^ p) (hq : 0 < c * 2 ^ j) :
    ∃ sig, c * 2 ^ j * 2 ^ (p - 1) = sig * 2 ^ (c * 2 ^ j).log2 ∧ 2 ^ (p - 1) ≤ sig ∧ sig < 2 * 2 ^ (p - 1) := by
  obtain ⟨E, hE⟩ : ∃ E, E = (c * 2 ^ j).log2 := ⟨_, rfl⟩
  have hlo : 2 ^ E ≤ c * 2 ^ j := hE ▸ Nat.log2_self_le hq.ne'
  have hhi : c * 2 ^ j < 2 ^ (E + 1) := hE ▸ Nat.lt_log2_self
  have hexp : E ≤ j + (p - 1) := by
    have h : 2 ^ E < 2 ^ (p + j) := hlo.trans_lt (by rw [pow_add]; exact Nat.mul_lt_mul_of_pos_right hc (by positivity))
    have := (Nat.pow_lt_pow_iff_right one_lt_two).1 h
    omega
  obtain ⟨sig, hsig⟩ : 2 ^ E ∣ c * 2 ^ j * 2 ^ (p - 1) := by
    rw [mul_assoc, ← pow_add]
    exact (pow_dvd_pow 2 hexp).mul_left c
  rw [mul_comm (2 ^ E)] at hsig
  have hpos : 0 < 2 ^ E := by positivity
  refine ⟨sig, hE ▸ hsig, Nat.le_of_mul_le_mul_right ?_ hpos, Nat.lt_of_mul_lt_mul_right (a := 2 ^ E) ?_⟩
  · rw [← hsig, mul_comm]; exact Nat.mul_le_mul_right _ hlo
  · rw [← hsig]
    calc c * 2 ^ j * 2 ^ (p - 1) < 2 ^ (E + 1) * 2 ^ (p - 1) := Nat.mul_lt_mul_of_pos_right hhi (by positivity)
      _ = 2 * 2 ^ (p - 1) * 2 ^ E := by ring

/-- The exponent of a positive integer. -/
theorem log2Floor_integer {q : Nat} (hq : 0 < q) : log2Floor q 1 false = q.log2 := by
  have hlo : ¬q < 2 ^ q.log2 := (Nat.log2_self_le hq.ne').not_gt
  have hone : Nat.log2 1 = 0 := rfl
  simp [log2Floor, hone, hlo]

/-- RoundTo of an integer that has at most p significant bits is exact (R101). -/
theorem roundReal_integer {f : Fmt} (hf : f.IsIeee) (neg : Bool) {q sig : Nat} (hq : 0 < q)
    (hsig : q * 2 ^ (f.p - 1) = sig * 2 ^ q.log2) (hlo : 2 ^ (f.p - 1) ≤ sig) (hhi : sig < 2 * 2 ^ (f.p - 1))
    (hrange : (q.log2 : Int) ≤ f.bias) (rm : Rnd) (t : Nat) :
    ∃ code ≤ f.top, f.roundReal neg q 1 false rm t false = (f.encode neg code, 0) ∧
      f.mag code = (sig, (q.log2 : Int) - (f.p - 1 : Nat)) := by
  have hprec := hf.precision
  have hbias := hf.range
  obtain ⟨field, hfield⟩ : ∃ field : Nat, (field : Int) + 1 = q.log2 + f.bias :=
    ⟨q.log2 + f.bias.toNat - 1, by omega⟩
  have hulp : (q : ℚ) = sig * 2 ^ ((q.log2 : Int) - (f.p - 1 : Nat)) := by
    rw [zpow_sub₀ two_ne_zero, zpow_natCast, zpow_natCast, mul_div_assoc', eq_div_iff (by positivity)]
    exact_mod_cast hsig
  have hscaled : (q / (1 : Nat) : ℚ) * 2 ^ (7 - ((q.log2 : Int) - (f.p - 1 : Nat))) = ((128 * sig : Nat) : ℚ) := by
    rw [Nat.cast_one, div_one, hulp, mul_assoc, ← zpow_add₀ two_ne_zero, add_sub_cancel]
    push_cast; ring
  have hfloor : scaledFloor q 1 false (7 - ((q.log2 : Int) - (f.p - 1 : Nat))) = (128 * sig, false) := by
    rw [scaledFloor_eq Nat.one_pos, hscaled, Nat.floor_natCast]
    simp
  have htop : field * 2 ^ (f.p - 1) + sig ≤ f.top := by
    have hmul : (field + 2) * 2 ^ (f.p - 1) ≤ f.infCode := hf.infinity ▸ Nat.mul_le_mul_right _ (by omega)
    have := hf.top
    rw [add_mul] at hmul
    omega
  refine ⟨field * 2 ^ (f.p - 1) + sig, htop, ?_, ?_⟩
  · have hmax : max ((q.log2 : Int) + f.bias) 1 = field + 1 := by rw [← hfield]; omega
    have hexp : (field : Int) + 1 - f.bias - (f.p - 1 : Nat) = q.log2 - (f.p - 1 : Nat) := by omega
    have hcode : 128 * sig / 128 = sig := Nat.mul_div_cancel_left _ (by decide)
    unfold Fmt.roundReal
    simp [log2Floor_integer hq, hmax, hexp, hfloor, hcode, hf.sgn, htop.not_gt]
  · rw [mag_normal f hlo hhi]
    refine Prod.ext rfl ?_
    simp only
    omega

/-- RoundTo gives an integer of at most p significant bits that lies below 2^(bias + 1) as it is, a zero with its sign. -/
theorem round_integer_exact {f : Fmt} (hf : f.IsIeee) (neg : Bool) {c j : Nat} (hc : c < 2 ^ f.p)
    (hrange : c * 2 ^ j < 2 ^ (f.bias.toNat + 1)) (rm : Rnd) (t : Nat) :
    ∃ m e, f.decode (f.round (.dyadic neg (c * 2 ^ j) 0) rm t false).1 = .fin neg m e ∧
      m * (2 : ℚ) ^ e = (c * 2 ^ j : Nat) := by
  rcases Nat.eq_zero_or_pos (c * 2 ^ j) with h0 | hq
  · rw [h0]
    exact ⟨_, _, decode_encode_ieee hf neg (Nat.zero_le _), by simp [Fmt.mag]⟩
  · obtain ⟨sig, hsig, hlo, hhi⟩ := exists_significand hf.precision hc hq
    have hlog : (c * 2 ^ j).log2 < f.bias.toNat + 1 := (Nat.log2_lt hq.ne').2 hrange
    have hbias := hf.range
    obtain ⟨code, htop, hround, hmag⟩ := roundReal_integer hf neg hq hsig hlo hhi (by omega) rm t
    have hval : f.round (.dyadic neg (c * 2 ^ j) 0) rm t false = (f.encode neg code, 0) := by
      rw [← hround]; simp [Val.dyadic, Fmt.round, hq.ne']
    refine ⟨_, _, by rw [hval]; exact decode_encode_ieee hf neg htop, ?_⟩
    rw [hmag, zpow_sub₀ two_ne_zero, zpow_natCast, zpow_natCast, mul_div_assoc', div_eq_iff (by positivity)]
    exact_mod_cast hsig.symm

/-- A magnitude rounds to one of the integers next to it, and an integer to itself. -/
theorem IntRounds.eq_or {rm : Rnd} {neg : Bool} {t q : Nat} {x : ℚ} (h : IntRounds rm neg t x q) :
    q = ⌊x⌋₊ ∨ (x ≠ ⌊x⌋₊ ∧ q = ⌊x⌋₊ + 1) := by
  obtain ⟨hint, hup, hdown⟩ := h
  by_cases hx : x = ⌊x⌋₊
  · exact .inl (hint hx)
  · by_cases hgo : GoesUp rm neg (decide (⌊x⌋₊ % 2 = 1)) false x ⌊x⌋₊ (⌊x⌋₊ + 1) t
    · exact .inr ⟨hx, hup hx hgo⟩
    · exact .inl (hdown hx hgo)

/-- A finite value rounded to an integer has at most p significant bits and lies below 2^(bias + 1). -/
theorem IntRounds.significant {f : Fmt} (hf : f.IsIeee) {bits : Nat} {n : Bool} {m : Nat} {e : Int}
    (hdec : f.decode bits = .fin n m e) {rm : Rnd} {neg : Bool} {t q : Nat} (hq : IntRounds rm neg t (m * (2 : ℚ) ^ e) q) :
    ∃ c j, q = c * 2 ^ j ∧ c < 2 ^ f.p ∧ c * 2 ^ j < 2 ^ (f.bias.toNat + 1) := by
  obtain ⟨hmag, hcode⟩ := decode_eq_fin hdec
  obtain ⟨hm, he⟩ := mag_bounds hf (hcode hf.ieee)
  rw [← hmag] at hm he
  have hrange := hf.range
  have hprec := hf.precision
  rcases le_or_gt 0 e with hpos | hneg
  · have hx : m * (2 : ℚ) ^ e = ((m * 2 ^ e.toNat : Nat) : ℚ) := by
      rw [Nat.cast_mul, Nat.cast_pow, Nat.cast_ofNat, ← zpow_natCast, Int.toNat_of_nonneg hpos]
    have hqm : q = m * 2 ^ e.toNat := by
      rcases hq.eq_or with h | ⟨hne, -⟩
      · rw [h, hx, Nat.floor_natCast]
      · rw [hx, Nat.floor_natCast] at hne; exact absurd rfl hne
    refine ⟨m, e.toNat, hqm, hm, ?_⟩
    calc m * 2 ^ e.toNat < 2 ^ f.p * 2 ^ e.toNat := Nat.mul_lt_mul_of_pos_right hm (by positivity)
      _ = 2 ^ (f.p + e.toNat) := (pow_add ..).symm
      _ ≤ 2 ^ (f.bias.toNat + 1) := Nat.pow_le_pow_right two_pos (by simp only at he; omega)
  · have hpow : 2 ^ f.p = 2 * 2 ^ (f.p - 1) := (mul_pow_sub_one (Nat.one_le_iff_ne_zero.1 hprec) 2).symm
    have hhalf : (2 : ℚ) ^ e ≤ 1 / 2 := by
      rw [one_div, ← zpow_neg_one]; exact zpow_le_zpow_right₀ one_le_two (by omega)
    have hx : m * (2 : ℚ) ^ e < ((2 ^ (f.p - 1) : Nat) : ℚ) := by
      have hm' : (m : ℚ) < 2 * ((2 ^ (f.p - 1) : Nat) : ℚ) := by exact_mod_cast hpow ▸ hm
      calc m * (2 : ℚ) ^ e ≤ m * (1 / 2) := mul_le_mul_of_nonneg_left hhalf (by positivity)
        _ < ((2 ^ (f.p - 1) : Nat) : ℚ) := by linarith
    have hfloor : ⌊m * (2 : ℚ) ^ e⌋₊ < 2 ^ (f.p - 1) := (Nat.floor_lt (by positivity)).2 hx
    have hlt : q < 2 ^ f.p := by rcases hq.eq_or with h | ⟨-, h⟩ <;> omega
    exact ⟨q, 0, by simp, hlt, by simpa using hlt.trans_le (Nat.pow_le_pow_right two_pos (by omega))⟩

theorem fpIntegral_eq_round {f : Fmt} {bits : Nat} (h : ∀ n m e, f.decode bits ≠ .fin n m e) (rm : Rnd) (t : Nat) :
    fpIntegral f (rm, t) bits = f.round (f.decode bits).val rm t false := by
  unfold fpIntegral
  cases hdec : f.decode bits with
  | nan sig => rfl
  | inf n => rfl
  | fin n m e => exact absurd hdec (h n m e)

/-- FRND gives a value of the format that is the rounded integer, with the sign of its operand (R118). -/
theorem fpIntegral_fin {f : Fmt} (hf : f.IsIeee) {bits : Nat} {n : Bool} {m : Nat} {e : Int}
    (hdec : f.decode bits = .fin n m e) (rm : Rnd) {t : Nat} (ht : t < 64) :
    ∃ q, IntRounds rm n t |(f.decode bits).rat| q ∧
      (f.decode (fpIntegral f (rm, t) bits).1).rat = (if n then -1 else 1) * q ∧
      (f.decode (fpIntegral f (rm, t) bits).1).sign = n ∧
      (fpIntegral f (rm, t) bits).2 = if |(f.decode bits).rat| = ⌊|(f.decode bits).rat|⌋₊ then 0 else flIX := by
  obtain ⟨hq, hinexact⟩ := roundInteger_rounds (fraction_pos m e) n rm ht
  rw [fraction_div] at hq hinexact
  obtain ⟨c, j, hqcj, hc, hrange⟩ := hq.significant hf hdec
  obtain ⟨m', e', hdec', hval⟩ := round_integer_exact hf n hc hrange .rtz 0
  have hres : fpIntegral f (rm, t) bits = ((f.round (.dyadic n (c * 2 ^ j) 0) .rtz 0 false).1,
      if m * (2 : ℚ) ^ e = ⌊m * (2 : ℚ) ^ e⌋₊ then 0 else flIX) := by
    simp only [fpIntegral, hdec, hqcj, hinexact, decide_eq_true_eq, ne_eq, ite_not]
  rw [hres, hdec', hdec, rat_fin_abs]
  refine ⟨_, hq, ?_, rfl, rfl⟩
  rw [Num.rat, mul_assoc, hval, hqcj]

end Sys2Proof.Machine
end

section
/-! The other floating-point words: R114 to R118, R120 and R125. -/

open Sys2Proof Sys2Proof.Machine

/-- Settles O13: each word is one of the shared floating-point words, whose result is the one that its rule says. -/
theorem fpOtherWords : Obligations.FpOtherWords := by
  intro s h o a hc ha
  have ht : ∀ k : LaneId, ditherAt s.fl.dphase k.val 0 < 64 := fun k => ditherAt_lt ..
  refine ⟨fun hty => ?_, ?_, ?_, fun _ _ => ?_⟩
  · have hf : (fmtOf o.ty o.is.toNat).IsIeee := fmtOf_isIeee hty _
    refine ⟨?_, ?_, ?_, fun b hb => ⟨?_, fun hd hcc => ?_⟩⟩
    · exact fp1_gives (f := fun _ x => (fpAbs (tyFmt o) x.toNat, 0)) rfl hc ha
    · exact GivesFp.congr (fp1_gives (f := fun _ x => (fpNeg (tyFmt o) x.toNat, 0)) rfl hc ha) fun k =>
        congrArg (·, 0) (fpNeg_eq hf.width _)
    · refine ⟨_, fp1_gives (f := fun r x => fpIntegral (tyFmt o) r x.toNat) rfl hc ha, fun k => ?_⟩
      rw [laneRounding_eq_rndOf]
      exact ⟨fun hfin => fpIntegral_eq_round hfin _ _, fun n m e hfin => fpIntegral_fin hf hfin _ (ht k)⟩
    · refine ⟨_, _, ?_, ?_, fun k => fpMinMax_isMinMax _ (a k).toNat (b k).toNat⟩
      · exact GivesFp.congr (fp2_gives rfl hc ha hb) fun k => Prod.ext rfl (fpMinMax_flags ..)
      · exact GivesFp.congr (fp2_gives rfl hc ha hb) fun k => Prod.ext rfl (fpMinMax_flags ..)
    · exact ⟨_, _, fcmp_raises hc ha hb hd, fun k => fpCompare_isCompare hcc _ _⟩
  · refine ⟨fun k => fpClassBit (tyFmt o) (a k).toNat, ?_, fun k => ⟨?_, ?_, ?_⟩⟩
    · exact GivesFp.congr (fp1_gives (f := fun _ x => (fpClass (tyFmt o) x.toNat, 0)) rfl hc ha) fun k =>
        congrArg (·, 0) (fpClass_eq ..)
    · exact fun sig hnan => fpClassBit_nan hnan
    · exact fun n hinf => fpClassBit_inf hinf
    · exact fun n m e hfin => fpClassBit_fin hfin
  · refine ⟨fun k => fpToInt o.ty (laneRounding s o.rm k) ((ccFmt o).decode (a k).toNat), ?_, fun k => ?_⟩
    · exact fp1_gives (f := fun r x => let v := fpToInt o.ty r ((ccFmt o).decode x.toNat); (extendInt v.1, v.2)) rfl hc ha
    · simp only [laneRounding_eq_rndOf]
      exact fpToInt_isToInt o.ty _ (ht k) _
  · refine ⟨_, fp1_gives (f := fun _ x => fpScaleByte (ccFmt o) (tyFmt o) x.toNat) rfl hc ha, fun k => ⟨?_, ?_, ?_⟩⟩
    · exact fun sig hnan => fpScaleByte_nan _ hnan
    · exact fun n hinf => fpScaleByte_inf _ hinf
    · exact fun n m e hfin => fpScaleByte_fin _ hfin

end

section
/-! Sub-elements of a register, and the vector logic words: R152 to R154. -/

namespace Sys2Proof.Machine

/-- An element operation gives any results that are equal to those it computes. -/
theorem GivesSubs.congr {i : Instr} {s : State} {h : Hdr} {d : Dst} {t : Ty} {r r' : LaneId → Nat → SubRes}
    (hg : GivesSubs i s h d t r) (hr : ∀ k j, r k j = r' k j) : GivesSubs i s h d t r' :=
  (funext fun k => funext (hr k) : r = r') ▸ hg

theorem subWord_lt (v : VWord) (w j : Nat) : subWord v w j < 2 ^ w := Nat.mod_lt _ (by positivity)

/-- A sub-element has no bit beyond its width. -/
theorem subWord_testBit_of_le (v : VWord) {w i : Nat} (j : Nat) (hi : w ≤ i) : (subWord v w j).testBit i = false :=
  Nat.testBit_lt_two_pow ((subWord_lt v w j).trans_le (Nat.pow_le_pow_right two_pos hi))

/-- A bitwise operation that keeps zeros acts on the bits of two sub-elements (R152). -/
theorem subWord_bitwise (op : Bool → Bool → Bool) (hop : op false false = false) (u v : VWord) (w j i : Nat) :
    op ((subWord u w j).testBit i) ((subWord v w j).testBit i) =
      (decide (i < w) && op ((subWord u w j).testBit i) ((subWord v w j).testBit i)) := by
  by_cases hi : i < w
  · rw [decide_eq_true hi, Bool.true_and]
  · rw [subWord_testBit_of_le u j (not_lt.1 hi), subWord_testBit_of_le v j (not_lt.1 hi), hop, Bool.and_false]

/-- VSHL multiplies within the width (R152). -/
theorem subShift_left (w a n : Nat) : subShift w 0 a n = a * 2 ^ n % 2 ^ w := by
  simp only [subShift, ite_eq_right_iff]
  exact fun hn => (Nat.mod_eq_zero_of_dvd ((pow_dvd_pow 2 hn).mul_left a)).symm

/-- VSHR divides (R152). -/
theorem subShift_right {w a : Nat} (ha : a < 2 ^ w) (n : Nat) : subShift w 1 a n = a / 2 ^ n := by
  simp only [subShift, ite_eq_right_iff]
  exact fun hn => (Nat.div_eq_of_lt (ha.trans_le (Nat.pow_le_pow_right two_pos hn))).symm

/-- VSAR divides the signed value, rounding down (R152). -/
theorem subShift_arithmetic (w a n : Nat) :
    subShift w 2 a n = (BitVec.ofInt w ((BitVec.ofNat w a).toInt / 2 ^ n)).toNat := by
  have hdiv : (BitVec.ofNat w a).toInt >>> n = (BitVec.ofNat w a).toInt / 2 ^ n := by
    rw [Int.shiftRight_eq_div_pow, Nat.cast_pow, Nat.cast_ofNat]
  rw [← hdiv]; rfl

/-- The truth of VCMP's condition in a sub-element, and the flags of the comparison (R153). -/
def subCond (t : Ty) (cc : BitVec 4) (a b : Nat) : Bool × BitVec 5 :=
  if t.isFp then fpCompare cc ((fmtOf t 0).decode a) ((fmtOf t 0).decode b)
  else (condInt cc (decide (readInt t a < readInt t b)) (decide (readInt t a = readInt t b)), 0)

/-- VCMP writes all ones where its condition holds, and zeros elsewhere (R153). -/
theorem subCmp_eq_subCond (t : Ty) (cc : BitVec 4) (a b : Nat) :
    subCmp t cc a b = ⟨if (subCond t cc a b).1 then 2 ^ t.width - 1 else 0, (subCond t cc a b).2, false⟩ := rfl

theorem isFp_of_mem {t : Ty} (ht : t ∈ [Ty.fp64, .fp32, .fp16, .bf16]) : t.isFp = true := by
  simp only [List.mem_cons, List.not_mem_nil, or_false] at ht
  rcases ht with rfl | rfl | rfl | rfl <;> rfl

/-- VCMP of floating-point values is the comparison of FCMP (R116, R153). -/
theorem subCond_isCompare {t : Ty} (ht : t ∈ [Ty.fp64, .fp32, .fp16, .bf16]) {cc : BitVec 4} (hcc : cc.toNat < 8) (a b : Nat) :
    IsCompare cc ((fmtOf t 0).decode a) ((fmtOf t 0).decode b) (subCond t cc a b).1 (subCond t cc a b).2 := by
  rw [subCond, if_pos (isFp_of_mem ht)]
  exact fpCompare_isCompare hcc _ _

/-- VCMP of other values compares them as integers, and raises nothing (R153). -/
theorem subCond_int {t : Ty} (ht : t.isFp = false) (cc : BitVec 4) (a b : Nat) :
    subCond t cc a b = (condInt cc (decide (readInt t a < readInt t b)) (decide (readInt t a = readInt t b)), 0) := by
  simp [subCond, ht]

/-- The condition codes 0 to 5 of integers (R77). -/
theorem condInt_order (cc : BitVec 4) (x y : Int) :
    let v := condInt cc (decide (x < y)) (decide (x = y))
    (cc = 0 → v = decide (x = y)) ∧ (cc = 1 → v = decide (x ≠ y)) ∧ (cc = 2 → v = decide (x < y)) ∧
    (cc = 3 → v = decide (x ≤ y)) ∧ (cc = 4 → v = decide (x > y)) ∧ (cc = 5 → v = decide (x ≥ y)) := by
  refine ⟨?_, ?_, ?_, ?_, ?_, ?_⟩ <;> rintro rfl <;> simp only [condInt, ← Bool.decide_or, ← decide_not] <;>
    exact decide_eq_decide.2 (by omega)

/-- VSEL selects bit by bit (R154). -/
theorem select_eq_ofFnLE (a b c : VWord) :
    (c &&& a) ||| (~~~c &&& b) = BitVec.ofFnLE fun i : Fin 512 => if c.getLsbD i then a.getLsbD i else b.getLsbD i := by
  apply BitVec.eq_of_getLsbD_eq
  intro i hi
  rw [BitVec.getLsbD_ofFnLE, dif_pos hi]
  simp only [BitVec.getLsbD_or, BitVec.getLsbD_and, BitVec.getLsbD_not, hi, decide_true, Bool.true_and]
  cases c.getLsbD i <;> simp

/-- VSEL reads its three vectors (R154). -/
theorem vsel_givesV {s : State} {h : Hdr} {o : OpsA} {a b c : LaneId → VWord} (hc : Clear s h) (ha : ReadsV s h o.ty o.sa a)
    (hb : ReadsV s h o.ty o.sb b) (hsel : ReadsV s h o.ty o.sc c) :
    GivesV (.vsel h o) s h o.dst fun k => (c k &&& a k) ||| (~~~c k &&& b k) :=
  perLane_givesV hc rfl fun k hk => by
    rw [vecRead_ok (ha k hk).1 (ha k hk).2, vecRead_ok (hb k hk).1 (hb k hk).2, vecRead_ok (hsel k hk).1 (hsel k hk).2]
    rfl

end Sys2Proof.Machine
end

section
/-! The results and the frame of the vector logic words. -/

open Sys2Proof Sys2Proof.Machine

/-- Settles O17: each word is the shared element operation, whose results are restated bit by bit or as numbers. -/
theorem vectorLogic : Obligations.VectorLogic := by
  intro s h o a b hc ha hb
  refine ⟨⟨_, fun k j i => ?_, vecBin_gives (op := fun _ x y => .plain (x &&& y)) rfl hc ha hb⟩,
    ⟨_, fun k j i => ?_, vecBin_gives (op := fun _ x y => .plain (x ||| y)) rfl hc ha hb⟩,
    ⟨_, fun k j i => ?_, vecBin_gives (op := fun _ x y => .plain (x ^^^ y)) rfl hc ha hb⟩,
    ?_, ?_, ?_,
    ⟨fun k j => (subCond o.ty o.cc (subWord (a k) o.ty.width j) (subWord (b k) o.ty.width j)).1,
      fun k j => (subCond o.ty o.cc (subWord (a k) o.ty.width j) (subWord (b k) o.ty.width j)).2,
      GivesSubs.congr (vecBin_gives rfl hc ha hb) fun k j => subCmp_eq_subCond .., fun k j => ⟨?_, ?_⟩⟩, ?_⟩
  · exact (Nat.testBit_and ..).trans (subWord_bitwise (· && ·) rfl (a k) (b k) ..)
  · exact (Nat.testBit_or ..).trans (subWord_bitwise (· || ·) rfl (a k) (b k) ..)
  · exact (Nat.testBit_xor ..).trans (subWord_bitwise (· ^^ ·) rfl (a k) (b k) ..)
  · exact GivesSubs.congr (vecBin_gives rfl hc ha hb) fun k j => congrArg SubRes.plain (subShift_left ..)
  · exact GivesSubs.congr (vecBin_gives rfl hc ha hb) fun k j => congrArg SubRes.plain (subShift_right (subWord_lt ..) _)
  · exact GivesSubs.congr (vecBin_gives rfl hc ha hb) fun k j => congrArg SubRes.plain (subShift_arithmetic ..)
  · exact fun hty hcc => subCond_isCompare hty hcc _ _
  · intro hty
    simp only [subCond_int hty, true_and]
    exact condInt_order ..
  · exact fun c hsel => (funext fun k => select_eq_ofFnLE (a k) (b k) (c k)) ▸ vsel_givesV hc ha hb hsel

end

section
/-! What a cross-lane word leaves behind, and what its lanes take from each other: R158. -/

namespace Sys2Proof.Machine

/-- A cross-lane word ends as a word does whose lanes find the state at issue, with the counter of free values moved on. -/
theorem crossWord_next {i : Instr} {s : State} {h : Hdr} {srcs : List Src} {f : LaneId → Lane → LaneOut}
    (hi : exec i s = .next (crossWord s h srcs f)) :
    exec i s = .next (finish { s.crossed with fl := { s.fl with rflat := logUnread s h srcs fun _ _ _ => true } } h.e false false
      (laneOuts s h f)) :=
  hi

/-- A cross-lane word that completes in every lane of Active. -/
theorem crossed_completes {i : Instr} {s : State} {h : Hdr} {f : LaneId → Lane → LaneOut} {r : Word} {e : LaneId → Lane}
    {x : LaneId → Option LatchVal} (hc : Clear s h) (hr : (∀ k, (s.fl.lane k).faulty = []) → r = s.fl.rflat)
    (hi : exec i s = .next (finish { s.crossed with fl := { s.fl with rflat := r } } h.e false false (laneOuts s h f)))
    (hf : ∀ k, Acts s h k → f k (s.fl.lane k) = .done (e k) (x k) none)
    (hlat : ∀ k, Acts s h k → (e k).lat = (s.fl.lane k).lat) (hpc : ∀ k, Acts s h k → (e k).pc = (s.fl.lane k).pc) :
    CompletesAs i s s.crossed h false e x :=
  ⟨_, hi, finish_afterWord (s := s.crossed) (n := fun _ => none) hc.1
    (fun k hk => by rw [laneOuts_get, laneOut_acts hc hk, hf k hk]) (fun k hk => by rw [laneOuts_get, laneOut_idle (s := s) hk])
    hlat hpc hr⟩

/-- As `crossed_completes`, for the shared cross-lane word. -/
theorem crossWord_completes {i : Instr} {s : State} {h : Hdr} {srcs : List Src} {f : LaneId → Lane → LaneOut} {e : LaneId → Lane}
    {x : LaneId → Option LatchVal} (hc : Clear s h) (hi : exec i s = .next (crossWord s h srcs f))
    (hf : ∀ k, Acts s h k → f k (s.fl.lane k) = .done (e k) (x k) none)
    (hlat : ∀ k, Acts s h k → (e k).lat = (s.fl.lane k).lat) (hpc : ∀ k, Acts s h k → (e k).pc = (s.fl.lane k).pc) :
    CompletesAs i s s.crossed h false e x :=
  crossed_completes hc (fun hq => logUnreadBy_clean hq) (crossWord_next hi) hf hlat hpc

/-- A cross-lane word whose lanes return general results gives them (R158). -/
theorem crossWord_crossG {i : Instr} {s : State} {h : Hdr} {srcs : List Src} {f : LaneId → Lane → LaneOut} {d : Dst}
    {v : LaneId → Word} (hc : Clear s h) (hi : exec i s = .next (crossWord s h srcs f))
    (hf : ∀ k, Acts s h k → f k (s.fl.lane k) = retG (s.fl.lane k) d h.w (v k)) : CrossG i s h d v :=
  crossWord_completes hc hi hf (fun k _ => by split <;> simp) fun k _ => by split <;> simp

/-- A cross-lane word whose lanes return vectors gives them (R158). -/
theorem crossWord_crossV {i : Instr} {s : State} {h : Hdr} {srcs : List Src} {f : LaneId → Lane → LaneOut} {d : Dst}
    {v : LaneId → VWord} (hc : Clear s h) (hi : exec i s = .next (crossWord s h srcs f))
    (hf : ∀ k, Acts s h k → f k (s.fl.lane k) = retV (s.fl.lane k) d h.w (v k)) : CrossV i s h d v :=
  crossWord_completes hc hi hf (fun k _ => by split <;> simp) fun k _ => by split <;> simp

/-! What a lane supplies, and what another takes of it. -/

theorem supply_acts {α : Type} {s : State} {h : Hdr} {rd : Lane → Rd α} {free : VWord → α} {k : LaneId} {x : α}
    (hk : Acts s h k) (hx : rd (s.fl.lane k) = .ok x) : supply s h rd free k = some x := by
  rw [supply, if_pos (show isActive s h k = true from hk), hx]

theorem supply_idle {α : Type} {s : State} {h : Hdr} {rd : Lane → Rd α} {free : VWord → α} {k : LaneId}
    (hk : ¬Acts s h k) : supply s h rd free k = none :=
  if_neg hk

theorem fromLane_val {α : Type} (get : LaneId → Option α) (j : LaneId) (own : α) :
    fromLane get j.val own = (get j).getD own :=
  dif_pos j.isLt

theorem fromLane_of_none {α : Type} {get : LaneId → Option α} {n : Nat} (own : α) (hn : ∀ j : LaneId, j.val = n → get j = none) :
    fromLane get n own = own := by
  unfold fromLane
  split
  · rw [hn _ rfl]; rfl
  · rfl

/-- A lane takes the value of the lane that it names, or its own where that lane is not in Active (R158). -/
theorem takenFrom_fromLane {α : Type} {s : State} {h : Hdr} {rd : Lane → Rd α} {a : LaneId → α}
    (ha : ∀ j, Acts s h j → rd (s.fl.lane j) = .ok (a j)) (free : VWord → α) (k : LaneId) {n n' : Nat}
    (hn : n = n') : TakenFrom s h a k n' (fromLane (supply s h rd free) n (a k)) := by
  subst hn
  refine ⟨?_, fun hidle => fromLane_of_none _ fun j hj => supply_idle (hidle j hj)⟩
  rintro j rfl hj
  rw [fromLane_val, supply_acts hj (ha j hj)]; rfl

/-- What lane n supplies, if it is in Active. -/
def suppliedBy {α : Type} (s : State) (h : Hdr) (rd : Lane → Rd α) (free : VWord → α) (n : Nat) : Option α :=
  fromLane (fun j => (supply s h rd free j).map some) n none

theorem suppliedBy_acts {α : Type} {s : State} {h : Hdr} {rd : Lane → Rd α} {free : VWord → α} {a : LaneId → α}
    (ha : ∀ j, Acts s h j → rd (s.fl.lane j) = .ok (a j)) {j : LaneId} {n : Nat} (hj : j.val = n) (hact : Acts s h j) :
    suppliedBy s h rd free n = some (a j) := by
  rw [suppliedBy, ← hj, fromLane_val, supply_acts hact (ha j hact)]; rfl

theorem suppliedBy_idle {α : Type} {s : State} {h : Hdr} {rd : Lane → Rd α} {free : VWord → α} {n : Nat}
    (hidle : ∀ j : LaneId, j.val = n → ¬Acts s h j) : suppliedBy s h rd free n = none :=
  fromLane_of_none _ fun j hj => by rw [supply_idle (hidle j hj)]; rfl

/-! Reading whole vectors, and general registers by sub-element. -/

theorem checkSub_ok {l : Lane} {src : Src} (hg : l.granules src = []) (js : List Nat) (reads : Nat → Nat → Bool) :
    checkSub l src js reads = .ok () := by
  have hnone : (List.range 8).find? (fun _ => false) = none := List.find?_eq_none.2 (by simp)
  simp [checkSub, hg, hnone]

theorem ReadsV.vecRead_eq {s : State} {h : Hdr} {t : Ty} {src : Src} {a : LaneId → VWord} (ha : ReadsV s h t src a) (k : LaneId)
    (hk : Acts s h k) : vecRead (s.fl.lane k) t src = .ok (a k) :=
  vecRead_ok (ha k hk).1 (ha k hk).2

theorem ReadsV.vecWhole_eq {s : State} {h : Hdr} {src : Src} {a : LaneId → VWord} (ha : ReadsV s h .uint64 src a) (k : LaneId)
    (hk : Acts s h k) : vecWhole (s.fl.lane k) src = .ok (a k) := by
  simp only [vecWhole, (ha k hk).1, checkSub_ok (ha k hk).2]; rfl

theorem ReadsV.vecElem_eq {s : State} {h : Hdr} {o : OpsA} {a : LaneId → VWord} (ha : ReadsV s h o.ty o.sa a) (k : LaneId)
    (hk : Acts s h k) : vecElem (s.fl.lane k) o = .ok (a k) := by
  simp only [vecElem, (ha k hk).1, checkSub_ok (ha k hk).2]; rfl

theorem srcGSub_ok {l : Lane} {src : Src} {x : Word} (h : srcG l src = .ok x) (js : List Nat) : srcGSub l src js = .ok x := by
  rw [srcGSub, h]

end Sys2Proof.Machine
end

section
/-! VSHFL and GSHFL (R160), BALLOT (R161) and VBCAST (R167). -/

namespace Sys2Proof.Machine

/-- The source lane of each offset mode (R160). -/
theorem sourceLane_eq (mode : BitVec 3) (k : LaneId) (b : Word) :
    sourceLane mode k b =
      if mode = 0 then b.toNat
      else if mode = 1 then ((k.val - b.toNat : Int) % 32).toNat
      else if mode = 2 then (k.val + b.toNat) % 32
      else if mode = 3 then k.val ^^^ b.toNat
      else (k.val + b.toNat % 256 * 32 / 256) % 32 := by
  have hdown : (k.val + (32 - b.toNat % 32)) % 32 = ((k.val - b.toNat : Int) % 32).toNat := by omega
  unfold sourceLane
  split <;> next hm => simp_all [← BitVec.toNat_inj]

theorem vshfl_crossV {s : State} {h : Hdr} {o : OpsA} {a : LaneId → VWord} {b : LaneId → Word} (hc : Clear s h)
    (ha : ReadsV s h .uint64 o.sa a) (hb : ReadsG s h o.sb b) :
    CrossV (.vshfl h o) s h o.dst fun k =>
      fromLane (supply s h (fun l => vecWhole l o.sa) fun x => x) (sourceLane o.is k (b k)) (a k) :=
  crossWord_crossV hc rfl fun k hk => by simp only [ha.vecWhole_eq k hk, hb k hk]; rfl

theorem gshfl_crossG {s : State} {h : Hdr} {o : OpsA} {a b : LaneId → Word} (hc : Clear s h) (ha : ReadsG s h o.sa a)
    (hb : ReadsG s h o.sb b) :
    CrossG (.gshfl h o) s h o.dst fun k =>
      fromLane (supply s h (fun l => srcG l o.sa) fun x => x.setWidth 64) (sourceLane o.is k (b k)) (a k) :=
  crossWord_crossG hc rfl fun k hk => by simp only [ha k hk, hb k hk]; rfl

/-! BALLOT. -/

/-- The bits of a set of lanes as a word (R161). -/
theorem laneBits_eq (f : LaneId → Bool) :
    laneBits f = BitVec.ofFnLE fun i : Fin 64 => if l : i.val < 32 then f ⟨i, l⟩ else false := by
  refine eq_ofFnLE fun i => ?_
  rw [laneBits, BitVec.getLsbD_setWidth, decide_eq_true i.isLt, Bool.true_and]
  split
  · next l => exact laneSetOf_has f ⟨i, l⟩
  · next l => exact BitVec.getLsbD_of_ge _ _ (not_lt.1 l)

/-- The bit that a lane of Active supplies, and zero for every other lane. -/
theorem supply_getD_bit {α : Type} {s : State} {h : Hdr} {rd : Lane → Rd α} {a : LaneId → α}
    (ha : ∀ j, Acts s h j → rd (s.fl.lane j) = .ok (a j)) (free : VWord → α) {bit : α → Bool} {z : α} (hz : bit z = false)
    (j : LaneId) : bit ((supply s h rd free j).getD z) = (isActive s h j && bit (a j)) := by
  by_cases hj : Acts s h j
  · rw [supply_acts hj (ha j hj), show isActive s h j = true from hj]; rfl
  · rw [supply_idle hj, Bool.eq_false_iff.2 hj]; exact hz

/-- A general operand that is read makes the general form (R161). -/
theorem ballotPred_of_readsG {s : State} {h : Hdr} {src : Src} {a : LaneId → Word} (ha : ReadsG s h src a) {k : LaneId}
    (hk : Acts s h k) : ballotPred s h src = false := by
  have hread := ha k hk
  cases src with
  | p i => cases hread
  | latch i =>
    simp only [ballotPred]
    split
    · next j hj =>
      have hact : Acts s h j := (Bool.and_eq_true _ _ ▸ List.find?_some hj).1
      have hread := ha j hact
      simp only [srcG, readLatch] at hread
      split
      · next hpred => rw [hpred] at hread; cases hread
      · rfl
    · rfl
  | _ => rfl

/-- A predicate operand that is read makes the predicate form (R161). -/
theorem ballotPred_of_readsP {s : State} {h : Hdr} {src : Src} {p : LaneId → Bool} (hp : ReadsP s h src p) {k : LaneId}
    (hk : Acts s h k) : ballotPred s h src = true := by
  have hvalid : ∀ i j, src = .latch i → Acts s h j → ∃ x, (s.fl.lane j).latch i = some (.pred x) := by
    rintro i j rfl hj
    have hread := hp j hj
    simp only [srcP, readLatch] at hread
    cases hlat : (s.fl.lane j).latch i with
    | none => rw [hlat] at hread; cases hread
    | some x =>
      rw [hlat] at hread
      cases x with
      | pred y => exact ⟨y, rfl⟩
      | _ => cases hread
  have hread := hp k hk
  cases src with
  | p i => rfl
  | latch i =>
    simp only [ballotPred]
    split
    · next j hj =>
      obtain ⟨x, hx⟩ := hvalid i j rfl (Bool.and_eq_true _ _ ▸ List.find?_some hj).1
      rw [hx]
    · next hnone =>
      obtain ⟨x, hx⟩ := hvalid i k rfl hk
      have hcontra := List.find?_eq_none.1 hnone k (mem_allLanes k)
      rw [hx, show isActive s h k = true from hk] at hcontra
      exact absurd rfl hcontra
  | _ => cases hread

theorem ballot_crossG_general {s : State} {h : Hdr} {o : OpsA} {a b : LaneId → Word} (hc : Clear s h) (ha : ReadsG s h o.sa a)
    (hb : ReadsG s h o.sb b) :
    CrossG (.ballot h o) s h o.dst fun k => laneBits fun j => isActive s h j && (a j).getLsbD ((b k).toNat % 64) := by
  have hbits : ∀ k j, ((supply s h (fun l => srcG l o.sa) (fun x => x.setWidth 64) j).getD 0).getLsbD ((b k).toNat % 64) =
      (isActive s h j && (a j).getLsbD ((b k).toNat % 64)) := fun k j =>
    supply_getD_bit (rd := fun l => srcG l o.sa) (bit := (BitVec.getLsbD · ((b k).toNat % 64))) ha _ (BitVec.getLsbD_zero ..) j
  cases hform : ballotPred s h o.sa with
  | true =>
    exact crossWord_crossG hc (if_pos hform) fun k hk => by simp [ballotPred_of_readsG ha hk] at hform
  | false =>
    refine crossWord_crossG hc (if_neg (by simp [hform])) fun k hk => ?_
    simp only [ha k hk, hb k hk, ← hbits]; rfl

theorem ballot_crossG_predicate {s : State} {h : Hdr} {o : OpsA} {p : LaneId → Bool} (hc : Clear s h) (hp : ReadsP s h o.sa p)
    (hsb : o.sb = .g 0) :
    CrossG (.ballot h o) s h o.dst fun _ => laneBits fun j => isActive s h j && p j := by
  have hbits : ∀ j, (supply s h (fun l => srcP l o.sa) (fun x => x.getLsbD 0) j).getD false = (isActive s h j && p j) :=
    supply_getD_bit (rd := fun l => srcP l o.sa) (bit := id) hp _ rfl
  cases hform : ballotPred s h o.sa with
  | true =>
    refine crossWord_crossG hc (if_pos hform) fun k hk => ?_
    simp only [hp k hk, hsb, ← hbits]; rfl
  | false =>
    exact crossWord_crossG hc (if_neg (by simp [hform])) fun k hk => by simp [ballotPred_of_readsP hp hk] at hform

/-! VBCAST. -/

/-- The lowest lane of Active. -/
theorem lowest_active {s : State} {h : Hdr} {k : LaneId} (hk : Acts s h k) (hlow : ∀ j, Acts s h j → k ≤ j) :
    lowest (active s h) = some k := by
  simp only [lowest, active, laneSetOf_has, allLanes]
  refine List.find?_eq_some_iff_getElem.2 ⟨hk, k.val, by simp, by simp, fun j hj => ?_⟩
  rw [Bool.not_eq_true', Bool.eq_false_iff]
  exact fun hact => absurd (hlow _ hact) (by simpa [Fin.lt_def] using hj)

/-- The lane that VBCAST names is read in the lowest lane of Active (R167). -/
theorem bcastLane_eq {s : State} {h : Hdr} {o : OpsA} {k : LaneId} {b : Word} (hk : Acts s h k) (hlow : ∀ j, Acts s h j → k ≤ j)
    (hb : srcG (s.fl.lane k) o.sb = .ok b) : bcastLane s h o = b.toNat := by
  rw [bcastLane, lowest_active hk hlow]
  simp only [supply_acts (rd := fun l => srcG l o.sb) hk hb, Option.getD_some]

theorem vbcast_crossV {s : State} {h : Hdr} {o : OpsA} {a : LaneId → VWord} {k : LaneId} {b : Word} (hc : Clear s h)
    (ha : ReadsV s h o.ty o.sa a) (hk : Acts s h k) (hlow : ∀ j, Acts s h j → k ≤ j) (hb : srcG (s.fl.lane k) o.sb = .ok b) :
    CrossV (.vbcast h o) s h o.dst fun j => fromLane (supply s h (fun l => vecElem l o) fun x => x) b.toNat (a j) := by
  refine crossed_completes hc (fun hq => logUnreadBy_clean hq) rfl (fun j hj => ?_) (fun j _ => by split <;> simp)
    fun j _ => by split <;> simp
  simp only [ha.vecElem_eq j hj, lowest_active hk hlow, bcastLane_eq hk hlow hb, Option.some.injEq]
  split
  · next hj => rw [← hj, hb]; rfl
  · rfl

end Sys2Proof.Machine
end

section
/-! VBFLY (R165). -/

namespace Sys2Proof.Machine

/-- A sub-element of a vector given by its sub-elements (R144). -/
theorem subWord_vecOf {w n j : Nat} (hw : 0 < w) (hn : w * n = 512) (hj : j < n) (f : Nat → Nat) :
    subWord (vecOf w n f) w j = f j % 2 ^ w := by
  refine Nat.eq_of_testBit_eq fun i => ?_
  rw [subWord, Nat.testBit_mod_two_pow, Nat.testBit_mod_two_pow, Nat.testBit_div_two_pow]
  by_cases hi : i < w
  · have hplace : i + w * j < 512 := by
      calc i + w * j < w * (j + 1) := by rw [Nat.mul_succ]; omega
        _ ≤ 512 := hn ▸ Nat.mul_le_mul_left w hj
    have hdiv : (i + w * j) / w = j := by rw [Nat.add_mul_div_left _ _ hw, Nat.div_eq_of_lt hi, Nat.zero_add]
    have hmod : (i + w * j) % w = i := by rw [Nat.add_mul_mod_self_left, Nat.mod_eq_of_lt hi]
    have hbit := vecOf_testBit w n hw f (i + w * j) hplace
    rw [hdiv, hmod, decide_eq_true hj, Bool.true_and] at hbit
    exact congrArg _ hbit
  · simp [hi]

/-- A mask of a field, bit by bit, and what it leaves out. -/
theorem fieldMask_testBit (m : Nat) {w i : Nat} (hi : i < w) :
    (m % 2 ^ w).testBit i = m.testBit i ∧ (2 ^ w - 1 - m % 2 ^ w).testBit i = !m.testBit i := by
  have hlow : (m % 2 ^ w).testBit i = m.testBit i := by simp [Nat.testBit_mod_two_pow, hi]
  refine ⟨hlow, ?_⟩
  rw [Nat.sub_sub, Nat.add_comm 1, Nat.testBit_two_pow_sub_succ (Nat.mod_lt _ (by positivity)), hlow]
  simp [hi]

/-- A field of VBFLY is what R165 says of it bit by bit. -/
theorem flyField_isFly (w : Nat) (low : Bool) (a : Nat) {p : Nat} (hp : p < 2 ^ w) (m sh : Nat) :
    IsFly w low a p m sh (flyField w low a p m sh) := by
  have hpos : 0 < 2 ^ w := by positivity
  have hmask : m % 2 ^ w < 2 ^ w := Nat.mod_lt _ hpos
  have hnmask : 2 ^ w - 1 - m % 2 ^ w < 2 ^ w := by omega
  have hup : ∀ i, i < w → (if w ≤ sh then 0 else p * 2 ^ sh % 2 ^ w).testBit i = (decide (sh ≤ i) && p.testBit (i - sh)) := by
    intro i hi
    split
    · simp [show ¬sh ≤ i by omega]
    · simp [Nat.testBit_mod_two_pow, Nat.testBit_mul_two_pow, hi]
  have hdn : ∀ i, (if w ≤ sh then 0 else p / 2 ^ sh).testBit i = p.testBit (i + sh) := by
    intro i
    split
    · rw [Nat.zero_testBit, Nat.testBit_lt_two_pow (hp.trans_le (Nat.pow_le_pow_right two_pos (by omega)))]
    · rw [Nat.testBit_div_two_pow]
  unfold flyField
  cases low
  · refine ⟨Nat.or_lt_two_pow (Nat.and_lt_two_pow _ hnmask) (Nat.and_lt_two_pow _ hmask), fun i hi => ?_⟩
    simp only [Bool.false_eq_true, if_false, Nat.testBit_or, Nat.testBit_and, fieldMask_testBit m hi, hdn]
    cases m.testBit i <;> simp
  · refine ⟨Nat.or_lt_two_pow (Nat.and_lt_two_pow _ hmask) (Nat.and_lt_two_pow _ hnmask), fun i hi => ?_⟩
    simp only [if_true, Nat.testBit_or, Nat.testBit_and, fieldMask_testBit m hi, hup i hi]
    cases m.testBit i <;> simp

/-- The lower lane of a pair is the one whose number has the bit clear (R165). -/
theorem isLower_eq (k i : Nat) : (k &&& 2 ^ i == 0) = !k.testBit i := by
  rw [Nat.and_two_pow]
  cases k.testBit i <;> simp

/-- What a lane of VBFLY gives in a general register (R165). -/
def flyWord (s : State) (h : Hdr) (o : OpsA) (a m sh : LaneId → Word) (k : LaneId) : Word :=
  match suppliedBy s h (fun l => srcG l o.sa) (fun x => x.setWidth 64) (k.val ^^^ 2 ^ o.is.toNat) with
  | none => a k
  | some p => BitVec.ofNat 64 (flyField 64 (k.val &&& 2 ^ o.is.toNat == 0) (a k).toNat p.toNat (m k).toNat (sh k).toNat)

theorem vbfly_crossG {s : State} {h : Hdr} {o : OpsA} {a m sh : LaneId → Word} {g : BitVec 6} (hc : Clear s h) (hd : o.dst = .g g)
    (ha : ReadsG s h o.sa a) (hm : ReadsG s h o.sb m) (hsh : ReadsG s h o.sc sh) :
    CrossG (.vbfly h o) s h o.dst (flyWord s h o a m sh) := by
  have hi : exec (.vbfly h o) s = .next (flyGen s h o) := by
    show execVbfly h o s = _
    rw [execVbfly, hd]
  refine crossWord_crossG hc hi fun k hk => ?_
  simp only [ha k hk, hm k hk, hsh k hk]
  unfold flyWord suppliedBy
  cases fromLane _ (k.val ^^^ 2 ^ o.is.toNat) none <;> rfl

/-- What a lane of VBFLY gives in a vector register (R165). -/
def flyVector (s : State) (h : Hdr) (o : OpsA) (a : LaneId → VWord) (m sh : LaneId → Word) (k : LaneId) : VWord :=
  match suppliedBy s h (fun l => vecRead l o.ty o.sa) (fun x => x) (k.val ^^^ 2 ^ o.is.toNat) with
  | none => a k
  | some p => vecOf o.ty.width o.ty.count fun j =>
      flyField o.ty.width (k.val &&& 2 ^ o.is.toNat == 0) (subWord (a k) o.ty.width j) (subWord p o.ty.width j) (m k).toNat
        (sh k).toNat

theorem vbfly_crossV {s : State} {h : Hdr} {o : OpsA} {a : LaneId → VWord} {m sh : LaneId → Word} {g : BitVec 5} (hc : Clear s h)
    (hd : o.dst = .v g) (ha : ReadsV s h o.ty o.sa a) (hm : ReadsG s h o.sb m) (hsh : ReadsG s h o.sc sh) :
    CrossV (.vbfly h o) s h o.dst (flyVector s h o a m sh) := by
  have hi : exec (.vbfly h o) s = .next (flyVec s h o) := by
    show execVbfly h o s = _
    rw [execVbfly, hd]
  refine crossWord_crossV hc hi fun k hk => ?_
  simp only [ha.vecRead_eq k hk, srcGSub_ok (hm k hk), srcGSub_ok (hsh k hk)]
  unfold flyVector suppliedBy
  cases fromLane _ (k.val ^^^ 2 ^ o.is.toNat) none <;> rfl

/-- The general form exchanges with the partner that acts (R165). -/
theorem flyWord_isFly {s : State} {h : Hdr} {o : OpsA} {a : LaneId → Word} (ha : ReadsG s h o.sa a) (m sh : LaneId → Word)
    {j k : LaneId} (hj : j.val = k.val ^^^ 2 ^ o.is.toNat) (hact : Acts s h j) :
    IsFly 64 (!k.val.testBit o.is.toNat) (a k).toNat (a j).toNat (m k).toNat (sh k).toNat (flyWord s h o a m sh k).toNat := by
  have hfly := flyField_isFly 64 (!k.val.testBit o.is.toNat) (a k).toNat (a j).isLt (m k).toNat (sh k).toNat
  rw [flyWord, suppliedBy_acts (rd := fun l => srcG l o.sa) ha hj hact]
  simp only [isLower_eq, BitVec.toNat_ofNat, Nat.mod_eq_of_lt hfly.1]
  exact hfly

/-- The vector form exchanges with the partner that acts, sub-element by sub-element (R165). -/
theorem flyVector_isFly {s : State} {h : Hdr} {o : OpsA} {a : LaneId → VWord} (ha : ReadsV s h o.ty o.sa a) (m sh : LaneId → Word)
    {j k : LaneId} (hj : j.val = k.val ^^^ 2 ^ o.is.toNat) (hact : Acts s h j) {i : Nat} (hi : i < o.ty.count) :
    IsFly o.ty.width (!k.val.testBit o.is.toNat) (subWord (a k) o.ty.width i) (subWord (a j) o.ty.width i) (m k).toNat
      (sh k).toNat (subWord (flyVector s h o a m sh k) o.ty.width i) := by
  have hfly := flyField_isFly o.ty.width (!k.val.testBit o.is.toNat) (subWord (a k) o.ty.width i) (subWord_lt (a j) o.ty.width i)
    (m k).toNat (sh k).toNat
  rw [flyVector, suppliedBy_acts (rd := fun l => vecRead l o.ty o.sa) ha.vecRead_eq hj hact]
  simp only [isLower_eq, subWord_vecOf (tyShape o.ty).1 (tyShape o.ty).2 hi, Nat.mod_eq_of_lt hfly.1]
  exact hfly

end Sys2Proof.Machine
end

section
/-! The results and the frame of the words that move values across lanes. -/

open Sys2Proof Sys2Proof.Machine

/-- Settles O20: each word is the shared cross-lane word, whose lanes take what the lanes of Active supply. -/
theorem crossLaneMoves : Obligations.CrossLaneMoves := by
  intro s h o hc
  refine ⟨fun a b hb _ ha => ⟨_, vshfl_crossV hc ha hb, fun k => ?_⟩,
    fun a b hb ha => ⟨fun _ => ⟨_, gshfl_crossG hc ha hb, fun k => ?_⟩, ?_⟩, fun p hp hsb => ?_,
    fun m sh hm hsh _ => ⟨fun a g hd ha => ⟨_, vbfly_crossG hc hd ha hm hsh, fun k => ⟨?_, fun hidle => ?_⟩⟩,
      fun a g hd ha => ⟨_, vbfly_crossV hc hd ha hm hsh, fun k => ⟨?_, fun hidle => ?_⟩⟩⟩,
    fun a k b ha hk hlow hb => ⟨_, vbcast_crossV hc ha hk hlow hb, fun j => ?_⟩⟩
  · exact takenFrom_fromLane (rd := fun l => vecWhole l o.sa) ha.vecWhole_eq _ k (sourceLane_eq ..)
  · exact takenFrom_fromLane (rd := fun l => srcG l o.sa) ha _ k (sourceLane_eq ..)
  · exact (funext fun k => laneBits_eq fun j => isActive s h j && (a j).getLsbD ((b k).toNat % 64)) ▸
      ballot_crossG_general hc ha hb
  · exact (funext fun _ => laneBits_eq fun j => isActive s h j && p j) ▸ ballot_crossG_predicate hc hp hsb
  · exact fun j hj hact => flyWord_isFly ha m sh hj hact
  · rw [flyWord, suppliedBy_idle hidle]
  · exact fun j hj hact i hi => flyVector_isFly ha m sh hj hact hi
  · rw [flyVector, suppliedBy_idle hidle]
  · exact takenFrom_fromLane (rd := fun l => vecElem l o) ha.vecElem_eq _ j rfl

end

section
/-! The operators of a reduction and its tree: R162. -/

namespace Sys2Proof.Machine

theorem intMin_le_intMax (t : Ty) : intMin t ≤ intMax t := by cases t <;> decide

/-- FitW is the clamp to the range of the type (R150). -/
theorem fitW_eq_fitTo (t : Ty) (sat : Bool) (x : Int) : fitW t sat x = fitTo t sat x := by
  have hfit : fitInt t.width (Ty.signedInt t) sat x =
      if sat && decide (intMax t < x) then (BitVec.ofInt t.width (intMax t), true)
      else if sat && decide (x < intMin t) then (BitVec.ofInt t.width (intMin t), true)
      else (BitVec.ofInt t.width x, false) := rfl
  have hrange := intMin_le_intMax t
  unfold fitW fitTo
  rw [hfit]
  cases sat
  · simp
  · by_cases hhi : intMax t < x
    · have hclamp : max (intMin t) (min (intMax t) x) = intMax t := by omega
      simp [hhi, hclamp, hhi.ne]
    · by_cases hlo : x < intMin t
      · have hclamp : max (intMin t) (min (intMax t) x) = intMin t := by omega
        simp [hhi, hlo, hclamp, hlo.ne']
      · have hclamp : max (intMin t) (min (intMax t) x) = x := by omega
        simp [hhi, hlo, hclamp]

/-- A sub-element read as an integer and wrapped again is as it was (R94). -/
theorem ofInt_readInt (t : Ty) {x : Nat} (hx : x < 2 ^ t.width) : (BitVec.ofInt t.width (readInt t x)).toNat = x := by
  unfold readInt
  split
  · rw [BitVec.ofInt_toInt, BitVec.toNat_ofNat, Nat.mod_eq_of_lt hx]
  · rw [BitVec.ofInt_natCast, BitVec.toNat_ofNat, Nat.mod_mod, Nat.mod_eq_of_lt hx]

/-- An integer of the type needs no clamp. -/
theorem fitTo_readInt (t : Ty) {x : Nat} (hx : x < 2 ^ t.width) : fitTo t false (readInt t x) = .plain x := by
  simp [fitTo, ofInt_readInt t hx, SubRes.plain]

/-- The lesser and the greater of two integer sub-elements (R150). -/
theorem subMinMax_int {t : Ty} (ht : t.isFp = false) {x y : Nat} (hx : x < 2 ^ t.width) (hy : y < 2 ^ t.width) :
    subMinMax t false x y = fitTo t false (min (readInt t x) (readInt t y)) ∧
    subMinMax t true x y = fitTo t false (max (readInt t x) (readInt t y)) := by
  have hmin : min (readInt t x) (readInt t y) = readInt t (if readInt t y < readInt t x then y else x) := by
    rw [min_comm, min_def_lt, apply_ite (readInt t)]
  have hmax : max (readInt t x) (readInt t y) = readInt t (if readInt t x < readInt t y then y else x) := by
    rw [max_def_lt, apply_ite (readInt t)]
  rw [hmin, hmax, fitTo_readInt t (by split <;> assumption), fitTo_readInt t (by split <;> assumption)]
  simp only [subMinMax, ht, Bool.false_eq_true, if_false, if_true, apply_ite SubRes.plain, and_self]

theorem fmtOf_width {t : Ty} (ht : t ∈ [Ty.fp64, .fp32, .fp16, .bf16]) : (fmtOf t 0).w = t.width := by
  simp only [List.mem_cons, List.not_mem_nil, or_false] at ht
  rcases ht with rfl | rfl | rfl | rfl <;> rfl

/-- The lesser and the greater of two floating-point sub-elements (R114, R150). -/
theorem subMinMax_fp {t : Ty} (ht : t ∈ [Ty.fp64, .fp32, .fp16, .bf16]) {x y : Nat} (hx : x < 2 ^ t.width) (hy : y < 2 ^ t.width) :
    let f := fmtOf t 0
    let fl := if (f.decode x).isSnan = true ∨ (f.decode y).isSnan = true then flIV else 0
    ∃ lo hi, IsMinMax f x y lo hi ∧ subMinMax t false x y = ⟨lo, fl, false⟩ ∧ subMinMax t true x y = ⟨hi, fl, false⟩ := by
  have hmm := fpMinMax_isMinMax (fmtOf t 0) x y
  rw [fmtOf_width ht, Nat.mod_eq_of_lt hx, Nat.mod_eq_of_lt hy] at hmm
  refine ⟨_, _, hmm, ?_, ?_⟩ <;>
    rw [subMinMax, if_pos (isFp_of_mem ht), subFp, ← fpMinMax_flags]

/-- The sum of two floating-point sub-elements (R113, R150), rounded without dither. -/
theorem subArith_fp {t : Ty} (ht : t ∈ [Ty.fp64, .fp32, .fp16, .bf16]) (sat : Bool) (fop : Num → Num → Val)
    (iop : Int → Int → Int) (r : Rnd × Nat) (x y : Nat) :
    subArith t sat fop iop r x y = subFp ((fmtOf t 0).round (fop ((fmtOf t 0).decode x) ((fmtOf t 0).decode y)) r.1 r.2 false) := by
  rw [subArith, if_pos (isFp_of_mem ht), fpBin]

/-- The sum of two integer sub-elements (R150). -/
theorem subArith_int {t : Ty} (ht : t.isFp = false) (sat : Bool) (fop : Num → Num → Val) (iop : Int → Int → Int) (r : Rnd × Nat)
    (x y : Nat) : subArith t sat fop iop r x y = fitTo t sat (iop (readInt t x) (readInt t y)) := by
  rw [subArith, if_neg (by simp [ht]), fitW_eq_fitTo]

/-! The tree. -/

/-- One level of the tree over 2n values (R162). -/
theorem combinePairs_range (op : Nat → Nat → SubRes) (n : Nat) (f : Nat → Option SubRes) :
    combinePairs op ((List.range (2 * n)).map f) = (List.range n).map fun i => combine op (f (2 * i)) (f (2 * i + 1)) := by
  induction n generalizing f with
  | zero => rfl
  | succ n ih =>
    have htail := ih fun i => f (i + 2)
    rw [List.range_succ_eq_map, List.map_cons, List.map_map, Nat.mul_succ, List.range_succ_eq_map, List.range_succ_eq_map]
    simp only [List.map_cons, List.map_map, combinePairs]
    exact congrArg _ htail

/-- The tree over the values of level m, each at the lane where it begins (R162). -/
theorem treeReduce_levels (op : Nat → Nat → SubRes) (x : Nat → Option SubRes) (n m : Nat) :
    treeReduce op n ((List.range (2 ^ n)).map fun i => treeLevel op x m (i * 2 ^ m)) = treeLevel op x (m + n) 0 := by
  induction n generalizing m with
  | zero => simp [treeReduce]
  | succ n ih =>
    have hpair : ∀ i, combine op (treeLevel op x m (2 * i * 2 ^ m)) (treeLevel op x m ((2 * i + 1) * 2 ^ m)) =
        treeLevel op x (m + 1) (i * 2 ^ (m + 1)) := fun i => by
      rw [treeLevel, show 2 * i * 2 ^ m = i * 2 ^ (m + 1) by ring, show (2 * i + 1) * 2 ^ m = i * 2 ^ (m + 1) + 2 ^ m by ring]
    rw [treeReduce, Nat.pow_succ', combinePairs_range]
    simp only [hpair]
    rw [ih, Nat.add_right_comm]; rfl

/-- TreeReduce of 2^n values is level n of the tree (R162). -/
theorem treeReduce_eq_treeLevel (op : Nat → Nat → SubRes) (x : Nat → Option SubRes) (n : Nat) :
    treeReduce op n ((List.range (2 ^ n)).map x) = treeLevel op x n 0 := by
  simpa [treeLevel] using treeReduce_levels op x n 0

/-- The values of all lanes in order, as those of their numbers. -/
theorem map_allLanes {α : Type} (f : LaneId → α) (g : Nat → α) (hfg : ∀ k : LaneId, f k = g k.val) :
    allLanes.map f = (List.range 32).map g := by
  rw [allLanes, ← List.map_coe_finRange_eq_range, List.map_map]
  exact List.map_congr_left fun k _ => hfg k

end Sys2Proof.Machine
end

section
/-! VRED and VREDS: R162 to R164. -/

namespace Sys2Proof.Machine

theorem roundingOf_eq_rndOf (s : State) (rm : BitVec 3) : roundingOf s.fl rm = rndOf s rm := by
  simp [roundingOf, rndOf, BitVec.extractLsb'_toNat]

/-- A cross-lane word that traps in every lane of Active with one trap, and changes no register there. -/
theorem crossWord_trapsAs {i : Instr} {s : State} {h : Hdr} {srcs : List Src} {f : LaneId → Lane → LaneOut}
    {y : LaneId → Option LatchVal} {u : LTrap} (hc : Clear s h) (hm : MayTrap s) (hex : ∃ k, Acts s h k)
    (hi : exec i s = .next (crossWord s h srcs f))
    (hf : ∀ k, Acts s h k → f k (s.fl.lane k) = .trap (s.fl.lane k) (y k) u) (hn : u.cause ≠ .softwareTrap) :
    TrapsAs i s h (Acts s h) u.cause 0 (fun _ => u.temask) (fun _ => u.tval) (fun k => s.fl.lane k) y (fun k => s.fl.lane k)
      fun _ => none := by
  have hget : ∀ k, Acts s h k → (laneOuts s h f).get k = .trap (s.fl.lane k) (y k) u := fun k hk => by
    rw [laneOuts_get, laneOut_acts hc hk, hf k hk]
  have hidle : ∀ k, ¬Acts s h k → (laneOuts s h f).get k = .idle := fun k hk => by rw [laneOuts_get, laneOut_idle hk]
  have hlead : ∀ t, leadTrap (trapsOf (laneOuts s h f)) = some t → t = u := fun t ht => by
    have hne : trapsOf (laneOuts s h f) ≠ [] := by intro h0; rw [h0] at ht; cases ht
    obtain ⟨j, t', ht', hmem⟩ := leadTrap_mem hne
    cases ht.symm.trans ht'
    obtain ⟨l, x, hj⟩ := trapsOf_mem.1 hmem
    by_cases hact : Acts s h j
    · cases (hget j hact).symm.trans hj; rfl
    · cases (hidle j hact).symm.trans hj
  refine ⟨_, crossWord_next hi, ?_⟩
  exact finish_afterTrap (s := s.crossed) (npc := fun _ => none) (u := fun _ => u) hc.1 hm hex
    (fun k hk => by
      simp only [Acts, isActive, Bool.and_eq_true] at hk
      exact hk.1.1)
    hget (fun _ _ => ⟨rfl, rfl⟩) (fun k ha hk => absurd ha hk) (fun k hk _ => hidle k hk) (fun _ => ⟨rfl, rfl, rfl, rfl⟩)
    (fun _ => ⟨rfl, rfl, rfl, rfl, rfl⟩) fun t ht => by
      rw [hlead t ht]
      exact ⟨rfl, fun hs => absurd hs hn⟩

/-- The operator that a reduction combines with (R162). -/
def reduceOp (s : State) (o : OpsA) : Nat → Nat → SubRes := redOp o.ty o.cc o.sat (rndOf s o.rm)

/-- Sub-element j of lane l of Active, as the tree takes it (R162). -/
def redLeaf (s : State) (h : Hdr) (o : OpsA) (a : LaneId → VWord) (j l : Nat) : Option SubRes :=
  if g : l < 32 then
    if isActive s h ⟨l, g⟩ then some ⟨subWord (a ⟨l, g⟩) o.ty.width j, 0, false⟩ else none
  else none

/-- Sub-element j of the result of a reduction (R162). -/
def redTree (s : State) (h : Hdr) (o : OpsA) (a : LaneId → VWord) (j : Nat) : SubRes :=
  (treeLevel (reduceOp s o) (redLeaf s h o a j) 5 0).getD ⟨0, 0, false⟩

/-- VRED gives the tree over the lanes of Active, sub-element by sub-element (R162). -/
theorem redAll_eq {s : State} {h : Hdr} {o : OpsA} {a : LaneId → VWord} (ha : ReadsV s h o.ty o.sa a) :
    redAll s h o = (List.range o.ty.count).map (redTree s h o a) := by
  refine List.map_congr_left fun j _ => ?_
  have hleaf : ∀ k : LaneId, (supply s h (fun l => vecRead l o.ty o.sa) (fun x => x) k).map
      (fun x => SubRes.plain (subWord x o.ty.width j)) = redLeaf s h o a j k.val := fun k => by
    rw [redLeaf, dif_pos k.isLt]
    by_cases hk : Acts s h k
    · rw [supply_acts (rd := fun l => vecRead l o.ty o.sa) hk (ha.vecRead_eq k hk),
        if_pos (show isActive s h k = true from hk)]
      rfl
    · rw [supply_idle hk, if_neg (show ¬isActive s h k = true from hk)]
      rfl
  simp only [List.map_map, Function.comp_def]
  rw [map_allLanes _ (redLeaf s h o a j) hleaf, roundingOf_eq_rndOf]
  exact congrArg (Option.getD · (SubRes.plain 0)) (treeReduce_eq_treeLevel (reduceOp s o) (redLeaf s h o a j) 5)

/-- A register given by its sub-elements depends on those that it has alone. -/
theorem vecOf_congr {w n : Nat} {f g : Nat → Nat} (hfg : ∀ j, j < n → f j = g j) : vecOf w n f = vecOf w n g := by
  unfold vecOf
  congr 1
  exact List.foldl_ext _ _ _ fun x j hj => by rw [hfg j (List.mem_range.1 hj)]

/-- VRED in a lane, from the sub-elements that it gives (R163). -/
theorem redRet_eq (f : Flight) (l : Lane) (o : OpsA) (w : Bool) (r : Nat → SubRes) :
    let n := o.ty.count
    let fl := allFlags n (fun _ => true) fun j => (r j).fl
    let bad := fl &&& fpEnables f
    let flagged := (l.withF fl).withI (if (List.range n).any fun j => (r j).sat then 4 else 0)
    redRet f l o w ((List.range n).map r) =
      if bad ≠ 0 then .trap l (some (.vec (l.getV o.dst.vReg))) ⟨5, (fpCause bad).1, (fpCause bad).2, bad.setWidth 64,
        BitVec.ofFnLE fun j : Fin 64 => decide (j.val < n) && ((r j.val).fl &&& fpEnables f != 0)⟩
      else retV flagged o.dst w (vecOf o.ty.width n fun j => (r j).bits) := by
  intro n fl bad flagged
  have hget : ∀ j, j < n → ((List.range n).map r).getD j (.plain 0) = r j := fun j hj => by
    simp [List.getD, hj]
  have hbad : ((List.range n).map r).foldl (fun m r => m ||| (r.fl &&& fpEnables f)) 0 = bad :=
    BitVec.eq_of_getLsbD_eq fun b _ => by
      have hfold := foldFlags_getLsbD (List.range n) r (fpEnables f) b
      rw [List.foldl_map] at hfold ⊢
      rw [hfold, BitVec.getLsbD_and, allFlags_getLsbD]
      cases (fpEnables f).getLsbD b <;> simp
  have hflagged : ((List.range n).map r).foldl (fun l r => l.raiseSub r) l = flagged := by
    obtain ⟨g, i, hfold, hg, hi⟩ := raiseSubs (List.range n) r l
    have hfl : g = fl := BitVec.eq_of_getLsbD_eq fun b _ => by rw [hg, allFlags_getLsbD]; simp
    rw [List.foldl_map] at hfold ⊢
    rw [hfold, hi, hfl]
  have hmask : subMask ((List.range n).filter fun j => (((List.range n).map r).getD j (.plain 0)).fl &&& fpEnables f != 0) =
      BitVec.ofFnLE fun j : Fin 64 => decide (j.val < n) && ((r j.val).fl &&& fpEnables f != 0) :=
    eq_ofFnLE fun i => by
      rw [subMask_getLsbD _ _ i.isLt, Bool.eq_iff_iff]
      simp +contextual
  unfold redRet
  simp only [hbad, hflagged, List.length_map, List.length_range]
  rw [hmask, vecOf_congr fun j hj => congrArg SubRes.bits (hget j hj)]

/-- Whether a reduction rounds by the dither rule (R162, R164). -/
theorem redDithers_eq (s : State) (o : OpsA) : redDithers s o = decide (o.ty.isFp = true ∧ rndOf s o.rm = .dith) := by
  rw [redDithers, roundingOf_eq_rndOf, Bool.eq_iff_iff]
  simp

theorem redDithers_eq_false {s : State} {o : OpsA} (hrm : o.ty.isFp = true → rndOf s o.rm ≠ .dith) : redDithers s o = false := by
  rw [redDithers_eq]; exact decide_eq_false fun hd => hrm hd.1 hd.2

/-- VRED in a lane of Active, where it does not dither. -/
theorem vred_lane {s : State} {h : Hdr} {o : OpsA} {a : LaneId → VWord} (ha : ReadsV s h o.ty o.sa a)
    (hrm : o.ty.isFp = true → rndOf s o.rm ≠ .dith) {k : LaneId} (hk : Acts s h k) :
    (ofRd (s.fl.lane k) do
      let _ ← vecRead (s.fl.lane k) o.ty o.sa
      if redDithers s o then .error (lt5 .illegal 0) else pure (redRet s.fl (s.fl.lane k) o h.w (redAll s h o))) =
      redRet s.fl (s.fl.lane k) o h.w ((List.range o.ty.count).map (redTree s h o a)) := by
  rw [ha.vecRead_eq k hk, redDithers_eq_false hrm, redAll_eq ha]
  rfl

/-- VRED without an enabled flag writes the tree's value in every lane of Active (R163). -/
theorem vred_completes {s : State} {h : Hdr} {o : OpsA} {a : LaneId → VWord} (hc : Clear s h) (ha : ReadsV s h o.ty o.sa a)
    (hrm : o.ty.isFp = true → rndOf s o.rm ≠ .dith) :
    let r := redTree s h o a
    let n := o.ty.count
    let fl := allFlags n (fun _ => true) fun j => (r j).fl
    let flagged := fun k => ((s.fl.lane k).withF fl).withI (if (List.range n).any fun j => (r j).sat then 4 else 0)
    let v := vecOf o.ty.width n fun j => (r j).bits
    fl &&& fpEnables s.fl = 0 →
      CompletesAs (.vred h o) s s.crossed h false (fun k => if h.w then (flagged k).setV o.dst.vReg v else flagged k)
        fun _ => some (.vec v) := by
  intro r n fl flagged v hfl
  refine crossWord_completes hc rfl (fun k hk => (vred_lane ha hrm hk).trans ?_) (fun k _ => by cases h.w <;> simp [flagged])
    fun k _ => by cases h.w <;> simp [flagged]
  rw [redRet_eq, if_neg (not_not.2 hfl)]
  rfl

/-- VRED with an enabled flag traps in every lane of Active with the flags of the whole instruction (R163). -/
theorem vred_traps {s : State} {h : Hdr} {o : OpsA} {a : LaneId → VWord} (hc : Clear s h) (ha : ReadsV s h o.ty o.sa a)
    (hrm : o.ty.isFp = true → rndOf s o.rm ≠ .dith) (hm : MayTrap s) (hex : ∃ k, Acts s h k) :
    let r := redTree s h o a
    let n := o.ty.count
    let bad := allFlags n (fun _ => true) (fun j => (r j).fl) &&& fpEnables s.fl
    bad ≠ 0 → ∀ b, bad.getLsbD b = true → (∀ c, c < b → bad.getLsbD c = false) →
      TrapsAs (.vred h o) s h (Acts s h) (flagCause b) 0
        (fun _ => BitVec.ofFnLE fun j : Fin 64 => decide (j.val < n) && ((r j.val).fl &&& fpEnables s.fl != 0))
        (fun _ => bad.setWidth 64) (fun k => s.fl.lane k) (fun k => some (.vec ((s.fl.lane k).getV o.dst.vReg)))
        (fun k => s.fl.lane k) fun _ => none := by
  intro r n bad hbad b hb hlow
  obtain ⟨hlt, hset, hfirst, hcause⟩ := fpCause_first bad hbad
  have hrank : (fpCause bad).1 = b := by
    rcases Nat.lt_trichotomy (fpCause bad).1 b with hl | he | hg
    · exact absurd hset (by simp [hlow _ hl])
    · exact he
    · exact absurd hb (by simp [hfirst _ hg])
  have hsoft : ∀ c : Fin 5, flagCause c.val ≠ .softwareTrap := by decide
  have htrap := crossWord_trapsAs (i := .vred h o) (y := fun k => some (.vec ((s.fl.lane k).getV o.dst.vReg)))
    (u := ⟨5, (fpCause bad).1, (fpCause bad).2, bad.setWidth 64,
      BitVec.ofFnLE fun j : Fin 64 => decide (j.val < n) && ((r j.val).fl &&& fpEnables s.fl != 0)⟩) hc hm hex rfl
    (fun k hk => (vred_lane ha hrm hk).trans (by rw [redRet_eq, if_pos hbad]))
    (by rw [hcause]; exact hsoft ⟨_, hlt⟩)
  rw [hcause, hrank] at htrap
  exact htrap

/-- What sub-element i of lane k becomes by VREDS (R164). -/
def vredsSub (s : State) (h : Hdr) (o : OpsA) (a : LaneId → VWord) (k : LaneId) (i : Nat) : SubRes :=
  match if k.val % (2 * 2 ^ o.is.toNat) = 0 then
      suppliedBy s h (fun l => vecRead l o.ty o.sa) (fun x => x) (k.val + 2 ^ o.is.toNat) else none with
  | some b => reduceOp s o (subWord (a k) o.ty.width i) (subWord b o.ty.width i)
  | none => .plain (subWord (a k) o.ty.width i)

/-- VREDS is an element operation (R164). -/
theorem vreds_gives {s : State} {h : Hdr} {o : OpsA} {a : LaneId → VWord} (hc : Clear s h) (ha : ReadsV s h o.ty o.sa a)
    (hrm : o.ty.isFp = true → rndOf s o.rm ≠ .dith) :
    GivesSubsAs (.vreds h o) s s.crossed h false o.dst o.ty.width o.ty.count (fun _ => true) (vredsSub s h o a) := by
  refine vecRet_gives (m := s.fresh + 1) (whole := true) (js := List.range o.ty.count) (tyShape o.ty).1 (tyShape o.ty).2
    (fun j => by simp) hc (fun hq => logUnreadBy_clean hq) (crossWord_next rfl) fun k hk => ?_
  rw [ha.vecRead_eq k hk, redDithers_eq_false hrm, roundingOf_eq_rndOf]
  rfl

/-- A lane of VREDS combines with the lane one level up, where that acts (R164). -/
theorem vredsSub_acts {s : State} {h : Hdr} {o : OpsA} {a : LaneId → VWord} (ha : ReadsV s h o.ty o.sa a) {j k : LaneId}
    (hj : j.val = k.val + 2 ^ o.is.toNat) (hk : k.val % 2 ^ (o.is.toNat + 1) = 0) (hact : Acts s h j) (i : Nat) :
    vredsSub s h o a k i = reduceOp s o (subWord (a k) o.ty.width i) (subWord (a j) o.ty.width i) := by
  rw [vredsSub, if_pos (by rw [← pow_succ']; exact hk),
    suppliedBy_acts (rd := fun l => vecRead l o.ty o.sa) ha.vecRead_eq hj hact]

/-- A lane of VREDS without such a lane keeps its sub-elements (R164). -/
theorem vredsSub_alone {s : State} {h : Hdr} {o : OpsA} (a : LaneId → VWord) {k : LaneId}
    (hk : k.val % 2 ^ (o.is.toNat + 1) ≠ 0 ∨ ∀ j : LaneId, j.val = k.val + 2 ^ o.is.toNat → ¬Acts s h j) (i : Nat) :
    vredsSub s h o a k i = .plain (subWord (a k) o.ty.width i) := by
  have hnone : (if k.val % (2 * 2 ^ o.is.toNat) = 0 then
      suppliedBy s h (fun l => vecRead l o.ty o.sa) (fun x => x) (k.val + 2 ^ o.is.toNat) else none) = none := by
    rw [← pow_succ']
    rcases hk with hodd | hidle
    · exact if_neg hodd
    · rw [suppliedBy_idle hidle, ite_self]
  rw [vredsSub, hnone]

/-- A reduction by the dither rule traps in every lane of Active (R162, R164). -/
theorem reduction_illegal {s : State} {h : Hdr} {o : OpsA} {a : LaneId → VWord} (hc : Clear s h) (ha : ReadsV s h o.ty o.sa a)
    (hfp : o.ty.isFp = true) (hrm : rndOf s o.rm = .dith) (hm : MayTrap s) (hex : ∃ k, Acts s h k) {i : Instr}
    (hi : i ∈ [Instr.vred h o, .vreds h o]) :
    Traps i s h (Acts s h) .illegal 0 (fun _ => 0) (fun k => s.fl.lane k) fun _ => none := by
  have hdith : redDithers s o = true := by rw [redDithers_eq]; exact decide_eq_true ⟨hfp, hrm⟩
  simp only [List.mem_cons, List.not_mem_nil, or_false] at hi
  rcases hi with rfl | rfl <;>
    exact crossWord_trapsAs (y := fun _ => none) (u := lt5 .illegal 0) hc hm hex rfl
      (fun k hk => by rw [ha.vecRead_eq k hk, hdith]; rfl) (by decide)

/-- The operator that each code of CC selects (R162). -/
theorem reduceOp_of_cc (s : State) (o : OpsA) (x y : Nat) :
    (o.cc = 0 → reduceOp s o x y = subArith o.ty o.sat addNum (· + ·) (rndOf s o.rm, 0) x y) ∧
    (o.cc = 1 → reduceOp s o x y = subMinMax o.ty false x y) ∧ (o.cc = 2 → reduceOp s o x y = subMinMax o.ty true x y) ∧
    (o.cc = 3 → reduceOp s o x y = .plain (x &&& y)) ∧ (o.cc = 4 → reduceOp s o x y = .plain (x ||| y)) ∧
    (o.cc = 5 → reduceOp s o x y = .plain (x ^^^ y)) := by
  refine ⟨?_, ?_, ?_, ?_, ?_, ?_⟩ <;> intro hcc <;> rw [reduceOp, hcc] <;> rfl

end Sys2Proof.Machine
end

section
/-! The results and the frame of the reductions. -/

open Sys2Proof Sys2Proof.Machine

/-- Settles O21: the reductions are cross-lane words over the tree of R162, whose operator is the element operation of its code. -/
theorem reductions : Obligations.Reductions := by
  intro s h o a hc ha _
  refine ⟨reduceOp s o, fun x y => ?_, fun hrm => ⟨?_, ?_, fun _ => ⟨_, vreds_gives hc ha hrm, fun k i => ⟨?_, ?_⟩⟩⟩, ?_⟩
  · obtain ⟨hadd, hmin, hmax, hand, hor, hxor⟩ := reduceOp_of_cc s o x y
    refine ⟨fun hty => ⟨fun hcc => ?_, fun hx hy => ?_⟩,
      fun hty hx hy => ⟨fun hcc => ?_, fun hcc => ?_, fun hcc => ?_, hand, hor, hxor⟩⟩
    · exact (hadd hcc).trans (subArith_fp hty ..)
    · obtain ⟨lo, hi, hmm, hlo, hhi⟩ := subMinMax_fp hty hx hy
      exact ⟨lo, hi, hmm, fun hcc => (hmin hcc).trans hlo, fun hcc => (hmax hcc).trans hhi⟩
    · exact (hadd hcc).trans (subArith_int hty ..)
    · exact (hmin hcc).trans (subMinMax_int hty hx hy).1
    · exact (hmax hcc).trans (subMinMax_int hty hx hy).2
  · exact vred_completes hc ha hrm
  · exact fun hfl hm hex b _ hb hlow => vred_traps hc ha hrm hm hex hfl b hb hlow
  · exact fun j hj hk hact => vredsSub_acts ha hj hk hact i
  · exact fun hk => vredsSub_alone a hk i
  · exact fun hfp hdith hm hex i hi => reduction_illegal hc ha hfp hdith hm hex hi

end
